-- ==== Sys2Proof/Word.lean ====
section
/-! DEFINITION. The word types and their plainest arithmetic. -/

namespace Sys2Proof

abbrev Byte := BitVec 8
abbrev U16 := BitVec 16
abbrev U32 := BitVec 32
abbrev U64 := BitVec 64

/-- A tide number (02 R41): a 48-bit count that wraps. -/
abbrev TideNo := BitVec 48

/-- A stream identifier (05 R116). -/
abbrev Sid := BitVec 20

/-- The two halves (01 R10). -/
inductive Half where
  | east
  | west
deriving DecidableEq, Repr

/-- The number that commands give a half: 0 East, 1 West. -/
def Half.num : Half → Nat
  | .east => 0
  | .west => 1

/-- The half that a number names (0 East, anything else West). -/
def Half.ofNum : Nat → Half
  | 0 => .east
  | _ => .west

def Half.other : Half → Half
  | .east => .west
  | .west => .east

/-- Berths 0 to 255 optical (0 to 127 East), 256 to 259 electrical (256, 257 East) (01 R15, 11 R303). -/
abbrev Berth := Fin 260

/-- The bit of a Bool as a number. -/
def bitNat (b : Bool) : Nat := if b then 1 else 0

end Sys2Proof
end

