-- ==== Sys2Proof/Syntax.lean ====
section
/-! DEFINITION. The commands of the block: one constructor per row of spec/opcode_table.json, with the operands that the
chapters' layouts give them. -/

namespace Sys2Proof

/-- The header of a UCI message as it stands in the slot (12 Table 12-8), less its CODE (the constructor), with the
channel it lies in, the LEN of the doorbell, whether some reserved field of the header or the body is nonzero, and the bytes
of the whole message, which spell these fields and those of the body. -/
structure Uci where
  ch : Fin 64
  len : BitVec 13
  hdrVer : Byte
  flags : Byte
  bodyLen : U16
  job : Byte
  tag : U32
  rsv : Bool
  bytes : List Byte
deriving DecidableEq, Repr

/-- A control cell as it is received (08 Tables 8-1, 8-6): its berth, its cell word and its 64 payload bytes, whose TYPE and body the
constructor and its operands spell as well. -/
structure Ctrl where
  berth : Berth
  cw : U32
  bytes : List Byte
deriving DecidableEq, Repr

/-- An alignment cell (08 Table 8-7). A timestamp is tide, cycle and sixteenths (02 R36). -/
structure AlignCell where
  dep : U64
  echoDep : U64
  echoArr : U64
  echoValid : Bool
  counting : Bool
  holdover : Bool
  senderBerth : Byte
deriving DecidableEq, Repr

/-- A DISCOVER cell (08 Table 8-7). -/
structure DiscoverCell where
  addr : U32
  berth : Byte
  role : Byte
  serial : U64
  epoch : Bool
  quarantined : Bool
deriving DecidableEq, Repr

/-- A codeword as the FEC leaves it: none if uncorrectable, else its 20-bit header and its 640 payload bytes (11 R284),
with the number of symbols the FEC corrected. -/
structure Codeword where
  word : Option (BitVec 20 × List Byte)
  corrected : Nat
deriving DecidableEq, Repr

/-- One codeword on each of the four lanes of a berth (11 R284). -/
structure Round where
  l0 : Codeword
  l1 : Codeword
  l2 : Codeword
  l3 : Codeword
deriving DecidableEq, Repr

/-- The configuration bytes of a Manifest, 0x04 to 0x7F (05 Table 5-1), in the layout's words. -/
structure ManifestCfg where
  opctl : U32
  range : U32
  elemCount : U32
  outMult : U16
  cOut : U16
  bias : U32
  clipLo : U32
  clipHi : U32
  indexStride : U32
  mcastGroup : U16
  members : Byte
  slots : Byte
  treeE : U32
  treeW : U32
  upAddr : U32
  downAddr : U32
  peers : U32
  parentAddr : U32
  rankmapAddr : U64
  retainAddr : U64
  spillAddr : U64
  fuseAddr : U64
  fuseDesc : U32
  recipe : U32
deriving DecidableEq, Repr

/-- The fields of a shard record that SHARD_DEFINE writes (07 Table 7-2, RW). -/
structure ShardCfg where
  ctl : U32
  fmts : U32
  tensor : U32
  grad : U32
  chunks : U32
  elems : U32
  holdBase : U64
  params : U32
  exps : U32
  amaxSid : U32
deriving DecidableEq, Repr

/-- The SAMPLER_GEN body (17 Table 17-1). -/
structure SamplerGenCfg where
  part : Byte
  genId : Byte
  berth : U16
  source : Byte
  flags : Byte
  const : Byte
  errKind : Byte
  period : U16
  packets : U16
  offset : U16
  spacing : U16
  count : U32
  errFirst : U32
  errInterval : U32
  template : U64
  replayAddr : U64
  replayLen : U32
deriving DecidableEq, Repr

/-- What the security core finds of a firmware image (14 R374): whether its signature verifies against the root key, and
its header's fields. -/
structure ImageInfo where
  sigOk : Bool
  svn : U32
  lifecycleMask : Byte
  version : U32
  build : U32
  digest : BitVec 384
deriving DecidableEq, Repr

/-- A binding of a mailbox channel: sender and receiver identity (12 R321). -/
structure Binding where
  send : BitVec 4
  recv : BitVec 4
deriving DecidableEq, Repr

/-- What a configuration block sets (15 R391, R395, R397, R398; its layout is not given: log entry 46): its digest, the
bindings of channels 32 to 63, the writes of Chart sections and the plan (section, first index, entries) and of the
traffic-management set (section, half, first index, entries), the tide configuration (mode, trim, parent, backup, start), and
the free-ring pages (half, mode, salt, pages). -/
structure ConfigBlock where
  digest : BitVec 384
  bindings : List (Fin 64 × Binding)
  chart : List (Byte × U16 × List Byte)
  tm : List (Byte × Byte × U16 × List Byte)
  tide : Option (Byte × Byte × U16 × U16 × U64)
  pools : List (Byte × Byte × U64 × List U64)
deriving DecidableEq, Repr

/-- What stage 5 reads from flash (14 R374, 15 R391): the image of each bank, and the configuration block if it is accepted. -/
structure FlashView where
  bank0 : Option ImageInfo
  bank1 : Option ImageInfo
  block : Option ConfigBlock
deriving DecidableEq, Repr

/-- The area of Quay in which the patrol scrub finds a word (13 Table 13-14). -/
inductive QuayArea where
  | manifestConfig (sid : Sid)
  | manifestStatus (sid : Sid)
  | retained (sid : Sid) (chunk : U16)
  | spillStore (sid : Sid) (chunk : U16)
  | shardRecord (index : BitVec 20)
  | recipeMemory (job : BitVec 6) (image : Byte)
  | freeRing
  | prefetch (id : Nat)
  | reshardStaging (cid : BitVec 12)
  | mcastEntry (group : U16)
  | other
deriving DecidableEq, Repr

/-- What the patrol scrub finds in a word (13 R359): an error that it corrects, one with which the Hold row shows 4 corrected errors in
the pass, an uncorrectable error. -/
inductive ScrubFind where
  | corrected
  | worn
  | uncorrectable
deriving DecidableEq, Repr

/-- Where the patrol scrub reads (13 R359). -/
inductive ScrubSite where
  | quay (half : Half) (offset : BitVec 33) (area : QuayArea)
  | hold (addr : BitVec 41)
deriving DecidableEq, Repr

/-- A fault of a tile that admitted work meets (04 R92, 13 Table 13-7, Example 13-1): an uncorrectable error in a window word, or
a residue check that fails, at an element of the work's chunk; in a combine, `below` says that it is in the partial taken. -/
structure TileFault where
  elem : BitVec 12
  residue : Bool
  below : Bool
deriving DecidableEq, Repr

/-- A fault of the hardware in the tide that ends, which no row of its own shows (13 R342, Tables 13-2, 13-3, 13-5): a line of a half
or of the package, a Hold stack's repair failure or training loss at an address, a tile's fault at a window (with drains and
substitutions, 13 Example 13-1), a divergence of a tasted block of a stream (07 R199), an error of the cell buffer, of a descriptor or
of the crossbar under a packet, an error of the Manifest cache (log entry 73). -/
inductive HwFault where
  | line (h : Half) (bit : BitVec 6)
  | pkgLine (bit : BitVec 6)
  | stack (addr : BitVec 41) (training : Bool)
  | window (h : Half) (eng : Fin 20) (tile : Fin 8) (index : U16) (residue : Bool)
  | taste (h : Half) (eng : Fin 20) (tile : Fin 8) (index : U16) (sid : Sid) (block : U32) (divergence : U32)
  | packet (h : Half) (bit : BitVec 6) (pid : Nat)
  | manifestCache (h : Half) (sid : Sid) (statusLost : Bool)
deriving DecidableEq, Repr

/-- The processors that the lockstep compare and the watchdogs cover (13 R357). -/
inductive Proc where
  | pairA
  | pairB
  | deputyE
  | deputyW
deriving DecidableEq, Repr

/-- The parties that a fence names (13 Table 13-12): physical engine, berth, job. -/
inductive FenceObj where
  | engine (half : Half) (phys : Fin 20)
  | berth (b : Berth)
  | job (j : BitVec 6)
deriving DecidableEq, Repr

/-- The ports that carry SPDM (14 R373). -/
inductive SpdmPort where
  | doe
  | rgmii (tag : Byte)
deriving DecidableEq, Repr

/-- The reads of a prefetch that have arrived (07 R203, R204): the prefetch, and the Hold address of an uncorrectable error met. -/
structure PrefetchRead where
  id : Nat
  ue : Option (BitVec 41)
deriving DecidableEq, Repr

/-- An Ethernet frame as an Ethernet-mode berth receives it (11 R306). -/
structure EthFrame where
  dstMac : BitVec 48
  srcMac : BitVec 48
  etherType : U16
  payload : List Byte
  fcsOk : Bool
deriving DecidableEq, Repr

/-- The power-good inputs (16 R411). -/
inductive PgInput where
  | hold
  | quay
  | oe
deriving DecidableEq, Repr

/-- The commands, one per row of spec/opcode_table.json. -/
inductive Instr where
  | tideBoundary (faults : List HwFault) -- TIDE_BOUNDARY
  | tideInEdge (time : Nat) (low : Nat) (high : Nat) -- TIDE_IN_EDGE
  | tideInLost (now : Nat) -- TIDE_IN_LOST
  | alignTx (b : Berth) (cyc : Nat) (frac : BitVec 4) -- ALIGN_TX
  | align (b : Berth) (c : AlignCell) (cyc : Nat) (frac : BitVec 4) (replayed : Bool) -- ALIGN
  | exchangeTimeout -- EXCHANGE_TIMEOUT
  | tideOverrun (h : Half) (eng : Fin 20) (tile : Fin 8) -- TIDE_OVERRUN
  | tideNowLoRead (who : BitVec 4) (cyc : Nat) -- TIDE_NOW_LO_READ
  | faultWordRead (who : BitVec 4) (word : Fin 3) -- FAULT_WORD_READ
  | contributionCell (h : Half) (eng : Fin 20) (tile : Fin 8) (cyc : Nat) (err : Option TileFault) -- CONTRIBUTION_CELL
  | treeCombine (sid : Sid) (chunk : U16) (srcHalf : Half) (srcEng : Fin 20) (srcTile : Fin 8) (cyc : Nat) (err : Option TileFault) -- TREE_COMBINE
  | outputConversion (sid : Sid) (chunk : U16) (cyc : Nat) (err : Option TileFault) -- OUTPUT_CONVERSION
  | fuseOperandLoad (sid : Sid) (chunk : U16) -- FUSE_OPERAND_LOAD
  | drain (h : Half) (eng : Fin 20) (tile : Fin 8) (cyc : Nat) -- DRAIN
  | drainDone (h : Half) (eng : Fin 20) (tile : Fin 8) -- DRAIN_DONE
  | spill (h : Half) (eng : Fin 20) (tile : Fin 8) (slot : Fin 16) (cyc : Nat) (err : Option TileFault) -- SPILL
  | recipeOperation (h : Half) (index : BitVec 20) (chunk : U16) (eng : Fin 20) (tile : Fin 8) (cyc : Nat) (ue : Option (BitVec 41)) -- RECIPE_OPERATION
  | manifestFetch (h : Half) (sid : Sid) -- MANIFEST_FETCH
  | contributionPacket (h : Half) (pid : Nat) -- CONTRIBUTION_PACKET
  | streamStart (c : Ctrl) (sid : Sid) (gen : Byte) -- STREAM_START
  | streamAbortCell (c : Ctrl) (sid : Sid) (gen : Byte) (failChunk : U16) (status : BitVec 4) -- STREAM_ABORT_CELL
  | poison (c : Ctrl) (sid : Sid) (gen : Byte) (failChunk : U16) -- POISON
  | resultAck (c : Ctrl) (sid : Sid) (gen : Byte) (chunk : U16) (count : U16) -- RESULT_ACK
  | resendReq (c : Ctrl) (sid : Sid) (gen : Byte) (chunk : U16) (elemOff : BitVec 12) (seg : BitVec 2) (ue : Option (BitVec 33)) -- RESEND_REQ
  | patienceExpiry (sid : Sid) (chunk : U16) -- PATIENCE_EXPIRY
  | streamFenceEmpty (sid : Sid) -- STREAM_FENCE_EMPTY
  | teardownDeadline (sid : Sid) -- TEARDOWN_DEADLINE
  | resultPacket (h : Half) (pid : Nat) -- RESULT_PACKET
  | peerLost (addr : U32) -- PEER_LOST
  | reshardPacket (h : Half) (pid : Nat) -- RESHARD_PACKET
  | reshardEnd (c : Ctrl) (round : U32) -- RESHARD_END
  | reshardReadDone (cid : BitVec 12) (entry : Nat) -- RESHARD_READ_DONE
  | reshardWritePhase (cid : BitVec 12) -- RESHARD_WRITE_PHASE
  | reshardWriteDone (cid : BitVec 12) -- RESHARD_WRITE_DONE
  | reshardTimeout (cid : BitVec 12) -- RESHARD_TIMEOUT
  | gatherReq (c : Ctrl) (tensor : BitVec 20) (first : BitVec 20) (count : U16) (version : TideNo) (dest : U32) (mcast : Bool) -- GATHER_REQ
  | gatherReadDone (gid : Nat) (ue : Option (BitVec 41)) -- GATHER_READ_DONE
  | gatherTimeout (gid : Nat) -- GATHER_TIMEOUT
  | prefetchReadDone (read : PrefetchRead) -- PREFETCH_READ_DONE
  | patrolScrub (site : ScrubSite) (found : ScrubFind) -- PATROL_SCRUB
  | packetArrival (h : Half) (sub : Fin 384) (cw : U32) (head : List Byte) -- PACKET_ARRIVAL
  | palletAllocation (h : Half) (pid : Nat) -- PALLET_ALLOCATION
  | packetReceivedWhole (h : Half) (pid : Nat) (rest : List Byte) (crc : U32) -- PACKET_RECEIVED_WHOLE
  | schedulerGrain (h : Half) -- SCHEDULER_GRAIN
  | freeRingFetch (h : Half) -- FREE_RING_FETCH
  | freeMapAudit (h : Half) -- FREE_MAP_AUDIT
  | bypassEngage (bundle : Fin 16) -- BYPASS_ENGAGE
  | epochGateOpen -- EPOCH_GATE_OPEN
  | chartShadowArm -- CHART_SHADOW_ARM
  | discoverTx (b : Berth) -- DISCOVER_TX
  | discover (b : Berth) (c : DiscoverCell) -- DISCOVER
  | discoveryTimeout (b : Berth) -- DISCOVERY_TIMEOUT
  | throttle (c : Ctrl) (mask : Byte) (level : Byte) (dur : U16) -- THROTTLE
  | credit (b : Berth) (job : Byte) (grants : List U16) (tide : TideNo) -- CREDIT
  | roundTx (b : Berth) -- ROUND_TX
  | roundRx (b : Berth) (r : Round) -- ROUND_RX
  | linkAck (b : Berth) (point : BitVec 10) -- LINK_ACK
  | nakRepeat (b : Berth) -- NAK_REPEAT
  | roundTimeout (b : Berth) -- ROUND_TIMEOUT
  | train (b : Berth) (serial : U64) (state : Byte) -- TRAIN
  | breakwater (b : Berth) -- BREAKWATER
  | doze (b : Berth) (ack : Bool) -- DOZE
  | wake (b : Berth) -- WAKE
  | spareOrderedSet (b : Berth) (lane : Fin 4) (spare : Fin 8) (cwcnt : BitVec 7) (ack : Bool) -- SPARE_ORDERED_SET
  | loop (b : Berth) (enter : Bool) -- LOOP
  | laneLockLoss (b : Berth) (lane : Fin 4) -- LANE_LOCK_LOSS
  | spareSwitch (b : Berth) -- SPARE_SWITCH
  | spareTimeout (b : Berth) -- SPARE_TIMEOUT
  | laserFailover (oe : Fin 16) (standbyOk : Bool) -- LASER_FAILOVER
  | dozeDelay (b : Berth) -- DOZE_DELAY
  | ls2ExitDone (target : U16) -- LS2_EXIT_DONE
  | ethernetFrame (lsx : Fin 4) (f : EthFrame) -- ETHERNET_FRAME
  | pauseFrame (lsx : Fin 4) (quanta : U16) -- PAUSE_FRAME
  | pauseRepeat (lsx : Fin 4) -- PAUSE_REPEAT
  | pauseExpiry (lsx : Fin 4) -- PAUSE_EXPIRY
  | hostRingPoll (f : Fin 8) (producer : U32) (rxConsumer : U32) -- HOST_RING_POLL
  | hostSlotFetch (f : Fin 8) (slot : List Byte) (cells : U16) -- HOST_SLOT_FETCH
  | functionLevelReset (f : Fin 8) -- FUNCTION_LEVEL_RESET
  | perstN (asserted : Bool) -- PERST_N
  | i3cPrivateWrite (bytes : List Byte) -- I3C_PRIVATE_WRITE
  | i3cPrivateRead (words : Nat) -- I3C_PRIVATE_READ
  | entdaa (addr : BitVec 7) -- ENTDAA
  | rstdaa -- RSTDAA
  | rgmiiRead (tag : Byte) (offset : U32) (length : U16) -- RGMII_READ
  | rgmiiWrite (tag : Byte) (offset : U32) (length : U16) (data : List Byte) -- RGMII_WRITE
  | rgmiiLinkDown (ms : Nat) -- RGMII_LINK_DOWN
  | getVersion (p : SpdmPort) -- GET_VERSION
  | getCapabilities (p : SpdmPort) -- GET_CAPABILITIES
  | negotiateAlgorithms (p : SpdmPort) (asym : U32) (hash : U32) -- NEGOTIATE_ALGORITHMS
  | getDigests (p : SpdmPort) -- GET_DIGESTS
  | getCertificate (p : SpdmPort) (slot : Byte) (offset : U16) (length : U16) -- GET_CERTIFICATE
  | challenge (p : SpdmPort) (slot : Byte) (nonce : BitVec 256) -- CHALLENGE
  | getMeasurements (p : SpdmPort) (index : Byte) (signed : Bool) (nonce : BitVec 256) -- GET_MEASUREMENTS
  | bypass -- BYPASS
  | idcode -- IDCODE
  | samplePreload (scanIn : List Bool) -- SAMPLE_PRELOAD
  | extest (scanIn : List Bool) -- EXTEST
  | highz -- HIGHZ
  | clamp -- CLAMP
  | debugHm (p : Fin 2) (halt : Bool) -- DEBUG_HM
  | debugDep (h : Half) (halt : Bool) -- DEBUG_DEP
  | scanHalf (h : Half) -- SCAN_HALF
  | memPeek (h : Half) (offset : BitVec 33) -- MEM_PEEK
  | faultInj (source : U16) -- FAULT_INJ
  | otpProg (addr : U16) (value : U32) -- OTP_PROG
  | secDebug -- SEC_DEBUG
  | doorbell (who : BitVec 4) (ch : Fin 64) (len : BitVec 13) -- DOORBELL
  | mbCtrlRelease (who : BitVec 4) (ch : Fin 64) -- MB_CTRL_RELEASE
  | mailboxSlotWrite (who : BitVec 4) (ch : Fin 64) (offset : BitVec 12) (data : List Byte) -- MAILBOX_SLOT_WRITE
  | selfReset (who : BitVec 4) -- SELF_RESET
  | registerWrite (who : BitVec 4) (offset : BitVec 20) (value : U32) -- REGISTER_WRITE
  | replyPart (ch : Fin 64) -- REPLY_PART
  | moverTransferDone (id : Nat) -- MOVER_TRANSFER_DONE
  | version (u : Uci) -- VERSION
  | jobOwner (u : Uci) (job : Byte) (owner : Byte) -- JOB_OWNER
  | tideConfig (u : Uci) (mode : Byte) (trim : Byte) (parent : U16) (backup : U16) (start : U64) -- TIDE_CONFIG
  | tideAsym (u : Uci) (berth : U16) (asym : U16) -- TIDE_ASYM
  | tideRelock (u : Uci) -- TIDE_RELOCK
  | berthMode (u : Uci) (lsx : Byte) (mode : Byte) (etherType : U16) (ownMac : BitVec 48) (peerMac : BitVec 48) -- BERTH_MODE
  | poolSetup (u : Uci) (half : Byte) (mode : Byte) (salt : U64) (pages : List U64) -- POOL_SETUP
  | laneState (u : Uci) (target : U16) (state : Byte) (dozeDelay : U32) -- LANE_STATE
  | laneLoop (u : Uci) (berth : U16) (loop : Byte) (pattern : Byte) -- LANE_LOOP
  | hostRing (u : Uci) (log2 : Byte) (enable : Byte) (txBase txProd txCons rxBase rxProd rxCons : U64) -- HOST_RING
  | reset (u : Uci) (scope : Byte) -- RESET
  | fwBegin (u : Uci) (size : U32) -- FW_BEGIN
  | fwData (u : Uci) (offset : U32) (len : U16) (data : List Byte) -- FW_DATA
  | fwCommit (u : Uci) (img : ImageInfo) -- FW_COMMIT
  | fwSvnRaise (u : Uci) (svn : U32) -- FW_SVN_RAISE
  | chartWrite (u : Uci) (section_ : Byte) (index : U16) (count : U16) (entries : List Byte) -- CHART_WRITE
  | chartArm (u : Uci) (t : U64) -- CHART_ARM
  | chartRead (u : Uci) (slot : Byte) (section_ : Byte) (index : U16) (count : U16) -- CHART_READ
  | discoveryReport (u : Uci) -- DISCOVERY_REPORT
  | lift (u : Uci) (kind : Byte) (index : U16) -- LIFT
  | tmWrite (u : Uci) (section_ : Byte) (half : Byte) (index : U16) (count : U16) (entries : List Byte) -- TM_WRITE
  | tmArm (u : Uci) (half : Byte) -- TM_ARM
  | streamCreate (u : Uci) (sid : U32) (m : ManifestCfg) -- STREAM_CREATE
  | streamArm (u : Uci) (sid : U32) (cOut : U16) -- STREAM_ARM
  | streamAbort (u : Uci) (sid : U32) -- STREAM_ABORT
  | streamCommit (u : Uci) (sid : U32) -- STREAM_COMMIT
  | streamTeardown (u : Uci) (sid : U32) -- STREAM_TEARDOWN
  | streamStatus (u : Uci) (sid : U32) -- STREAM_STATUS
  | streamPin (u : Uci) (sid : U32) (pin : Byte) -- STREAM_PIN
  | collDefine (u : Uci) (cid : U16) (ctl : U32) (sids : U32) -- COLL_DEFINE
  | collArm (u : Uci) (cid : U16) (t : U64) -- COLL_ARM
  | collStatus (u : Uci) (cid : U16) -- COLL_STATUS
  | collTeardown (u : Uci) (cid : U16) -- COLL_TEARDOWN
  | reshard (u : Uci) (cid : U16) (round : U32) (table : U64) (entries : U32) -- RESHARD
  | holdAlloc (u : Uci) (stack : Byte) (first : U32) (count : U32) -- HOLD_ALLOC
  | holdFree (u : Uci) (stack : Byte) (first : U32) (count : U32) -- HOLD_FREE
  | quayAlloc (u : Uci) (half : Byte) (base : U64) (size : U64) -- QUAY_ALLOC
  | seedSet (u : Uci) (seed : U64) -- SEED_SET
  | stepSet (u : Uci) (step : U64) -- STEP_SET
  | shardDefine (u : Uci) (index : U32) (half : Byte) (r : ShardCfg) -- SHARD_DEFINE
  | versionClose (u : Uci) (version : U64) -- VERSION_CLOSE
  | prefetch (u : Uci) (version : U64) (group : U16) (ranges : List (U32 × U32 × U32)) -- PREFETCH
  | holdWrite (u : Uci) (addr : U64) (len : U32) (data : List Byte) -- HOLD_WRITE
  | holdRead (u : Uci) (addr : U64) (len : U32) -- HOLD_READ
  | quayWrite (u : Uci) (addr : U64) (len : U32) (data : List Byte) -- QUAY_WRITE
  | quayRead (u : Uci) (addr : U64) (len : U32) -- QUAY_READ
  | versionSeed (u : Uci) (index : U32) (half : Byte) (version : U64) (cCopy : U16) (amax : U32) -- VERSION_SEED
  | recipeLoad (u : Uci) (image : U16) (last : Byte) (offset : U32) (len : U16) (data : List Byte) -- RECIPE_LOAD
  | recipeParam (u : Uci) (block : Byte) (scalars : List U32) -- RECIPE_PARAM
  | recipeStatus (u : Uci) (shard : U32) -- RECIPE_STATUS
  | recipeUnload (u : Uci) (image : U16) -- RECIPE_UNLOAD
  | faultRead (u : Uci) (first : U16) -- FAULT_READ
  | faultConfig (u : Uci) (source : U16) (n : U16) (wLog2 : Byte) -- FAULT_CONFIG
  | safeExit (u : Uci) (scope : Byte) (maskIndex : U16) -- SAFE_EXIT
  | fence (u : Uci) (kind : Byte) (index : U16) (enable : Byte) -- FENCE
  | spare (u : Uci) (kind : Byte) (berth : U16) (lane : Byte) (spareIdx : Byte) (engine : Byte) (tile : Byte) -- SPARE
  | engineMap (u : Uci) (half : Byte) (logical : Byte) (physical : Byte) -- ENGINE_MAP
  | repairLog (u : Uci) (first : U16) -- REPAIR_LOG
  | tileRead (u : Uci) (engine : Byte) (tile : Byte) (first : U16) (count : U16) -- TILE_READ
  | tileWrite (u : Uci) (engine : Byte) (tile : Byte) (first : U16) (count : U16) (images : List (BitVec 128)) -- TILE_WRITE
  | palletDiag (u : Uci) (half : Byte) (first : U32) (count : U16) -- PALLET_DIAG
  | palletAudit (u : Uci) (half : Byte) -- PALLET_AUDIT
  | powerSet (u : Uci) (state : Byte) -- POWER_SET
  | debugChallenge (u : Uci) -- DEBUG_CHALLENGE
  | debugOpen (u : Uci) (target : Byte) (signature : BitVec 768) -- DEBUG_OPEN
  | debugClose (u : Uci) -- DEBUG_CLOSE
  | lifecycleSet (u : Uci) (target : Byte) (signature : BitVec 768) -- LIFECYCLE_SET
  | zeroize (u : Uci) (scope : Byte) -- ZEROIZE
  | mastership (u : Uci) -- MASTERSHIP
  | countersRead (u : Uci) (set : Byte) (first : U16) (count : U16) -- COUNTERS_READ
  | tastingSet (u : Uci) (k : Byte) (threshold : U32) -- TASTING_SET
  | noiseSet (u : Uci) (sid : U32) (j : Byte) (key : U32) -- NOISE_SET
  | stepReport (u : Uci) (kind : Byte) (index : U32) -- STEP_REPORT
  | mirrorSet (u : Uci) (half : Byte) (session : Byte) (source : Byte) (dir : Byte) (vc : Byte) (analysis : U16) (key : U32) (flow : U16) (job : Byte) -- MIRROR_SET
  | samplerCreate (u : Uci) (part : Byte) (persona : Byte) (whole : Byte) (addr : U32) (berths : BitVec 264) (engines : U64) -- SAMPLER_CREATE
  | samplerGen (u : Uci) (g : SamplerGenCfg) -- SAMPLER_GEN
  | samplerCheck (u : Uci) (part : Byte) (berth : U16) (trigger : U16) (pre : Byte) (post : U16) (mode : Byte) (ring : U64) (entries : U32) -- SAMPLER_CHECK
  | samplerGolden (u : Uci) (part : Byte) (ack : Byte) (sid : U32) (gen : Byte) (table : U64) (out : U64) (m : ManifestCfg) -- SAMPLER_GOLDEN
  | samplerStart (u : Uci) (part : Byte) (t : U64) -- SAMPLER_START
  | samplerStop (u : Uci) (part : Byte) -- SAMPLER_STOP
  | samplerStatus (u : Uci) (part : Byte) -- SAMPLER_STATUS
  | samplerDestroy (u : Uci) (part : Byte) -- SAMPLER_DESTROY
  | mgmtInterrupt (block : Fin 9) -- MGMT_INTERRUPT
  | forcePkg (who : BitVec 4) -- FORCE_PKG
  | forceE (who : BitVec 4) -- FORCE_E
  | forceW (who : BitVec 4) -- FORCE_W
  | ack (who : BitVec 4) -- ACK
  | watchdog (p : Proc) -- WATCHDOG
  | lockstepMismatch (p : Proc) -- LOCKSTEP_MISMATCH
  | latchLost (h : Half) -- LATCH_LOST
  | fenceEmpty (o : FenceObj) -- FENCE_EMPTY
  | fenceDeadline (o : FenceObj) -- FENCE_DEADLINE
  | tempHigh (sensor : Fin 18) (celsius : Nat) -- TEMP_HIGH
  | thermTrip (sensor : Fin 18) (celsius : Nat) -- THERM_TRIP
  | voltage (rail : Fin 26) -- VOLTAGE
  | powerGood (pg : PgInput) (level : Bool) -- POWER_GOOD
  | pll (h : Half) -- PLL
  | nonceExpiry -- NONCE_EXPIRY
  | zeroizeDone -- ZEROIZE_DONE
  | powerOn (group : Fin 5) -- POWER_ON
  | bootRom (pllOk : Bool) (otpOk : Bool) (secOk : Bool) (hmA : Bool) (hmB : Bool) -- BOOT_ROM
  | warmReset (lowNs : Nat) -- WARM_RESET
  | firmwareAuthentication (f : FlashView) -- FIRMWARE_AUTHENTICATION
  | bist (h : Half) (ok : Bool) -- BIST
  | memoryTraining (h : Half) (quayOk : Bool) (stacksOk : Byte) -- MEMORY_TRAINING
  | laneBringUp (feeds : List (Bool × Bool)) -- LANE_BRING_UP
  | discovery -- DISCOVERY
  | chartLoad -- CHART_LOAD
  | bindingTableLock -- BINDING_TABLE_LOCK
  | firstTide (now : Nat) -- FIRST_TIDE
  | halfRejoin (h : Half) -- HALF_REJOIN
  | generatorPacket (part : Fin 4) (gen : Fin 16) (slot : Nat) -- GENERATOR_PACKET
  | mark (b : Berth) (genId : Byte) (seq : U32) (departure : U64) (cyc : Nat) (frac : BitVec 4) -- MARK
  | goldenEvaluation (part : Fin 4) -- GOLDEN_EVALUATION
  | goldenCompare (part : Fin 4) (b : Berth) (payload : List Byte) -- GOLDEN_COMPARE
  | powerOff -- POWER_OFF
  | bridgeSubportRemoved (h : Half) (j : Fin 96) (moduleDown : Bool) -- BRIDGE_SUBPORT_REMOVED
  | trstN -- TRST_N
  | thermtripNDeassert -- THERMTRIP_N_DEASSERT
  | clock (h : Half) -- CLOCK
deriving DecidableEq, Repr

end Sys2Proof
end

