-- ==== Sys2Proof/Decode.lean ====
section
/-! DEFINITION. The decoder of the opcode table's words. -/

namespace Sys2Proof

/-- spec/opcode_table.json gives no row any bits (every row has an empty "bits"), so no word spells a command. -/
def decodeTableWord (_nbits _w : Nat) : Option Instr := none

end Sys2Proof
end

