-- ==== Sys2Proof/Config.lean ====
section
/-! DEFINITION. The free values: what the spec leaves open or gives to keys and functions that the model does not compute.
None of them has a body that a proof can see. -/

namespace Sys2Proof.Config

/-- exp2 inside its domain, at a non-integer argument: whether the unit answers the upper of the two FP32 neighbours of
2^x (04 Table 4-3: 1 ulp). Log entry 10. -/
opaque exp2Up : U32 → Bool

/-- rsqrt where no 4^k: whether the unit answers the upper neighbour (04 Table 4-3: 1 ulp). Log entry 10. -/
opaque rsqrtUp : U32 → Bool

/-- The place of this switch among its parent's children for a stream (06 R163: no field gives it). Log entry 17. -/
opaque childIndex : Nat → BitVec 3

/-- The switches that send to a RESHARD record's round (06 R165 has them in the table, whose entries name none): by record and round. Log
entry 26. -/
opaque reshardSources : Nat → Nat → List Nat

/-- The stream key (bits 51 to 32) and the index (bits 31 to 0) of the draw for a stochastic rounding of which 07 Table 7-8 names no keys: by
operation word, tensor and tensor element. Log entry 25. -/
opaque srKey : Nat → Nat → Nat → Nat

/-- The coarse exponent of the windows that a DOT, SKETCH or MATMUL sums in (04 R114 gives an operation one, no rule its value), by operation
code. Log entry 94. -/
opaque opCexp : Nat → Byte

/-- The source code under which Uzorik enters a failure of start-up before it ran (15 R401 names none), by FAIL code. Log entry 55. -/
opaque bootSource : Nat → U16

/-- The multicast group that EMIT sends a shard's copy to (07 Table 7-6 names it, no field gives it). Log entry 20. -/
opaque copyGroup : Nat → U16

/-- SHA-384 of a message (14). Log entry 11. -/
opaque sha384 : List Byte → BitVec 384

/-- Does an ECDSA P-384 signature over a message verify under the key of a kind (14 R367, R368)? Log entry 11. -/
opaque ecdsaOk : Nat → List Byte → BitVec 768 → Bool

/-- The signature that the key of a kind makes of a message, the n-th made (13 R362, 14 R373). Log entry 11. -/
opaque ecdsaSign : Nat → List Byte → Nat → BitVec 768

/-- The n-th random value of the security core (14 R367). Log entry 11. -/
opaque random : Nat → BitVec 384

/-- What a byte of Hold reads as under keys other than those it was written with (14 R372): by address and epochs. Log
entry 12. -/
opaque holdOther : Nat → Nat → Nat → Byte

/-- The n-th free byte (log entry 13). -/
opaque freeByte : Nat → Byte

/-- The n-th free word (log entry 13). -/
opaque freeWord : Nat → U32

/-- The bit that a boundary-scan cell captures (11 R312): by the n-th scan and position. Log entry 13. -/
opaque scanBit : Nat → Nat → Bool

/-- What the n-th scan of a half's logic, or access to a core or to the security core, shows (14 R370). Log entry 13. -/
opaque scanData : Nat → List Bool

/-- Byte n of the PRBS31 or PRBS13 sequence of ITU-T O.150 from the all-ones seed (17 R435). Log entry 13. -/
opaque prbs : Nat → Nat → Byte

/-- The certificate chain of slot 0 (14 R373). Log entry 14. -/
opaque certChain : List Byte

/-- The repair map in OTP (13 R361). Log entry 14. -/
opaque repairMap : List Byte

/-- The physical tiles, the physical engines and the lane circuits that the repair map marks out of service (13 R361), by half, by half and
by OE. Log entry 14. -/
opaque mapTiles : Nat → List Nat
opaque mapEngines : Nat → List Nat
opaque mapCircuits : Nat → List Nat

/-- The pallets that repair has left out of service (09 R257), by half. Log entry 14. -/
opaque mapPallets : Nat → List Nat

/-- The part's serial number (12 VERSION, 08 DISCOVER). Log entry 14. -/
opaque serial : U64

/-- The identity bytes of VERSION that the spec does not give: by offset. Log entry 14. -/
opaque versionByte : Nat → Byte

/-- The default own MAC address of an electrical berth (11 R304). Log entry 14. -/
opaque ownMac : Nat → BitVec 48

end Sys2Proof.Config
end

