-- ==== Sys2Proof/Machine/State.lean ====
section
/-! DEFINITION. The state of the block as plain data, and the state after reset. -/

namespace Sys2Proof.Machine

/-- A table with a default: the entries that differ from it or have been set, keys rising (`Tab.set`, Machine/Ops.lean). -/
abbrev Tab (α : Type) := List (Nat × α)

/-- A byte-addressed memory: the cells that are not zero, addresses strictly rising (`Mem.wf`, Machine/Ops.lean). -/
abbrev Mem := List Host.Cell

/-- Reasons a command faults. No meaning raises one: the spec gives every row an effect (NOTES.md, Stops). -/
inductive Fault where
  /-- Raised by nobody; a closed type needs a name. Safe. -/
  | none_
deriving DecidableEq, Repr

/-- Reasons a command is refused. -/
inductive Refusal where
  /-- Raised by an arm of `exec` whose meaning is not written. Safe. -/
  | notModelled (mnemonic : String)
deriving DecidableEq, Repr

/-! ## Windows and engines (04) -/

/-- A window (04 R86, Table 4-4): A in two's complement, WRAP, and the three flags. -/
structure Window where
  a : BitVec 104 := 0
  wrap : BitVec 2 := 0
  spec : Bool := false
  ovfp : Bool := false
  ovfn : Bool := false
deriving DecidableEq, Repr

/-- A spill store word (04 Table 4-6). -/
structure SpillWord where
  value : BitVec 125 := 0
  spec : Bool := false
  ovfp : Bool := false
  ovfn : Bool := false
deriving DecidableEq, Repr

/-- An exact value with its winner index (04 R104, R105): sig * 2^exp, or special; of a local member's value, its job rank. -/
structure ExactVal where
  special : Bool := false
  sig : Int := 0
  exp : Int := 0
  index : U32 := 0
  rank : Option Nat := none
deriving DecidableEq, Repr

/-- A row of an LSE partial on a tile (04 R107 to R109): the maximum m (FP32) and the window of l. -/
structure LseRow where
  m : U32 := 0
  l : Window := {}
deriving DecidableEq, Repr

/-- A chunk slot of a tile (04 R83, R90, R93): its chunk, the placements of each window since its last spill, and the
spills made in the step. `store` is the spill store of a tile for which the spill area holds none (log entry 78). -/
structure ChunkSlot where
  sid : Nat
  chunk : Nat
  counts : Tab Nat := []
  spills : Nat := 0
  spilled : Bool := false
  store : Tab SpillWord := []
  combined : List Nat := []
  merged : Bool := false
  lseO : List (Nat × Nat × ExactVal) := []
  lseS : List (Nat × Nat × U32) := []
deriving DecidableEq, Repr

/-- A cell waiting at a tile: cell number `idx` of an accepted packet (02 R48, R49). -/
structure CellWork where
  sid : Nat
  gen : Byte
  pid : Nat
  idx : Nat
deriving DecidableEq, Repr

/-- Why a drain was asked for (04 R96). -/
inductive DrainFor where
  | abort (sid : Nat)
  | read (xfer : Nat)
  | substitution (phys : Nat)
  | safeState
  | fence
  | snapshot (part : Nat)
deriving DecidableEq, Repr

/-- The unit of work that a tile runs (02 R52): for a chunk of a stream, for a chunk of a shard (its key), or for neither (a drain, a
cell of an ended run, a statistic). -/
inductive TileWork where
  | chunk (sid c : Nat)
  | shard (key c : Nat)
  | other
deriving DecidableEq, Repr

/-- A logical tile (04 Table 4-1). -/
structure TileSt where
  phys : Nat
  budget : Nat := 0
  peak : Nat := 0
  busy : Nat := 0
  windows : Tab Window := []
  exact : Tab ExactVal := []
  rows : Tab LseRow := []
  slots : Tab ChunkSlot := []
  cells : List CellWork := []
  drainsWaiting : List DrainFor := []
  draining : Option DrainFor := none
  running : Option TileWork := none
  pSub : Option Nat := none
deriving DecidableEq, Repr

/-! ## Streams (05) -/

/-- The status and counter bytes of a Manifest that one half keeps (05 Table 5-1, 0x80 to 0xC7). -/
structure StreamStat where
  lateRank : Byte := 0xFF
  failChunk : U16 := 0xFFFF
  special : Bool := false
  sat : Bool := false
  resent : Bool := false
  remote : Bool := false
  status : BitVec 4 := 0
  lostElem : Nat := 0
  lostMass : Nat := 0
  armTide : TideNo := 0
  doneTide : TideNo := 0
  released : Nat := 0
  accepted : Nat := 0
  stale : Nat := 0
  dup : Nat := 0
  bad : Nat := 0
  discarded : Nat := 0
  resends : Nat := 0
  spills : Nat := 0
  misses : Nat := 0
deriving DecidableEq, Repr

/-- A packet the switch made from a chunk's result or carry (05 R132, R133): header and payload as it leaves. -/
structure OutPkt where
  elemOff : Nat
  seg : Nat
  payload : List Byte
deriving DecidableEq, Repr

/-- A chunk's record for the current run (05 R129); `bad` says that a fault was met in one of its windows (04 R92), `expired` that its
patience has run out (05 R139). -/
structure ChunkSt where
  masks : Tab (BitVec 128) := []
  clock : Option TideNo := none
  last : Option TideNo := none
  complete : Bool := false
  fuse : Option (List Byte) := none
  fuseLoaded : Bool := false
  expired : Bool := false
  converted : Bool := false
  convTide : TideNo := 0
  out : List OutPkt := []
  sent : Bool := false
  released : Bool := false
  freed : Bool := false
  acks : List Nat := []
  recipeAck : Bool := false
  rx : List OutPkt := []
  rxDone : Bool := false
  rowLen : Nat := 0
  fwd : Nat := 0
  bad : Bool := false
deriving DecidableEq, Repr

/-- An abort that waits for its boundary (05 R139, R140, R137, R147, 06 R168). -/
structure AbortReq where
  status : BitVec 4
  failChunk : U16
  lateRank : Byte
  remote : Bool
  from_ : Option U32
deriving DecidableEq, Repr

/-- A resend asked for (05 R135). -/
structure ResendWork where
  dest : U32
  chunk : Nat
  elemOff : Nat
  seg : Nat
deriving DecidableEq, Repr

/-- Stream states (05 Table 5-8). -/
inductive StreamState where
  | free
  | idle
  | live
  | retaining
  | stopped
  | fencing
deriving DecidableEq, Repr

/-- A stream: its Manifest (05 Table 5-1) and its working state; `home` is the HOME of the Manifest it has, or had last (05 R144). -/
structure StreamSt where
  state : StreamState := .free
  gen : Byte := 0
  home : Half := .east
  cfg : Option ManifestCfg := none
  cOut : U16 := 0x3F80
  statE : StreamStat := {}
  statW : StreamStat := {}
  chunks : Tab ChunkSt := []
  pCreate : Option ManifestCfg := none
  pArm : Option (TideNo × U16) := none
  pAbort : Option AbortReq := none
  pAbortCmd : Bool := false
  pCommit : Bool := false
  pTeardown : Bool := false
  startSeen : Option Byte := none
  parkedCells : List CellWork := []
  resends : List ResendWork := []
  torn : Option TideNo := none
  fenceEmpty : Bool := false
  genEnds : List (Byte × TideNo) := []
  damaged : Bool := false
  noise : Option (Nat × U32) := none
  pNoise : Option (Option (Nat × U32)) := none
  noiseS : ExactVal := {}
  noiseA : ExactVal := {}
  noiseChunks : Nat := 0
  tasteDiv : U32 := 0
  tasteBlock : U32 := 0
  tasteBlocks : Nat := 0
deriving DecidableEq, Repr

/-- The Manifest cache of a half (05 R145): identifiers held, least recently used first, pinned ones, fetches under way. -/
structure MCache where
  held : List Nat := []
  pinned : List Nat := []
  fetching : List Nat := []
deriving DecidableEq, Repr

/-! ## Collectives (06) -/

/-- A line of a RESHARD mapping table (12 R336). -/
structure ReshardEntry where
  srcAddr : Nat
  length : Nat
  dstSwitch : U32
  dstAddr : Nat
  sent : Bool
deriving DecidableEq, Repr

/-- A RESHARD round under way (06 R165). -/
structure ReshardSt where
  round : U32
  deadline : TideNo
  entries : List ReshardEntry
  sources : List Nat
  ends : List Nat
  staging : Tab (List Byte)
  writing : Bool
deriving DecidableEq, Repr

/-- A collective record (06 Tables 6-2, 6-3). -/
structure CollSt where
  ctl : U32 := 0
  gen : Byte := 0
  sidB : Sid := 0
  state : BitVec 4 := 0
  pinned : Bool := false
  job : Nat := 0
  armT : Option TideNo := none
  armed : Bool := false
  teardown : Bool := false
  reshard : Option ReshardSt := none
deriving DecidableEq, Repr

/-! ## Jobs, Hold, shards, recipes (07) -/

/-- A recipe image (07 R184): the operation words of UPDATE and of QUANT. -/
structure Recipe where
  update : List U64
  quant : List U64
deriving DecidableEq, Repr

/-- What a job holds (07 R172 to R186, R198; 12 R332, R447). -/
structure JobSt where
  owner : BitVec 4 := 0xF
  seed : U64 := 0
  step : TideNo := 0
  pSeed : Option U64 := none
  pStep : Option TideNo := none
  granules : List (Nat × Nat) := []
  keyEpoch : Option Nat := none
  quayE : Option (Nat × Nat) := none
  quayW : Option (Nat × Nat) := none
  pQuayE : Option (Nat × Nat) := none
  pQuayW : Option (Nat × Nat) := none
  retired : Option TideNo := none
  firstVersion : TideNo := 0
  closed : List TideNo := []
  pClose : List TideNo := []
  outstanding : List (TideNo × Nat) := []
  images : Tab Recipe := []
  imageBad : List Nat := []
  loading : Tab (List (Nat × Byte)) := []
  imgArmed : Tab Recipe := []
  pUnload : List Nat := []
  params : Tab (List U32) := []
  pParams : Tab (List U32) := []
  tasteK : Nat := 0
  tasteTh : U32 := 0
  pTaste : Option (Nat × U32) := none
  drops : Nat := 0
  gatherRefused : Nat := 0
  fenced : Bool := false
deriving DecidableEq, Repr

/-- Progress of a shard chunk through its sections (07 R185, R196); `exact` holds the values, not rounded yet, of a register that the next
operation stores (07 R187), `undo` the Hold bytes, with their epochs, that the stores of its section have overwritten (07 R204). -/
structure RecChunk where
  quant : Bool := false
  pc : Nat := 0
  eng : Nat := 0
  tile : Nat := 0
  v : Tab (List U32) := []
  w : List Window := []
  loaded : List Nat := []
  narrow : List Nat := []
  hi : List Nat := []
  exact : List ExactVal := []
  wideV : Tab (List U32) := []
  wideW : List U32 := []
  wideP : Tab (List U32) := []
  updDone : Bool := false
  quantDone : Bool := false
  undo : List (Nat × Byte × Option Nat) := []
deriving DecidableEq, Repr

/-- A shard: its record (07 Table 7-2) and the working state of its step (07 R205). `stepRun` is the run of the gradient stream that its
step belongs to, by its ARM_TIDE; `rewritten` the Hold ranges that the host has written since the shard was poisoned (07 R204). -/
structure ShardSt where
  half : Half
  cfg : ShardCfg
  state : BitVec 4 := 0
  mexp : Byte := 0
  cCopy0 : U16 := 0x3F80
  cCopy1 : U16 := 0x3F80
  ver0 : TideNo := 0xFFFF_FFFF_FFFF
  ver1 : TideNo := 0xFFFF_FFFF_FFFF
  amax : U32 := 0
  pCfg : Option ShardCfg := none
  pSeed : Option (TideNo × U16 × U32) := none
  pPoison : Bool := false
  status : BitVec 4 := 0
  sat : Bool := false
  special : Bool := false
  lostElem : Nat := 0
  lostMass : Nat := 0
  running : ExactVal := {}
  q : Tab ExactVal := []
  tensorAmax : Option U32 := none
  pVer : Option (TideNo × U16) := none
  grads : Tab (List OutPkt) := []
  work : Tab RecChunk := []
  stamps : Tab (BitVec 17) := []
  updCount : Nat := 0
  quantCount : Nat := 0
  stepRun : Option TideNo := none
  rewritten : List (Nat × Nat) := []
  tasteDiv : U32 := 0
  tasteBlock : U32 := 0
  tasteBlocks : Nat := 0
deriving DecidableEq, Repr

/-- A gather accepted or waiting (07 R177 to R180); `requester` asked for it by a cell, an EMIT or a prefetch has none. -/
structure Gather where
  id : Nat
  job : Nat
  shard : Nat
  tensor : Nat
  first : Nat
  count : Nat
  version : TideNo
  dest : U32
  mcast : Bool
  asked : TideNo
  waiting : Bool
  requester : Option U32
  via : Half := .east
deriving DecidableEq, Repr

/-- A prefetch under way (07 R203); its bytes are held apart from the Quay (log entry 71). -/
structure Prefetch where
  id : Nat
  job : Nat
  version : TideNo
  group : U16
  ranges : List (Nat × Nat × Nat)
  bytesE : Nat
  bytesW : Nat
deriving DecidableEq, Repr

/-! ## Charts (08) and traffic management (10) -/

/-- A BUNDLES entry (12 Table 12-13): role 1 to 8 (0 unused), neighbour address, berths and neighbour's berths. -/
structure BundleE where
  role : Nat
  addr : U32
  berths : List Nat
  peerBerths : List Nat
deriving DecidableEq, Repr

/-- A GROUPS entry (12 Table 12-13). -/
structure GroupE where
  addr : U32
  noSpares : Bool
  analysis : Bool
  berths : List Nat
  jobs : U64
deriving DecidableEq, Repr

/-- A JOBS entry for one axis (08 Table 8-12, 12 Table 12-13). -/
structure SliceAxis where
  base : Nat
  len : Nat
  dl : Nat
deriving DecidableEq, Repr

/-- A PLAN entry (12 Table 12-13). -/
structure PlanE where
  addr : U32
  berth : U16
  unused : Bool
deriving DecidableEq, Repr

/-- A Chart slot (08 Table 8-12, 12 Table 12-13), its sections as tables of entries. -/
structure Chart where
  own : U32 := 0
  nx : Nat := 1
  ny : Nat := 1
  nz : Nat := 1
  wrap : BitVec 3 := 0
  salt : U64 := 0
  hasSelf : Bool := false
  bundles : Tab BundleE := []
  groups : Tab GroupE := []
  harbour : Tab U32 := []
  jobs : Tab (List SliceAxis) := []
  mcast : Tab (List U32) := []
  bypass : BitVec 16 := 0
  quarantine : BitVec 260 := 0
deriving DecidableEq, Repr

/-- The Charts of the switch (08 R227 to R234); `base` is what the shadow slot held before it was written (14 R385). -/
structure ChartSt where
  slot0 : Chart := {}
  slot1 : Chart := {}
  base : Chart := {}
  epoch : Bool := false
  active : Bool := false
  armT : Option TideNo := none
  armed : Bool := false
  draining : Bool := false
  drainEnd : TideNo := 0
  plan : Tab PlanE := []
  bypassSel : BitVec 16 := 0
  pBypass : BitVec 16 := 0
  pLiftQ : List Nat := []
  pLiftB : List Nat := []
  badGroups : List Nat := []
deriving DecidableEq, Repr

/-- A partition entry (10 R269, 12 Table 12-12). -/
structure PartitionE where
  part : Nat
  job : Nat
  quant : Nat
  cir : Nat
  reserve : List Nat
deriving DecidableEq, Repr

/-- A traffic-management set of a half (10 Tables 10-1 to 10-4, 12 Table 12-12). -/
structure TmSet where
  outputs : Tab U64 := []
  credits : Tab U32 := []
  policers : Tab (BitVec 128) := []
  throttles : Tab U64 := []
  partitions : Tab (List PartitionE) := []
deriving DecidableEq, Repr

/-- The throttling that an output and class is doing (10 R275). -/
structure ThrSt where
  level : Nat := 0
  lastQueue : Nat := 0
  targets : List (U32 × Byte) := []
deriving DecidableEq, Repr

/-- A limit on the injectors of a half (10 R277). -/
structure InjLimit where
  src : U32
  job : Byte
  mask : Byte
  level : Nat
  until_ : TideNo
deriving DecidableEq, Repr

/-! ## The switch core (09) -/

/-- The body of a control cell that the switch sends (08 Table 8-7, 17 R438). -/
inductive CtrlBody where
  | streamStart (sid : Sid) (gen : Byte)
  | streamAbort (sid : Sid) (gen : Byte) (failChunk : U16) (status : BitVec 4)
  | poison (sid : Sid) (gen : Byte) (failChunk : U16)
  | resultAck (sid : Sid) (gen : Byte) (chunk : U16) (count : U16)
  | resendReq (sid : Sid) (gen : Byte) (chunk : U16) (elemOff : BitVec 12) (seg : BitVec 2)
  | resendRefused (sid : Sid) (gen : Byte) (chunk : U16) (elemOff : BitVec 12) (seg : BitVec 2)
  | gatherReq (tensor first : BitVec 20) (count : U16) (version : TideNo) (dest : U32) (mcast : Bool)
  | gatherRefused (tensor first : BitVec 20) (count : U16) (version : TideNo) (reason : Byte)
  | reshardEnd (round : U32)
  | throttle (mask level : Byte) (dur : U16)
  | align (c : AlignCell)
  | credit (grants : List U16) (tide : TideNo)
  | discover (c : DiscoverCell)
  | linkAck (point : BitVec 10)
  | mark (genId : Byte) (seq : U32) (departure : U64)
deriving DecidableEq, Repr

/-- A control cell that the switch has made (08 Table 8-6). -/
structure CtrlOut where
  dst : U32
  src : U32
  job : Byte
  birth : U16
  body : CtrlBody
deriving DecidableEq, Repr

/-- Where a copy of a packet or a control cell leaves the half's crossbar for (08 R221, 09 Tables 9-1, 9-2). -/
inductive Dest where
  | berth (b : Nat)
  | host (f : Nat)
  | self
deriving DecidableEq, Repr

/-- A routed control cell in the control store of a half (09 R237): its input sub-port, the berth it came by to the switch, the TC0 credit
it holds there, whether it came by an attach port, its output, its cell word and its 64 payload bytes. -/
structure CtrlQ where
  input : Nat
  origin : Option Nat := none
  attach : Bool := false
  credit : Option Nat := none
  out : Nat
  vc : Nat
  bypass : Bool := false
  dest : Dest
  epoch : Bool
  cw : U32 := 0
  bytes : List Byte
deriving DecidableEq, Repr

/-- One copy of a packet, queued for an output sub-port on a VC (09 R256); `left` cells remain to be read. A copy for the switch itself is
read by its consumer. -/
structure Copy where
  out : Nat
  dest : Dest
  vc : Nat
  bypass : Bool
  mirror : Option Nat
  order : Nat
  left : Nat
deriving DecidableEq, Repr

/-- A packet in the cell buffer of a half (09 R248 to R256): the berth it came by to the switch, whether it came by an attach port, its
payload bytes (64 for each cell, as far as they have arrived), its CRC-32 and BIRTH as received and as it leaves, the pallets that it
still holds, the number of them from the shared region, whether the writer's reference is held, and its copies. `feeder` is the copy in
the other half that it is read from as it crosses the bridge, `held` the run whose start cell it waits for (06 R154), `key` the
reservation that it draws on, `credit` the credit that its pallets return. -/
structure Pkt where
  id : Nat
  input : Nat
  origin : Option Nat := none
  attach : Bool := false
  cw : U32
  payload : List Byte
  cells : Nat
  crc : U32 := 0
  crcIn : U32 := 0
  birthIn : Nat := 0
  whole : Bool := false
  crcOk : Bool := false
  stomped : Bool := false
  feeder : Option Nat := none
  held : Option (Nat × Byte) := none
  pallets : List Nat := []
  shared : Nat := 0
  writer : Bool := false
  waiting : Bool := false
  cut : Bool := false
  copies : List Copy := []
  pendingCopies : List Copy := []
  key : Nat := 0
  credit : Option Nat := none
  missed : Bool := false
deriving DecidableEq, Repr

/-- A pair matched, on a copy of a packet or, with no packet, on control cells (09 R242, R246). -/
structure LockSt where
  input : Nat
  output : Nat
  pid : Option Nat
  copy : Nat
deriving DecidableEq, Repr

/-- A mirror session (09 R253). -/
structure MirrorSt where
  source : Byte
  dir : Byte
  vc : Nat
  analysis : Nat
  key : U32
  flow : U16
  job : Byte
deriving DecidableEq, Repr

/-- The pallet manager of a half (09 R255 to R260): the free map, a bit per pallet; the descriptors of Table 9-4 that are not at reset; in
native mode the free cache and the place of the ring in its pages (`head`, and `count` entries from it); in P6-compatible mode the list
head on die, the link words of the free pallets (bytes 0 to 3 of cell slot 0) and the length of the list. -/
structure PalletSt where
  built : Bool := false
  p6 : Bool := false
  salt : U64 := 0
  pages : List U64 := []
  map : BitVec 184320 := 0
  desc : Tab U32 := []
  cache : List Nat := []
  head : Nat := 0
  count : Nat := 0
  head6 : Nat := 0x3FFFF
  links : Tab U32 := []
  free6 : Nat := 0
  freeLow : Nat := 184320
deriving DecidableEq, Repr

/-- A half's switch (09, 10, 04 R99, 14 R386). -/
structure HalfSt where
  started : Bool := false
  trained : Bool := false
  stageDone : Nat := 0
  restart : Nat := 0
  resetAt : Option TideNo := none
  pool : PalletSt := {}
  pkts : List Pkt := []
  bridgeIn : List (Nat × Pkt) := []
  ctrl : List CtrlQ := []
  ctrlWait : List CtrlQ := []
  ctrlMover : Nat := 0
  stackMovers : Tab Nat := []
  streamMovers : Tab Nat := []
  grantPtr : Tab Nat := []
  acceptPtr : Tab Nat := []
  matched : List LockSt := []
  deficits : Tab Int := []
  turns : Tab Nat := []
  attachLast : List Nat := []
  attachOutLast : List Nat := []
  bridgeDown : List Nat := []
  pBridgeDown : List Nat := []
  mirrors : Tab MirrorSt := []
  pMirrors : Tab (Option MirrorSt) := []
  engMap : Tab Nat := []
  pEngMap : Tab Nat := []
  badTiles : List Nat := []
  badEngines : List Nat := []
  tm : TmSet := {}
  tmShadow : TmSet := {}
  tmArmed : Bool := false
  tmBase : TmSet := {}
  buckets : Tab (Nat × Nat) := []
  resUsed : Tab Nat := []
  freed : Tab Nat := []
  granted : Tab Nat := []
  lowered : Tab Nat := []
  thr : Tab ThrSt := []
  enq : List (Nat × Nat × U32 × Byte × Nat) := []
  redSeen : List (Nat × Nat × U32 × Byte) := []
  limits : List InjLimit := []
  injUsed : Tab Nat := []
  mcache : MCache := {}
  light : BitVec 64 := 0
  lightCap : U32 := 0
  lines : BitVec 64 := 0
  safe : Bool := false
  latchSeen : Nat := 2
  latchLost : Bool := false
deriving DecidableEq, Repr

/-! ## Lanes and berths (11) -/

/-- A cell on the lane side of a berth: its 68 bytes (08 R206), and whether it takes a SEQ. -/
structure LinkCell where
  seq : BitVec 10
  bytes : List Byte
  last : Bool
deriving DecidableEq, Repr

/-- A lane substitution asked for (11 R296). -/
structure SpareReq where
  lane : Nat
  spare : Nat
  at_ : BitVec 7
  rounds : Nat
  acked : Bool
deriving DecidableEq, Repr

/-- One lane of a berth (11 R295): spare in use, eye figure, boundaries below 80, symbol counts of the last 256 tides. -/
structure LaneSt where
  spare : Option Nat := none
  failed : Bool := false
  ef : Nat := 0
  low : Nat := 0
  sym : Nat × Nat := (0, 0)
  hist : List (Nat × Nat) := []
deriving DecidableEq, Repr

/-- A berth (02 R36 to R43, 08 R233, R234, 10 R267, 11 R284 to R307). -/
structure BerthSt where
  up : Bool := false
  pDown : Bool := false
  lstate : BitVec 2 := 3
  trainTx : Byte := 0
  readyRun : Nat := 0
  cwTx : BitVec 7 := 0
  seqTx : BitVec 10 := 0
  queue : List LinkCell := []
  localQ : List (List Byte) := []
  replay : List LinkCell := []
  resend : List LinkCell := []
  partial_ : List Byte := []
  txPart : List Byte := []
  txMid : Nat := 0
  expect : BitVec 10 := 0
  ackRx : BitVec 10 := 0x3FF
  rxAny : Bool := false
  inRetry : Bool := false
  prov : List LinkCell := []
  provLeft : Nat := 0
  ackTx : BitVec 10 := 0x3FF
  nakPoint : Option (BitVec 10) := none
  nakRun : Nat := 0
  retries : Nat := 0
  delivered : List (List Byte) := []
  wire : Option Round := none
  orderedSet : Byte := 0
  quiet : Nat := 0
  bwTx : Bool := false
  bwRx : Bool := false
  bwRun : Nat := 0
  otherRun : Nat := 0
  safe : Bool := false
  dozeAllowed : Bool := false
  dozeDelay : Nat := 0
  dozeAsked : Bool := false
  loopKind : BitVec 2 := 0
  loopPattern : Byte := 0
  loopErrors : Nat := 0
  farLoop : Bool := false
  lanes : Tab LaneSt := []
  spareReq : Option SpareReq := none
  stompSeen : Bool := false
  downSeen : Bool := false
  retrySeen : Bool := false
  mirror : U32 := 6
  seen : Option DiscoverCell := none
  outcome : BitVec 3 := 4
  upTide : TideNo := 0
  downTides : Nat := 0
  quarDisc : Bool := false
  quarFence : Bool := false
  mismatch : Bool := false
  agree : Nat := 0
  lastAlign : Option (AlignCell × Nat) := none
  alignRx : Option Nat := none
  alignRun : Nat := 0
  answer : Option (Nat × Nat × Nat) := none
  lastRx : Option (U64 × U64) := none
  alignAt : Option Nat := none
  discoverAt : Option Nat := none
  credit : Tab Nat := []
  eth : Bool := false
  etherType : U16 := 0x88B5
  ownMac : BitVec 48 := 0
  peerMac : BitVec 48 := 0
  xoffAt : Option TideNo := none
  pauseTx : List U16 := []
  paused : Bool := false
  frames : List EthFrame := []
deriving DecidableEq, Repr

/-- An optical engine (11 R282, R298, Table 11-9). -/
structure OeSt where
  feed : Bool := false
  primaryOk : Bool := false
  standbyOk : Bool := false
  failoverSeen : Bool := false
  deep : Bool := true
  relocking : Bool := false
  failed : List Nat := []
  sparesTrained : List Nat := []
  mirror : U32 := 1
deriving DecidableEq, Repr

/-! ## Tide (02) -/

/-- A TIDE_CONFIG (12 Table 12-10). -/
structure TideCfg where
  mode : BitVec 3
  trim : Byte
  parent : U16
  backup : U16
  start : TideNo
deriving DecidableEq, Repr

/-- The tide generator and its registers (02). -/
structure TideSt where
  cfg : TideCfg := ⟨0, 0, 0xFFFF, 0xFFFF, 0⟩
  pCfg : Option TideCfg := none
  counting : Bool := false
  running : Bool := false
  now : TideNo := 0
  periods : Nat := 0
  start : Nat := 0
  len : Nat := 4000
  stepped : Bool := false
  pStep : Int := 0
  measureAgain : Bool := false
  relock : Bool := false
  relockTide : Bool := false
  lastEdge : Option Nat := none
  lockRun : Nat := 0
  locked : Bool := false
  lastFollowed : Nat := 0
  holdRun : Nat := 0
  holdover : Bool := false
  refPhase : Nat := 0
  onBackup : Bool := false
  sincePrimary : Nat := 0
  sinceBackup : Nat := 0
  firstOff : Option Int := none
  skew : U16 := 0
  skewNow : Bool := false
  skewRun : Nat := 0
  mismatch : Bool := false
  overrun : Bool := false
  slip : Bool := false
  inLost : Bool := false
  holdEntered : Bool := false
  skewHigh : Bool := false
  capHi : U16 := 0
  capCycle : BitVec 12 := 0
  withheldE : Bool := false
  withheldW : Bool := false
  swappedE : Bool := false
  swappedW : Bool := false
  swapTide : U32 := 0
  overruns : Nat := 0
  steps : Nat := 0
  asym : Tab U16 := []
  pAsym : Tab U16 := []
  pulse : Option (Nat × Nat) := none
deriving DecidableEq, Repr

/-! ## Mailboxes and UCI (12) -/

/-- A mailbox channel (12 Table 12-2) with its binding (Table 12-7). -/
structure ChanSt where
  full : Bool := false
  rejected : Bool := false
  aborted : Bool := false
  len : BitVec 13 := 0
  bind : Option Binding := none
deriving DecidableEq, Repr

/-- A reply that firmware has made for a command channel (12 R323 to R325). -/
structure Reply where
  ch : Nat
  code : U16
  tag : U32
  job : Byte
  status : U16
  accept : TideNo
  effect : Option TideNo
  body : List Byte
  part : Nat
deriving DecidableEq, Repr

/-- What a command waits for before its reply (12 R324, R331, R339, 13 R355, 14 R376, 17 R430). -/
inductive Await where
  | transfer (id : Nat)
  | fence (o : FenceObj)
  | zeroize
  | power
  | sampler (part : Nat)
  | handover
deriving DecidableEq, Repr

/-- A command taken whose reply is not posted yet. -/
structure Waiting where
  reply : Reply
  what : Await
deriving DecidableEq, Repr

/-- A transfer of a mover for a command (12 R331), or a tile access (04 R115). -/
inductive Xfer where
  | holdWrite (job : Nat) (addr : Nat) (data : List Byte)
  | holdRead (job : Nat) (addr len : Nat)
  | quayWrite (h : Half) (addr : Nat) (data : List Byte)
  | quayRead (h : Half) (addr len : Nat)
  | tileRead (tile first count : Nat)
  | tileWrite (tile first : Nat) (images : List (BitVec 128))
deriving DecidableEq, Repr

/-- The answer on the bus that asked last (11 R312, R313, 12 R318, 14 R373). -/
inductive BusResp where
  | words (who : Nat) (ws : List U32)
  | completerAbort (f : Nat)
  | rgmiiReply (op tag : Byte) (ws : List U32)
  | rgmiiError (tag code : Byte)
  | spdm (p : SpdmPort) (code : Byte) (bytes : List Byte)
  | spdmError (p : SpdmPort) (code : Byte)
  | dataObject (p : SpdmPort) (measurements : List (Byte × List Byte)) (signature : Option (BitVec 768))
deriving DecidableEq, Repr

/-- LANE_STATE or LANE_LOOP, accepted and waiting for its boundary (12 R330). -/
inductive LaneCmd where
  | state (target st dozeDelay : Nat)
  | loop (b kind pattern : Nat)
deriving DecidableEq, Repr

/-- The mailboxes and the command interface; `pLanes` are the lane commands that wait for their boundary, and `landed` the
writes of finished transfers, which the data plane sees from it (12 R331). -/
structure MboxSt where
  opened : Bool := false
  locked : Bool := false
  uciReady : Bool := false
  chans : Tab ChanSt := []
  slots : Mem := []
  replies : List Reply := []
  waiting : List Waiting := []
  xfers : Tab Xfer := []
  xferDone : List Nat := []
  busy : List Nat := []
  fwId : U32 := 0
  resp : Option BusResp := none
  aer : List Nat := []
  pLanes : List LaneCmd := []
  landed : List Xfer := []
deriving DecidableEq, Repr

/-! ## Faults (13) -/

/-- A source's counting (13 R346). -/
structure SourceSt where
  n : Nat
  wLog2 : Nat
  count : Nat := 0
  start : TideNo := 0
  pCfg : Option (Nat × Nat) := none
deriving DecidableEq, Repr

/-- The scope of a Breakwater action (13 Table 13-8a). -/
inductive BwScope where
  | berths (bs : List Nat)
  | half (h : Half)
  | pkg
deriving DecidableEq, Repr

/-- A fault record (13 Table 13-6); a Breakwater record has its scope. -/
structure Rec where
  seq : Nat
  source : U16
  cls : Nat
  action : Nat
  first : TideNo
  merge : Nat
  isOpen : Bool
  overflow : Bool
  last : TideNo
  count : Nat
  detail : U64
  localDone : Bool
  scope : Option BwScope
deriving DecidableEq, Repr

/-- A fence (13 R355). -/
structure FenceSt where
  obj : FenceObj
  boundary : TideNo
  active : Bool
  empty : Bool
  enableAt : Option TideNo
  internal : Bool
deriving DecidableEq, Repr

/-- A field repair log entry (13 Table 13-16) less its signature, which is a Config function of the rest. -/
structure RepairEntry where
  seq : Nat
  boot : Nat
  tide : TideNo
  kind : Nat
  unit : Nat
  index : Nat
  addr : Nat
  source : U16
deriving DecidableEq, Repr

/-- The fault collector, the records and the safe state (13). -/
structure FaultSt where
  pkg : BitVec 64 := 0
  pkgCap : U32 := 0
  lines : BitVec 64 := 0
  mgmt : BitVec 9 := 0
  pMgmt : BitVec 9 := 0
  details : Tab U64 := []
  sources : Tab SourceSt := []
  recs : List Rec := []
  head : Nat := 0
  eventsN : Bool := false
  faultN : Bool := false
  force : BitVec 3 := 0
  pForce : BitVec 3 := 0
  pkgSafe : Bool := false
  pPkgSafe : Bool := false
  therm : Bool := false
  thermtripN : Bool := false
  hot : List Nat := []
  latched : List Nat := []
  badStacks : List Nat := []
  pExit : List (Nat × Nat) := []
  fences : List FenceSt := []
  log : List RepairEntry := []
  boots : Nat := 0
  hmFailed : List Nat := []
deriving DecidableEq, Repr

/-! ## Security, power, start-up (14, 15, 16) -/

/-- A zeroization under way (14 R376): its job or all, whether the keys have gone, the granules it overwrites, and what it
serves. -/
structure ZeroSt where
  job : Option Nat
  keysGone : Bool
  granules : List (Nat × Nat)
  debugOpen : Bool
  lifecycle : Option Byte
deriving DecidableEq, Repr

/-- The security core, the debug and power states, the mastership latch (14). -/
structure SecSt where
  lifecycle : Byte := 3
  pLifecycle : Option Byte := none
  dbg : Byte := 0
  pDebug : Option Byte := none
  power : Byte := 3
  pPower : Option Byte := none
  nonce : Option (BitVec 384) := none
  authFails : Nat := 0
  idKey : Bool := true
  ownerKey : Bool := true
  logKey : Bool := true
  keySerial : Nat := 0
  zero : Option ZeroSt := none
  primaryB : Bool := false
  pHandover : Bool := false
  readyA : Bool := false
  readyB : Bool := false
  halted : List Nat := []
  otp : Tab U32 := []
  minSvn : U32 := 0
deriving DecidableEq, Repr

/-- The TAP (11 R312, R313, 14 R370). -/
structure TapSt where
  ir : Byte := 1
  boundary : List Bool := []
  tdo : List Bool := []
  injected : List Nat := []
deriving DecidableEq, Repr

/-- A flash bank (12 R333). -/
structure BankSt where
  state : Byte := 0
  image : Option ImageInfo := none
  bytes : Mem := []
deriving DecidableEq, Repr

/-- Start-up and firmware (15); `early` are the failures that the boot ROM keeps until the image runs (15 R401). -/
structure BootSt where
  stage : BitVec 4 := 0
  fail : Byte := 0
  early : List Byte := []
  eastUp : Bool := false
  westUp : Bool := false
  hostImage : Bool := false
  bank : Bool := false
  degraded : Bool := false
  waitHost : Bool := false
  failed : Bool := false
  stageTime : U32 := 0
  stagePeriod : Nat := 0
  resetN : Bool := false
  perstN : Bool := false
  hostPort : Bool := false
  rails : Nat := 5
  pwrEn : Bool := true
  pgHold : Bool := true
  pgQuay : Bool := true
  pgOe : Bool := true
  safeN : Bool := true
  bank0 : BankSt := {}
  bank1 : BankSt := {}
  image : Option ImageInfo := none
  block : Option ConfigBlock := none
  committed : Bool := false
  fwSize : Option Nat := none
  fwNext : Nat := 0
  fwBuf : Mem := []
  fwWho : Nat := 0
  lanesUp : Bool := false
  resetDue : Bool := false
deriving DecidableEq, Repr

/-! ## Ports (11) and Sampler (17) -/

/-- A function's data ring pair (11 R310). -/
structure RingSt where
  log2 : Nat
  bases : List U64
  txProd : U32 := 0
  txCons : U32 := 0
  rxProd : U32 := 0
  rxCons : U32 := 0
  rxWritten : List (List Byte) := []
  running : Bool := true
  limits : List InjLimit := []
  sentCells : Tab Nat := []
deriving DecidableEq, Repr

/-- The host port and the management ports (11). `busMaster` are the functions whose Bus Master Enable is set; no row writes the
configuration space (log entry 105). -/
structure PortSt where
  rings : Tab RingSt := []
  busMaster : List Nat := [0, 1, 2, 3, 4, 5, 6, 7]
  i3cAddr : Option (BitVec 7) := none
  i3cPtr : U32 := 0
deriving DecidableEq, Repr

/-- A generator of a Sampler partition (17 R433 to R436); `prbs` counts the bytes of its sequence already sent. -/
structure GenSt where
  cfg : SamplerGenCfg
  next : Nat := 0
  sent : Nat := 0
  inserted : Nat := 0
  lateTx : Nat := 0
  prbs : Nat := 0
  done : Bool := false
  starts : List (Nat × Byte) := []
deriving DecidableEq, Repr

/-- A checker of a partition berth (17 R437 to R439). -/
structure CheckSt where
  counts : Tab Nat := []
  markMin : Option Int := none
  markMax : Option Int := none
  trigger : U16 := 0
  pre : Nat := 0
  post : Nat := 0
  mode : Byte := 0
  ring : Nat := 0
  entries : Nat := 0
  recent : List (List Byte) := []
  postLeft : Nat := 0
  armed : Bool := false
  written : Nat := 0
  lastSeq : Tab (Nat × Nat) := []
  crcSince : Nat := 0
deriving DecidableEq, Repr

/-- A golden stream (17 R440, R441): the packets that wait for their comparison, by berth, and those compared. -/
structure GoldSt where
  sid : Nat
  gen : Byte
  ack : Bool
  table : Nat
  out : Nat
  cfg : ManifestCfg
  begins : TideNo
  ready : Bool := false
  expected : List OutPkt := []
  waiting : List (Nat × List Byte) := []
  got : List (Nat × Nat × Nat × Bool) := []
  matched : Nat := 0
  missing : Nat := 0
  unexpected : Nat := 0
deriving DecidableEq, Repr

/-- A Sampler partition (17 R429 to R432). -/
structure PartSt where
  active : Bool := false
  job : Nat
  switchPersona : Bool
  whole : Bool
  addr : U32
  berths : List Nat
  engines : List Nat
  gens : Tab GenSt := []
  checks : Tab CheckSt := []
  pChecks : Tab CheckSt := []
  gold : Option GoldSt := none
  startT : Option TideNo := none
  running : Bool := false
  safe : Bool := false
  pDestroy : Bool := false
deriving DecidableEq, Repr

/-! ## The whole machine -/

/-- The state of the block. `pending` is the queue of waiting commands; `freeCtr` (the free values are applied to it) and
`nextId` are the model's own. -/
structure State where
  pending : List Instr
  freeCtr : Nat
  nextId : Nat
  tide : TideSt
  east : HalfSt
  west : HalfSt
  tiles : Tab TileSt
  streams : Tab StreamSt
  snapStreams : Tab StreamSt
  snapColls : Tab CollSt
  colls : Tab CollSt
  jobs : Tab JobSt
  shards : Tab ShardSt
  snapShards : Tab ShardSt
  gathers : List Gather
  prefetches : List Prefetch
  lost : Tab TideNo
  chart : ChartSt
  berths : Tab BerthSt
  oes : Tab OeSt
  mbox : MboxSt
  fault : FaultSt
  sec : SecSt
  boot : BootSt
  tap : TapSt
  port : PortSt
  parts : Tab PartSt
  snapParts : Tab PartSt
  counters : Tab Nat
  snap : Tab Nat
  quayE : Mem
  quayW : Mem
  hold : Mem
  holdEpoch : Tab Nat
deriving DecidableEq, Repr

/-- The machine right after reset: rails up, RESET_N low, SAFE_N asserted, FAULT_N deasserted (15 R388), every table at
its defaults, every field of the register tables at its Reset column. The values the spec does not state are in the
assumption log (entry 2). Log entry 1. -/
def State.reset : State :=
  { pending := [], freeCtr := 0, nextId := 0, tide := {}, east := {}, west := {}, tiles := [], streams := [], snapStreams := [], snapColls := [],
    colls := [], jobs := [], shards := [], snapShards := [], gathers := [], prefetches := [], lost := [], chart := {}, berths := [],
    oes := [], mbox := {}, fault := {}, sec := { power := 0 }, boot := {}, tap := {}, port := {}, parts := [], snapParts := [],
    counters := [], snap := [], quayE := [], quayW := [], hold := [], holdEpoch := [] }

end Sys2Proof.Machine
end

