-- ==== Sys2Proof/Machine/Ops.lean ====
section
/-! DEFINITION. Tables, memories, counters and the accessors of the state: every read and write of a table goes through
one of these. -/

namespace Sys2Proof.Machine

/-! ## Tables -/

/-- The entry of a key. -/
def Tab.get? {α : Type} : Tab α → Nat → Option α
  | [], _ => none
  | (k, v) :: t, a => if k = a then some v else Tab.get? t a

/-- The entry of a key, or the default. -/
def Tab.get {α : Type} (d : α) (t : Tab α) (k : Nat) : α := (Tab.get? t k).getD d

/-- Set the entry of a key; keys stay rising. -/
def Tab.set {α : Type} : Tab α → Nat → α → Tab α
  | [], a, x => [(a, x)]
  | (k, v) :: t, a, x =>
    if a < k then (a, x) :: (k, v) :: t else if a = k then (a, x) :: t else (k, v) :: Tab.set t a x

/-- Remove the entry of a key. -/
def Tab.erase {α : Type} (t : Tab α) (a : Nat) : Tab α := t.filter (fun e => e.1 != a)

/-- Change the entry of a key, from its default where it has none. -/
def Tab.upd {α : Type} (d : α) (t : Tab α) (k : Nat) (f : α → α) : Tab α := Tab.set t k (f (Tab.get d t k))

/-- Change every entry. -/
def Tab.mapV {α : Type} (t : Tab α) (f : Nat → α → α) : Tab α := t.map (fun e => (e.1, f e.1 e.2))

/-- The keys. -/
def Tab.keys {α : Type} (t : Tab α) : List Nat := t.map (fun e => e.1)

/-! ## Memories -/

/-- The byte at an address; a byte that nothing has written reads 0 (log entry 2). -/
def Mem.read : Mem → Nat → Byte
  | [], _ => 0
  | (k, v) :: m, a => if k = a then v else Mem.read m a

/-- Write a byte; keys stay rising and no entry is 0. -/
def Mem.write : Mem → Nat → Byte → Mem
  | [], a, b => if b = 0 then [] else [(a, b)]
  | (k, v) :: m, a, b =>
    if a < k then (if b = 0 then (k, v) :: m else (a, b) :: (k, v) :: m)
    else if a = k then (if b = 0 then m else (a, b) :: m)
    else (k, v) :: Mem.write m a b

/-- Write bytes at rising addresses. -/
def Mem.writeBytes : Mem → Nat → List Byte → Mem
  | m, _, [] => m
  | m, a, b :: bs => Mem.writeBytes (Mem.write m a b) (a + 1) bs

/-- The n bytes from an address. -/
def Mem.readBytes (m : Mem) (a n : Nat) : List Byte := (List.range n).map (fun i => Mem.read m (a + i))

/-- Make n bytes from an address read 0. -/
def Mem.zeroRange (m : Mem) (a n : Nat) : Mem := m.filter (fun c => c.1 < a || a + n ≤ c.1)

/-- Is the memory in canonical form above an address? -/
def Mem.wfFrom : Nat → Mem → Bool
  | _, [] => true
  | lo, (k, v) :: m => decide (lo ≤ k) && (v != 0) && Mem.wfFrom (k + 1) m

/-- The canonical form: addresses strictly rising, no entry 0. -/
def Mem.wf (m : Mem) : Bool := Mem.wfFrom 0 m

/-! ## Bytes and fields -/

/-- The number that little-endian bytes spell. -/
def leNat : List Byte → Nat
  | [] => 0
  | b :: bs => b.toNat + 256 * leNat bs

/-- The n low bytes of a number, little-endian. -/
def leBytes : Nat → Nat → List Byte
  | 0, _ => []
  | n + 1, x => BitVec.ofNat 8 x :: leBytes n (x / 256)

/-- Bits [lo + w - 1 : lo] of a number. -/
def bitsOf (x lo w : Nat) : Nat := x / 2 ^ lo % 2 ^ w

/-- Bit i of a number. -/
def bitOf (x i : Nat) : Bool := x / 2 ^ i % 2 == 1

/-- The number of bytes o to o + n - 1, little-endian. -/
def field (bs : List Byte) (o n : Nat) : Nat := leNat ((bs.drop o).take n)

/-- The list padded with zero bytes to a length. -/
def padTo (n : Nat) (bs : List Byte) : List Byte := bs ++ List.replicate (n - bs.length) 0

/-- Cut a list into pieces of n, at most `fuel` of them. -/
def chunksOf {α : Type} (n : Nat) : Nat → List α → List (List α)
  | 0, _ => []
  | fuel + 1, l => if l.isEmpty then [] else l.take n :: chunksOf n fuel (l.drop n)

/-- Replace element i of a list. -/
def setAt {α : Type} : List α → Nat → α → List α
  | [], _, _ => []
  | _ :: l, 0, x => x :: l
  | y :: l, i + 1, x => y :: setAt l i x

/-- Add without passing 2^w - 1 (counters saturate). -/
def satAdd (w x n : Nat) : Nat := min (x + n) (2 ^ w - 1)

/-- Signed value of the w low bits of a number. -/
def sext (w x : Nat) : Int :=
  let y := x % 2 ^ w
  if y < 2 ^ (w - 1) then Int.ofNat y else Int.ofNat y - Int.ofNat (2 ^ w)

/-- The w-bit two's complement of an integer. -/
def toTwos (w : Nat) (x : Int) : Nat := (x % Int.ofNat (2 ^ w)).toNat

/-- Insert into a list that holds no repeats. -/
def insertNew {α : Type} [DecidableEq α] (x : α) (l : List α) : List α := if x ∈ l then l else l ++ [x]

/-- The numbers lo to lo + n - 1. -/
def rangeFrom (lo n : Nat) : List Nat := (List.range n).map (fun i => lo + i)

/-- The distance from tide a to tide b, modulo 2^48 (02 R41). -/
def tideSince (b a : TideNo) : Nat := (b - a).toNat

/-- Has tide t been reached, comparing modulo 2^48 (02 R41)? -/
def tideReached (now t : TideNo) : Bool := decide ((now - t).toNat < 2 ^ 47)

/-! ## Accessors -/

def State.half (s : State) : Half → HalfSt
  | .east => s.east
  | .west => s.west

def State.modHalf (s : State) (h : Half) (f : HalfSt → HalfSt) : State :=
  match h with
  | .east => { s with east := f s.east }
  | .west => { s with west := f s.west }

def State.modHalves (s : State) (f : Half → HalfSt → HalfSt) : State :=
  { s with east := f .east s.east, west := f .west s.west }

def State.berth (s : State) (b : Nat) : BerthSt := Tab.get {} s.berths b
def State.modBerth (s : State) (b : Nat) (f : BerthSt → BerthSt) : State := { s with berths := Tab.upd {} s.berths b f }
def State.oe (s : State) (k : Nat) : OeSt := Tab.get {} s.oes k
def State.modOe (s : State) (k : Nat) (f : OeSt → OeSt) : State := { s with oes := Tab.upd {} s.oes k f }
def State.stream (s : State) (n : Nat) : StreamSt := Tab.get {} s.streams n
def State.modStream (s : State) (n : Nat) (f : StreamSt → StreamSt) : State := { s with streams := Tab.upd {} s.streams n f }
def State.coll (s : State) (n : Nat) : CollSt := Tab.get {} s.colls n
def State.modColl (s : State) (n : Nat) (f : CollSt → CollSt) : State := { s with colls := Tab.upd {} s.colls n f }
def State.job (s : State) (j : Nat) : JobSt := Tab.get {} s.jobs j
def State.modJob (s : State) (j : Nat) (f : JobSt → JobSt) : State := { s with jobs := Tab.upd {} s.jobs j f }
def State.chan (s : State) (n : Nat) : ChanSt := Tab.get {} s.mbox.chans n
def State.modMbox (s : State) (f : MboxSt → MboxSt) : State := { s with mbox := f s.mbox }
def State.modChan (s : State) (n : Nat) (f : ChanSt → ChanSt) : State :=
  s.modMbox (fun m => { m with chans := Tab.upd {} m.chans n f })
def State.modTide (s : State) (f : TideSt → TideSt) : State := { s with tide := f s.tide }
def State.modFault (s : State) (f : FaultSt → FaultSt) : State := { s with fault := f s.fault }
def State.modSec (s : State) (f : SecSt → SecSt) : State := { s with sec := f s.sec }
def State.modBoot (s : State) (f : BootSt → BootSt) : State := { s with boot := f s.boot }
def State.modTap (s : State) (f : TapSt → TapSt) : State := { s with tap := f s.tap }
def State.modPort (s : State) (f : PortSt → PortSt) : State := { s with port := f s.port }
def State.modChart (s : State) (f : ChartSt → ChartSt) : State := { s with chart := f s.chart }
def State.modPart (s : State) (n : Nat) (f : PartSt → PartSt) : State :=
  match Tab.get? s.parts n with
  | some p => { s with parts := Tab.set s.parts n (f p) }
  | none => s

/-- The key of a logical tile of a logical engine. -/
def tileKey (h : Half) (eng tile : Nat) : Nat := h.num * 160 + eng * 8 + tile

def tileHalf (k : Nat) : Half := Half.ofNum (k / 160)
def tileEng (k : Nat) : Nat := k % 160 / 8

def State.tile (s : State) (k : Nat) : TileSt := Tab.get { phys := k % 8 } s.tiles k
def State.modTile (s : State) (k : Nat) (f : TileSt → TileSt) : State :=
  { s with tiles := Tab.upd { phys := k % 8 } s.tiles k f }

/-- The physical engine behind a logical one (04 R99). -/
def State.physEng (s : State) (h : Half) (eng : Nat) : Nat := Tab.get eng (s.half h).engMap eng

/-- The key of a shard: its half and 20-bit index (07 R175). -/
def shardKey (h : Half) (index : Nat) : Nat := h.num * 2 ^ 20 + index

def State.shard? (s : State) (k : Nat) : Option ShardSt := Tab.get? s.shards k
def State.modShard (s : State) (k : Nat) (f : ShardSt → ShardSt) : State :=
  match Tab.get? s.shards k with
  | some x => { s with shards := Tab.set s.shards k (f x) }
  | none => s

/-- The Quay of a half. -/
def State.quay (s : State) : Half → Mem
  | .east => s.quayE
  | .west => s.quayW

def State.modQuay (s : State) (h : Half) (f : Mem → Mem) : State :=
  match h with
  | .east => { s with quayE := f s.quayE }
  | .west => { s with quayW := f s.quayW }

/-- The current tide. -/
def State.now (s : State) : TideNo := s.tide.now

/-- A fresh number for a packet, transfer, gather or prefetch: the model's own. -/
def State.fresh (s : State) : Nat × State := (s.nextId, { s with nextId := s.nextId + 1 })

/-- A fresh index for a free value: the model's own. -/
def State.freeIx (s : State) : Nat × State := (s.freeCtr, { s with freeCtr := s.freeCtr + 1 })

/-- The half of a berth: 0 to 127 East, 128 to 255 West, 256 and 257 East (01 R15, Table 1-2). -/
def berthHalf (b : Nat) : Half := if b < 128 ∨ b = 256 ∨ b = 257 then .east else .west

/-! ## Counters -/

/-- The counters that COUNTERS_READ reports (12 Table 12-20). -/
inductive Ctr where
  | crcBad | hdrBad | srcBad | jobDenied | noRoute | aged | epochNone | quarantined
  | inCrcBad | crcBadPassed | overCredit | tailDrop | pushedOut | ctPackets | sfPackets | matchGrains | lockGrains
  | mirrorDrop | palletRange | doubleAlloc | doubleFree | chainBad | refUnder | pageAlign | palletLeak
  | polGreen | polYellow | polRed | policeDrop | creditSent | creditStall | throttleSent | throttlePeak | injThrottled
  | deficitRounds
  | corrected | uncorrectable | nakSent | replayed | stomped | stompedRx | downEvents
  | ethDrop
deriving DecidableEq, Repr

/-- The code of a counter: the constructor's place. -/
def Ctr.code : Ctr → Nat
  | .crcBad => 0 | .hdrBad => 1 | .srcBad => 2 | .jobDenied => 3 | .noRoute => 4 | .aged => 5 | .epochNone => 6
  | .quarantined => 7 | .inCrcBad => 8 | .crcBadPassed => 9 | .overCredit => 10 | .tailDrop => 11 | .pushedOut => 12
  | .ctPackets => 13 | .sfPackets => 14 | .matchGrains => 15 | .lockGrains => 16 | .mirrorDrop => 17
  | .palletRange => 18 | .doubleAlloc => 19 | .doubleFree => 20 | .chainBad => 21 | .refUnder => 22 | .pageAlign => 23
  | .palletLeak => 24 | .polGreen => 25 | .polYellow => 26 | .polRed => 27 | .policeDrop => 28 | .creditSent => 29
  | .creditStall => 30 | .throttleSent => 31 | .throttlePeak => 32 | .injThrottled => 33 | .deficitRounds => 34
  | .corrected => 35 | .uncorrectable => 36 | .nakSent => 37 | .replayed => 38 | .stomped => 39 | .stompedRx => 40
  | .downEvents => 41 | .ethDrop => 42

/-- The key of counter c of unit i. Log entry 6. -/
def Ctr.key (c : Ctr) (i : Nat) : Nat := c.code * 65536 + i

/-- Add to a counter; counters are u32 and saturate. -/
def State.count (s : State) (c : Ctr) (i n : Nat) : State :=
  { s with counters := Tab.upd 0 s.counters (c.key i) (fun x => satAdd 32 x n) }

def State.bump (s : State) (c : Ctr) (i : Nat) : State := s.count c i 1

/-! ## Error lines (13 R342) -/

/-- Raise the error line of bit i of a half's Lighthouse word. -/
def State.raiseLine (s : State) (h : Half) (i : Nat) : State :=
  s.modHalf h (fun x => { x with lines := x.lines ||| BitVec.ofNat 64 (2 ^ i) })

/-- Raise the line of bit i of the package fault word. -/
def State.raisePkg (s : State) (i : Nat) : State :=
  s.modFault (fun f => { f with lines := f.lines ||| BitVec.ofNat 64 (2 ^ i) })

/-- The source code of bit i of a half's Lighthouse word (13 R345). -/
def srcHalf (h : Half) (i : Nat) : Nat := h.num * 64 + i

/-- The source code of bit i of the package fault word (13 R345). -/
def srcPkg (i : Nat) : Nat := 128 + i

/-- Note the DETAIL of a source's event of this tide (13 Table 13-7): the first of the tide stands. -/
def State.noteDetail (s : State) (src : Nat) (d : U64) : State :=
  s.modFault (fun f => if (Tab.get? f.details src).isSome then f else { f with details := Tab.set f.details src d })

/-- Raise a half's line with its DETAIL. -/
def State.raiseWith (s : State) (h : Half) (i : Nat) (d : U64) : State := (s.raiseLine h i).noteDetail (srcHalf h i) d

/-- DETAIL of a Hold or Quay error found by an access (13 Table 13-7). -/
def accessDetail (addr : Nat) : U64 := BitVec.ofNat 64 (addr + 2 ^ 48)

/-- DETAIL of an ENGINE event (13 Table 13-7). -/
def engineDetail (tile kind window sid : Nat) : U64 :=
  BitVec.ofNat 64 (tile + 2 ^ 8 * kind + 2 ^ 16 * window + 2 ^ 32 * sid)

/-- Does a half carry traffic: out of reset, its Quay trained, and not in its own reset (15 R403)? -/
def HalfSt.runs (x : HalfSt) : Bool := x.started && x.trained && decide (x.restart < 2)

/-- Is a half in the safe state, its own or the package's (13 R351), or stopped as in the safe state before its reset (15 R403)? -/
def State.halfSafe (s : State) (h : Half) : Bool := (s.half h).safe || s.fault.pkgSafe || (s.half h).restart == 1

/-- Is a berth in the safe state, its own, its half's or the package's? -/
def State.berthSafe (s : State) (b : Nat) : Bool := (s.berth b).safe || s.halfSafe (berthHalf b)

/-- Enter a repair in the field repair log (13 R362): not in FACTORY (14 R372); a full log takes no entry, and the repair
raises SPARE_USED. -/
def State.logRepair (s : State) (kind unit index addr : Nat) (source : U16) : State :=
  if s.sec.lifecycle = 1 then s
  else if 1024 ≤ s.fault.log.length then s.raisePkg 27
  else s.modFault (fun f => { f with log := f.log ++
    [⟨f.log.length + 1, f.boots, s.now, kind, unit, index, addr, source⟩] })

/-- The WITHDRAW action of a source is complete: its record may close and its count returns to 0 (13 R347, R349). -/
def State.withdrawDone (s : State) (src : Nat) : State :=
  if s.fault.recs.any (fun r => r.isOpen && r.source.toNat == src && r.action == 2) then
    s.modFault (fun f => { f with
      recs := f.recs.map (fun r => if r.isOpen && r.source.toNat == src && r.action == 2 then { r with localDone := true } else r),
      sources := Tab.mapV f.sources (fun k x => if k = src then { x with count := 0 } else x) })
  else s

/-- The key of a physical tile of a physical engine in the list of tiles out of service. -/
def physTile (eng tile : Nat) : Nat := eng * 16 + tile

/-- Tiles of a physical engine that are in service (04 R99). -/
def HalfSt.inService (x : HalfSt) (phys : Nat) : List Nat := (List.range 9).filter (fun t => decide (physTile phys t ∉ x.badTiles))

/-- The first physical tile of a logical engine that is in service and serves no logical tile (04 R100). -/
def State.spareTile (s : State) (h : Half) (eng : Nat) : Option Nat :=
  ((s.half h).inService (s.physEng h eng)).find? (fun t => (List.range 8).all (fun i => (s.tile (tileKey h eng i)).phys != t))

/-- The first physical engine of a half that serves no logical index and has eight tiles in service (04 R99). -/
def State.freeEngine (s : State) (h : Half) : Option Nat :=
  (List.range 20).find? (fun p => (List.range 20).all (fun e => s.physEng h e != p) && decide (8 ≤ ((s.half h).inService p).length)
    && decide (p ∉ (s.half h).badEngines))

/-- Is a berth in the scope of a Breakwater action? -/
def BwScope.has (c : BwScope) (b : Nat) : Bool :=
  match c with
  | .berths bs => decide (b ∈ bs)
  | .half h => berthHalf b == h
  | .pkg => true

/-- Cells dropped in the safe state, counted in the DETAIL of the open Breakwater records of the berth (13 R352, Table
13-7). -/
def State.bwDrop (s : State) (b n : Nat) : State :=
  s.modFault (fun f => { f with recs := f.recs.map (fun r =>
    if r.isOpen && r.scope.any (fun c => c.has b) then { r with detail := BitVec.ofNat 64 (satAdd 32 r.detail.toNat n) } else r) })

/-- Will a berth have been down, or receiving BREAKWATER, for 4 tides when the next boundary comes? -/
def State.downFour (s : State) (b : Nat) : Bool := (!(s.berth b).up || (s.berth b).bwRx) && decide (3 ≤ (s.berth b).downTides)

/-- Is some job's stream LIVE? -/
def State.anyLive (s : State) : Bool := s.streams.any (fun e => e.2.state == .live)

end Sys2Proof.Machine
end

