-- ==== Sys2Proof/Machine/Formats.lean ====
section
/-! DEFINITION. Number formats, scales, rounding and the conversion stage (03), and the wide-lane function units (04 R85). -/

namespace Sys2Proof.Machine

/-- The ten formats (03 Table 3-1). -/
inductive Fmt where
  | e2m1 | e2m3 | e3m2 | e4m3 | e5m2 | int8 | bf16 | fp16 | fp32 | int32
deriving DecidableEq, Repr

/-- The format of a 4-bit code; the other codes are reserved (03 R58). -/
def Fmt.ofCode : Nat → Option Fmt
  | 1 => some .e2m1 | 2 => some .e2m3 | 3 => some .e3m2 | 4 => some .e4m3 | 5 => some .e5m2 | 6 => some .int8
  | 7 => some .bf16 | 8 => some .fp16 | 9 => some .fp32 | 10 => some .int32 | _ => none

def Fmt.width : Fmt → Nat
  | .e2m1 => 4 | .e2m3 => 6 | .e3m2 => 6 | .e4m3 => 8 | .e5m2 => 8 | .int8 => 8 | .bf16 => 16 | .fp16 => 16
  | .fp32 => 32 | .int32 => 32

/-- Formats with fine scales (03 Table 3-1). -/
def Fmt.fine : Fmt → Bool
  | .e2m1 | .e2m3 | .e3m2 | .e4m3 | .e5m2 | .int8 => true
  | _ => false

/-- Formats of the wide lanes (03 Table 3-1). -/
def Fmt.wide : Fmt → Bool
  | .fp32 | .int32 => true
  | _ => false

def Fmt.isInt : Fmt → Bool
  | .int8 | .int32 => true
  | _ => false

def Fmt.mbits : Fmt → Nat
  | .e2m1 => 1 | .e2m3 => 3 | .e3m2 => 2 | .e4m3 => 3 | .e5m2 => 2 | .bf16 => 7 | .fp16 => 10 | .fp32 => 23
  | .int8 | .int32 => 0

def Fmt.bias : Fmt → Int
  | .e2m1 | .e2m3 => 1 | .e3m2 => 3 | .e4m3 => 7 | .e5m2 | .fp16 => 15 | .bf16 | .fp32 => 127 | .int8 | .int32 => 0

def Fmt.emin : Fmt → Int
  | .e2m1 | .e2m3 => 0 | .e3m2 => -2 | .e4m3 => -6 | .e5m2 | .fp16 => -14 | .bf16 | .fp32 => -126 | .int8 | .int32 => 0

/-- Formats that keep subnormals (03 R64). -/
def Fmt.gradual : Fmt → Bool
  | .e2m1 | .e2m3 | .e3m2 | .e4m3 | .e5m2 => true
  | _ => false

def Fmt.maxSig : Fmt → Nat
  | .e2m1 => 3 | .e2m3 => 15 | .e3m2 | .e4m3 | .e5m2 => 7 | .int8 => 127 | .bf16 => 255 | .fp16 => 2047
  | .fp32 => 16777215 | .int32 => 2147483647

def Fmt.maxExp : Fmt → Int
  | .e2m1 => 1 | .e2m3 => -1 | .e3m2 => 2 | .e4m3 => 6 | .e5m2 => 13 | .int8 | .int32 => 0 | .bf16 => 120 | .fp16 => 5
  | .fp32 => 104

/-- Is an encoding an infinity or a NaN (03 Table 3-5)? -/
def Fmt.isSpecial : Fmt → Nat → Nat → Bool
  | .e4m3, ef, mf => ef == 15 && mf == 7
  | .e5m2, ef, _ | .fp16, ef, _ => ef == 31
  | .bf16, ef, _ | .fp32, ef, _ => ef == 255
  | _, _, _ => false

/-- Fine-scaled formats with a NaN of their own (03 Table 3-4). -/
def Fmt.hasNan : Fmt → Bool
  | .e2m1 | .e2m3 | .e3m2 | .int8 => false
  | _ => true

/-- The output of a special element (03 Table 3-4); the block formats write their elements 0. -/
def Fmt.nan : Fmt → Nat
  | .e4m3 | .e5m2 => 0x7F | .bf16 => 0x7FC0 | .fp16 => 0x7E00 | .fp32 => 0x7FC00000 | .int32 => 0x80000000
  | .e2m1 | .e2m3 | .e3m2 | .int8 => 0

/-- An exact value (-1)^neg * mag * 2^e, or special. -/
structure Val where
  special : Bool := false
  neg : Bool := false
  mag : Nat := 0
  e : Int := 0
deriving DecidableEq, Repr

/-- The number of bits of x without leading zeros. -/
def bitLen (x : Nat) : Nat := if x = 0 then 0 else Nat.log2 x + 1

/-- floor (x * 2^k). -/
def shlZ (x : Nat) (k : Int) : Nat := if 0 ≤ k then x * 2 ^ k.toNat else x / 2 ^ (-k).toNat

/-- Signed significand of a value. -/
def Val.sig (v : Val) : Int := if v.neg then -Int.ofNat v.mag else Int.ofNat v.mag

/-- The value sig * 2^e. -/
def Val.ofSig (special : Bool) (sig : Int) (e : Int) : Val := ⟨special, decide (sig < 0), sig.natAbs, e⟩

/-- The exact sum. -/
def Val.add (a b : Val) : Val :=
  if a.mag = 0 then { b with special := a.special || b.special } else
  if b.mag = 0 then { a with special := a.special || b.special } else
  let e := min a.e b.e
  Val.ofSig (a.special || b.special) (a.sig * 2 ^ (a.e - e).toNat + b.sig * 2 ^ (b.e - e).toNat) e

/-- The exact product. -/
def Val.mul (a b : Val) : Val := Val.ofSig (a.special || b.special) (a.sig * b.sig) (a.e + b.e)

/-- Exact comparison. -/
def Val.lt (a b : Val) : Bool :=
  if a.mag = 0 then decide (0 < b.sig) else if b.mag = 0 then decide (a.sig < 0) else
  let e := min a.e b.e
  decide (a.sig * 2 ^ (a.e - e).toNat < b.sig * 2 ^ (b.e - e).toNat)

def Val.maxV (a b : Val) : Val := if a.lt b then b else a
def Val.minV (a b : Val) : Val := if b.lt a then b else a
def Val.abs (a : Val) : Val := { a with neg := false }
def Val.negV (a : Val) : Val := { a with neg := !a.neg }
def Val.sub (a b : Val) : Val := a.add b.negV

/-- An element's exact value before its scales (03 R67). -/
def decodeElement (c : Fmt) (bits : Nat) : Val :=
  let w := c.width
  if c.isInt then Val.ofSig false (sext w bits) 0
  else
    let m := c.mbits
    let neg := bitOf bits (w - 1)
    let ef := bitsOf bits m (w - 1 - m)
    let mf := bitsOf bits 0 m
    if c.isSpecial ef mf then ⟨true, neg, 0, 0⟩
    else if ef = 0 then (if c.gradual then ⟨false, neg, mf, c.emin - m⟩ else ⟨false, neg, 0, 0⟩)
    else ⟨false, neg, mf + 2 ^ m, Int.ofNat ef - c.bias - m⟩

/-- Round mag * 2^e to a multiple of 2^q: the multiple (03 R73). -/
def roundMag (mag : Nat) (e q : Int) (mode r : Nat) : Nat :=
  if q ≤ e then mag * 2 ^ (e - q).toNat
  else
    let s := (q - e).toNat
    let fl := mag / 2 ^ s
    let rem := mag % 2 ^ s
    if rem = 0 then fl
    else if mode = 0 then
      (if rem > 2 ^ (s - 1) ∨ (rem = 2 ^ (s - 1) ∧ fl % 2 = 1) then fl + 1 else fl)
    else if mode = 1 then fl
    else if mode = 3 then fl ||| 1
    else
      let t := if 16 ≤ s then rem / 2 ^ (s - 16) else rem * 2 ^ (16 - s)
      if 65536 ≤ t + r then fl + 1 else fl

/-- A coarse scale's significand and exponent: sc * 2^ce (03 R76). -/
def coarseSig (cbits : Nat) : Nat := 128 + cbits % 128
def coarseExp (cbits : Nat) : Int := Int.ofNat (bitsOf cbits 7 8) - 134

/-- Is a coarse scale positive, normal and finite (03 R69)? -/
def coarseOk (c : Fmt) (cbits : Nat) : Bool :=
  if c = .int32 then cbits == 0x3F80 else decide (0x0080 ≤ cbits ∧ cbits ≤ 0x7F7F)

/-- mag * 2^e divided by sc * 2^ce, rounded to odd at 40 bits (03 R76). -/
def rtoQuotientBy (mag : Nat) (e : Int) (sc : Nat) (ce : Int) : Nat × Int :=
  if mag = 0 then (0, 0) else
  let k := 39 - Int.ofNat (bitLen mag) + Int.ofNat (bitLen sc)
  let quo := fun k : Int => if 0 ≤ k then mag * 2 ^ k.toNat / sc else mag / (sc * 2 ^ (-k).toNat)
  let k := if quo k < 2 ^ 39 then k + 1 else k
  let n := quo k
  let exact := if 0 ≤ k then decide (n * sc = mag * 2 ^ k.toNat) else decide (n * sc * 2 ^ (-k).toNat = mag)
  (if exact then n else n ||| 1, e - k - ce)

def rtoQuotient (mag : Nat) (e : Int) (cbits : Nat) : Nat × Int :=
  rtoQuotientBy mag e (coarseSig cbits) (coarseExp cbits)

/-- a * 2^ea ≤ b * 2^eb? -/
def leScaled (a : Nat) (ea : Int) (b : Nat) (eb : Int) : Bool :=
  let e := min ea eb
  decide (a * 2 ^ (ea - e).toNat ≤ b * 2 ^ (eb - e).toNat)

/-- The smallest x with am * 2^ae ≤ maxn * 2^x, held to -127 .. 127 (03 R76). The first guess is within one of it. -/
def chooseFineExp (c : Fmt) (am : Nat) (ae : Int) : Int :=
  if am = 0 then -127 else
  let x := Int.ofNat (bitLen am) + ae - Int.ofNat (bitLen c.maxSig) - c.maxExp
  let fits := fun x : Int => leScaled am ae c.maxSig (c.maxExp + x)
  let x := if fits x then x else x + 1
  let x := if fits (x - 1) then x - 1 else x
  max (-127) (min 127 x)

/-- The encoding of k * 2^q (03 R76). -/
def encodeElem (c : Fmt) (neg : Bool) (k : Nat) (q : Int) : Nat :=
  let w := c.width
  if c.isInt then (if neg then 2 ^ w - k else k)
  else
    let m := c.mbits
    let ex := Int.ofNat (bitLen k) - 1 + q
    let (ef, mf) :=
      if ex < c.emin then (0, shlZ k (q - c.emin + m))
      else ((ex + c.bias).toNat, shlZ k (q - ex + m) - 2 ^ m)
    (if neg then 2 ^ (w - 1) else 0) + ef * 2 ^ m + mf

def signedZero (c : Fmt) (neg : Bool) : Nat := if neg && !c.isInt then 2 ^ (c.width - 1) else 0

/-- Convert a 40-bit quotient: bits, saturated, lost (03 R76). -/
def convertElement (c : Fmt) (mode : Nat) (neg : Bool) (qm : Nat) (qe x : Int) (r : Nat) : Nat × Bool × Bool :=
  if qm = 0 then (0, false, false) else
  let e := qe - x
  let q :=
    if c.isInt then 0
    else
      let ex := Int.ofNat (bitLen qm) - 1 + e
      (if c.gradual && decide (ex < c.emin) then c.emin else ex) - c.mbits
  let k0 := roundMag qm e q mode r
  let fits := leScaled k0 q c.maxSig c.maxExp
  let k := if fits then k0 else c.maxSig
  let q := if fits then q else c.maxExp
  if k = 0 then (signedZero c neg, false, true)
  else if !c.isInt && !c.gradual && decide (Int.ofNat (bitLen k) - 1 + q < c.emin) then (signedZero c neg, false, true)
  else (encodeElem c neg k q, !fits, false)

/-- What a block converts to: element bits, fine-scale code, saturated, and which elements lost their mass. -/
structure Block where
  bits : List Nat
  fine : Nat
  sat : Bool
  lost : List Bool
deriving DecidableEq, Repr

/-- The larger of two quotients. -/
def maxQuo (a b : Nat × Int) : Nat × Int :=
  if a.1 = 0 then b else if b.1 = 0 then a else if leScaled a.1 a.2 b.1 b.2 then b else a

/-- Convert a block with the quotient's divisor sc * 2^ce: values with their SR draws (03 R76). -/
def convertBlockBy (c : Fmt) (mode sc : Nat) (ce : Int) (vs : List (Val × Nat)) : Block :=
  let qs := vs.map (fun v => rtoQuotientBy v.1.mag v.1.e sc ce)
  let anySp := vs.any (fun v => v.1.special)
  if c.fine && anySp && !c.hasNan then ⟨vs.map (fun _ => 0), 0xFF, false, vs.map (fun _ => false)⟩
  else
    let am := (vs.zip qs).foldl (fun a p => if p.1.1.special then a else maxQuo a p.2) (0, 0)
    let x := if c.fine then chooseFineExp c am.1 am.2 else 0
    let rs := (vs.zip qs).map (fun p =>
      if p.1.1.special then (c.nan, false, false)
      else convertElement c mode p.1.1.neg p.2.1 p.2.2 x p.1.2)
    ⟨rs.map (fun r => r.1), if c.fine then (x + 127).toNat else 0, rs.any (fun r => r.2.1), rs.map (fun r => r.2.2)⟩

def convertBlock (c : Fmt) (mode cbits : Nat) (vs : List (Val × Nat)) : Block :=
  convertBlockBy c mode (coarseSig cbits) (coarseExp cbits) vs

/-- Convert a run of elements: in blocks of 32 for a fine-scaled format, element by element otherwise (03 R76). Answers the
element bits, the fine scales (none in an unscaled format, Table 3-2), the saturation flag and the lost flags. -/
def convertRunBy (c : Fmt) (mode sc : Nat) (ce : Int) (vs : List (Val × Nat)) : List Nat × List Nat × Bool × List Bool :=
  let n := if c.fine then 32 else 1
  let bs := (chunksOf n vs.length vs).map (convertBlockBy c mode sc ce)
  (bs.flatMap (fun b => b.bits), if c.fine then bs.map (fun b => b.fine) else [], bs.any (fun b => b.sat), bs.flatMap (fun b => b.lost))

def convertRun (c : Fmt) (mode cbits : Nat) (vs : List (Val × Nat)) : List Nat × List Nat × Bool × List Bool :=
  convertRunBy c mode (coarseSig cbits) (coarseExp cbits) vs

/-! ## Packing (03 R72) -/

/-- Element n of width w of a bit string given as a number. -/
def unpackElem (x w n : Nat) : Nat := bitsOf x (w * n) w

/-- Pack elements of width w into one number, element 0 lowest. -/
def packElems (w : Nat) : List Nat → Nat
  | [] => 0
  | x :: xs => x + 2 ^ w * packElems w xs

/-- The bytes that elements pack into. -/
def packBytes (w : Nat) (xs : List Nat) : List Byte := leBytes ((w * xs.length + 7) / 8) (packElems w xs)

/-! ## FP32 values -/

/-- The FP32 encoding of an exact value, rounded once by a mode (RNE is 0), saturating and flushing as convert_element
does; an exact zero is +0. -/
def toFp32 (mode r : Nat) (v : Val) : Nat :=
  if v.special then Fmt.fp32.nan
  else
    let q : Nat × Int := if v.mag = 0 then (0, 0) else (v.mag, v.e)
    (convertElement .fp32 mode v.neg q.1 q.2 0 r).1

def fp32Val (bits : Nat) : Val := decodeElement .fp32 bits

/-- The value of a BF16 number. -/
def bf16Val (bits : Nat) : Val := decodeElement .bf16 bits

/-! ## Wide-lane function units (04 Table 4-3) -/

/-- floor (2^96 * 2^(2^-(i+1))), i = 0 to 49. -/
def exp2Roots : List Nat :=
  [112045541949572279837463876454, 94218694570555024373110687280, 86398923866664962375130072334, 82735892943544661968409507608,
    80963033366431698391403892406, 80090900639232773493759855183, 79658363602065864296602447411, 79442971854562650309779985388,
    79335494482037593178543608468, 79281810334857995344526032840] ++
  [79254981885274639038225885637, 79241571065139888961741854321, 79234866506068713947867698353, 79231514439261175779748764724,
    79229838459036794155212045657, 79229000482219122111440011082, 79228581497133874770443338217, 79228372005422143143813826732,
    79228267259773999700675265240, 79228214887001858491551355114] ++
  [79228188700628770505088420372, 79228175607445472165130168566, 79228169060854634408312904163, 79228165787559418383175182041,
    79228164150911861083921604088, 79228163332588095112623330337, 79228162923426215296556284074, 79228162718845276180918278821,
    79228162616554806821198155068, 79228162565409572190862812835] ++
  [79228162539836954888076321620, 79228162527050646239778370986, 79228162520657491916403219413, 79228162517460914754909099562,
    79228162515862626174210403621, 79228162515063481883873146646, 79228162514663909738707540908, 79228162514464123666125493726,
    79228162514364230629834659057, 79228162514314284111689288953] ++
  [79228162514289310852616615708, 79228162514276824223080282038, 79228162514270580908312115941, 79228162514267459250928033077,
    79228162514265898422235991691, 79228162514265118007889971009, 79228162514264727800716960671, 79228162514264532697130455503,
    79228162514264435145337202919, 79228162514264386369440576627]

/-- A lower bound of 2^96 * 2^(f / 2^50), within 2^-88 of it: the product over the bits of f. -/
def exp2Frac : List Nat → Nat → Nat → Nat → Nat
  | [], _, _, acc => acc
  | r :: rs, i, f, acc => exp2Frac rs (i - 1) f (if bitOf f i then acc * r / 2 ^ 96 else acc)

/-- exp2: exact at integers; elsewhere one of the two neighbours of 2^x, which one being Config's (log entry 10). Fifty fraction bits
of x hold every x of at least 2^-26 exactly; below that the neighbours are those of 1. -/
def exp2 (bits : U32) : U32 :=
  let v := fp32Val bits.toNat
  if v.special then BitVec.ofNat 32 Fmt.fp32.nan
  else if v.mag = 0 then 0x3F800000
  else if v.lt ⟨false, true, 126, 0⟩ then 0
  else if !v.lt ⟨false, false, 128, 0⟩ then BitVec.ofNat 32 Fmt.fp32.nan
  else
    let k := v.e + 50
    let fx : Int := if 0 ≤ k then v.sig * 2 ^ k.toNat else v.sig / 2 ^ (-k).toNat
    let i := fx / 2 ^ 50
    let f := (fx % 2 ^ 50).toNat
    let exact := f = 0 ∧ (0 ≤ k ∨ v.mag % 2 ^ (-k).toNat = 0)
    let n := exp2Frac exp2Roots 49 f (2 ^ 96) / 2 ^ 73
    let base := (i + 127).toNat * 2 ^ 23 + (n - 2 ^ 23)
    BitVec.ofNat 32 (if exact then base else if Config.exp2Up bits then base + 1 else base)

/-- recip: correctly rounded, RNE; a subnormal result flushes. -/
def recip (bits : U32) : U32 :=
  let v := fp32Val bits.toNat
  if v.special ∨ v.mag = 0 then BitVec.ofNat 32 Fmt.fp32.nan
  else
    let q := rtoQuotientBy 1 0 v.mag v.e
    BitVec.ofNat 32 (convertElement .fp32 0 v.neg q.1 q.2 0 0).1

/-- rsqrt: exact at 4^k; elsewhere one of the two neighbours of the root, which one being Config's (log entry 10). -/
def rsqrt (bits : U32) : U32 :=
  let v := fp32Val bits.toNat
  if v.special ∨ v.mag = 0 ∨ v.neg then BitVec.ofNat 32 Fmt.fp32.nan
  else
    let odd := v.e % 2 != 0
    let mag := if odd then 2 * v.mag else v.mag
    let e := if odd then v.e - 1 else v.e
    -- floor (2^90 / sqrt mag), at least 2^64: 24 bits of it are the significand
    let y := Nat.sqrt (2 ^ 180 / mag)
    let p := bitLen y
    let n := y / 2 ^ (p - 24)
    let ex := Int.ofNat p - 1 - 90 - e / 2
    let exact := n * n * mag * 4 ^ (p - 24) = 2 ^ 180
    let base := (ex + 127).toNat * 2 ^ 23 + (n - 2 ^ 23)
    BitVec.ofNat 32 (if exact then base else if Config.rsqrtUp bits then base + 1 else base)

end Sys2Proof.Machine
end

