-- ==== Sys2Proof/Machine/Operands.lean ====
section
/-! DEFINITION. Operand forms: cell words, packet headers, control cells, addresses, checksums and the counter-based
generator (07 R193, 08). -/

namespace Sys2Proof.Machine

/-! ## The counter-based generator (07 R193) -/

def mix64 (x : U64) : U64 :=
  let a := (x ^^^ (x >>> 30)) * 0xBF58476D1CE4E5B9
  let b := (a ^^^ (a >>> 27)) * 0x94D049BB133111EB
  b ^^^ (b >>> 31)

def cbDraw (seed : U64) (step : TideNo) (stream index : Nat) : U32 :=
  let k := mix64 (seed + step.setWidth 64 * 0x9E3779B97F4A7C15)
  let c : U64 := BitVec.ofNat 64 (stream * 2 ^ 32 + index)
  (mix64 (k ^^^ mix64 (c + 0x9E3779B97F4A7C15)) >>> 32).setWidth 32

/-! ## Checksums (08 R207, R211) -/

/-- One bit of cell_wcrc. -/
def wcrcBit (c : Nat) (b : Bool) : Nat :=
  let c' := c * 2 % 256
  if (c / 128 == 1) != b then c' ^^^ 7 else c'

/-- CRC-8 over bits [31:8] of a cell word (08 R207). -/
def cellWcrc (word : Nat) : Nat :=
  (List.range 24).foldl (fun c i => wcrcBit c (bitOf word (31 - i))) 255

/-- One byte of a reflected CRC-32, without the final XOR. -/
def crc32Byte (c : Nat) (b : Byte) : Nat :=
  (List.range 8).foldl (fun c _ => if c % 2 = 1 then c / 2 ^^^ 0xEDB88320 else c / 2) (c ^^^ b.toNat)

/-- The CRC-32 of IEEE 802.3 (08 R211). -/
def crc32 (bs : List Byte) : U32 := BitVec.ofNat 32 ((bs.foldl crc32Byte 0xFFFFFFFF) ^^^ 0xFFFFFFFF)

/-! ## Cell words (08 Table 8-1) -/

def cwType (w : U32) : Nat := bitsOf w.toNat 30 2
def cwVc (w : U32) : Nat := bitsOf w.toNat 27 3
def cwEpoch (w : U32) : Bool := bitOf w.toNat 26
def cwSeq (w : U32) : BitVec 10 := BitVec.ofNat 10 (bitsOf w.toNat 16 10)
def cwMirrored (w : U32) : Bool := bitOf w.toNat 14
def cwColour (w : U32) : Nat := bitsOf w.toNat 12 2
def cwBypass (w : U32) : Bool := bitOf w.toNat 11
def cwResend (w : U32) : Bool := bitOf w.toNat 15

/-- A cell word with its WCRC. -/
def mkCw (ct vc : Nat) (epoch : Bool) (seq : Nat) (resend mirrored : Bool) (colour : Nat) (bypass : Bool) : U32 :=
  let w := ct * 2 ^ 30 + vc * 2 ^ 27 + bitNat epoch * 2 ^ 26 + seq * 2 ^ 16 + bitNat resend * 2 ^ 15
    + bitNat mirrored * 2 ^ 14 + colour * 2 ^ 12 + bitNat bypass * 2 ^ 11
  BitVec.ofNat 32 (w + cellWcrc w)

/-- A number with n bits from a place replaced. -/
def putBits (x lo n v : Nat) : Nat := x - bitsOf x lo n * 2 ^ lo + v % 2 ^ n * 2 ^ lo

/-- A cell word with n bits from a place replaced and its WCRC written again; every other bit stays (08 R207). -/
def cwPut (w : U32) (lo n v : Nat) : U32 :=
  let x := putBits w.toNat lo n v
  BitVec.ofNat 32 (putBits x 0 8 (cellWcrc x))

/-- A head's cell word with its EPOCH set (08 R207, R227). -/
def cwWithEpoch (w : U32) (epoch : Bool) : U32 := cwPut w 26 1 (bitNat epoch)

/-- A head's cell word with its COLOUR set (10 R274). -/
def cwWithColour (w : U32) (c : Nat) : U32 := cwPut w 12 2 c

/-- The cell word of a head or control cell as it leaves a hop: VC and BYPASS changed, SEQ left to the lane side (08 R207). -/
def cwHop (w : U32) (vc : Nat) (bypass : Bool) : U32 := cwPut (cwPut (cwPut w 16 10 0) 27 3 vc) 11 1 (bitNat bypass)

/-- Does a cell's WCRC hold? -/
def wcrcOk (w : U32) : Bool := cellWcrc w.toNat == bitsOf w.toNat 0 8

/-- A timestamp; from cycle 4,096 on it saturates (02 R445). -/
def mkStamp (tide cyc frac : Nat) : U64 :=
  let (c, f) := if 4096 ≤ cyc then (4095, 15) else (cyc, frac)
  BitVec.ofNat 64 (tide * 65536 + c * 16 + f)

/-! ## Addresses (08 R217) -/

def addrSwitch (a : Nat) : Nat := a / 2 ^ 12
def addrH (a : Nat) : Nat := bitsOf a 24 8
def addrX (a : Nat) : Nat := bitsOf a 20 4
def addrY (a : Nat) : Nat := bitsOf a 16 4
def addrZ (a : Nat) : Nat := bitsOf a 12 4
def addrB (a : Nat) : Nat := bitsOf a 4 8
def addrF (a : Nat) : Nat := bitsOf a 0 4

/-- The coordinate of an address on axis 0 X, 1 Y, 2 Z. -/
def addrCoord (a : Nat) : Nat → Nat
  | 0 => addrX a
  | 1 => addrY a
  | _ => addrZ a

/-! ## Packet headers (08 Tables 8-3 to 8-5) -/

/-- A packet header. -/
structure Hdr where
  dst : Nat
  src : Nat
  kind : Nat
  fmt : Nat
  enc : Nat
  seg : Nat
  body : Nat
  scales : Nat
  mcast : Bool
  job : Nat
  sid : Nat
  gen : Nat
  chunk : Nat
  off : Nat
  elems : Nat
  rank : Nat
  coarse : Nat
  xfer : Nat
  flow : Nat
  birth : Nat
  param : Nat
deriving DecidableEq, Repr

/-- The header that 64 payload bytes spell; a reader ignores the reserved bits (00 R7). -/
def Hdr.ofBytes (p : List Byte) : Hdr :=
  let ctl := field p 8 4
  let sg := field p 12 4
  let co := field p 16 4
  let er := field p 20 4
  { dst := field p 0 4, src := field p 4 4, kind := bitsOf ctl 28 4, fmt := bitsOf ctl 24 4, enc := bitsOf ctl 22 2,
    seg := bitsOf ctl 20 2, body := bitsOf ctl 13 7, scales := bitsOf ctl 11 2, mcast := bitOf ctl 10,
    job := bitsOf ctl 0 6, sid := bitsOf sg 0 20, gen := bitsOf sg 20 8, chunk := bitsOf co 16 16,
    off := bitsOf co 0 12, elems := bitsOf er 16 13, rank := bitsOf er 0 8, coarse := field p 24 2,
    xfer := field p 26 2, flow := field p 28 2, birth := bitsOf (field p 30 2) 0 12, param := field p 32 8 }

/-- The 64 payload bytes of a header. -/
def Hdr.bytes (h : Hdr) : List Byte :=
  leBytes 4 h.dst ++ leBytes 4 h.src
    ++ leBytes 4 (h.kind * 2 ^ 28 + h.fmt * 2 ^ 24 + h.enc * 2 ^ 22 + h.seg * 2 ^ 20 + h.body * 2 ^ 13
      + h.scales * 2 ^ 11 + bitNat h.mcast * 2 ^ 10 + h.job)
    ++ leBytes 4 (h.gen * 2 ^ 20 + h.sid) ++ leBytes 4 (h.chunk * 2 ^ 16 + h.off)
    ++ leBytes 4 (h.elems * 2 ^ 16 + h.rank) ++ leBytes 2 h.coarse ++ leBytes 2 h.xfer ++ leBytes 2 h.flow
    ++ leBytes 2 h.birth ++ leBytes 8 h.param ++ List.replicate 24 0

/-- The cells of a data packet (08 R209). -/
def Hdr.cells (h : Hdr) : Nat := 1 + h.body + h.scales

/-- Body cells that ELEMS needs (08 R214). -/
def bodyCells (enc : Nat) (fmt : Option Fmt) (elems : Nat) : Nat :=
  match enc with
  | 0 => (elems * (fmt.map Fmt.width).getD 0 + 511) / 512
  | 1 => (elems + 7) / 8
  | 2 => (elems + 4) / 5
  | _ => (elems + 63) / 64

/-- Does an encoding suit a kind (08 Table 8-5)? -/
def encAllowed (kind enc : Nat) : Bool :=
  match kind with
  | 1 => enc != 3
  | 2 | 4 => enc == 0
  | 3 => enc == 0 || enc == 3
  | 5 | 6 => enc == 3
  | 7 => true
  | _ => false

/-- Is an address none of the reserved ones (08 R218, Table 8-8)? -/
def addrOk (a : Nat) : Bool := addrH a != 0xF0 && addrH a != 0xFF && addrF a != 0xC

/-- Do the fields of row statistics agree: FP32, and a row length of 2^5 to 2^12 (08 R214)? -/
def rowsOk (h : Hdr) : Bool := h.seg != 2 || (h.enc == 0 && h.fmt == 9 && decide (5 ≤ h.xfer % 16 ∧ h.xfer % 16 ≤ 12))

/-- Does COARSE suit the encoding (08 R214)? -/
def coarseFieldOk (h : Hdr) (fmt : Option Fmt) : Bool :=
  match h.enc with
  | 0 => match fmt with
    | some f => coarseOk f h.coarse
    | none => false
  | 1 => h.coarse % 128 == 0 && decide (0x0080 ≤ h.coarse ∧ h.coarse ≤ 0x7F00)
  | 2 => h.coarse == 0x3F80
  | _ => h.coarse == 0

/-- The rules of R8, R69, R71 and R214 within one header. Its reserved fields, and those that its kind does not use, are not read (00 R7). -/
def Hdr.ok (h : Hdr) : Bool :=
  let fmt := Fmt.ofCode h.fmt
  let fine := h.enc == 0 && (fmt.map Fmt.fine).getD false
  encAllowed h.kind h.enc && h.seg != 3 && rowsOk h && addrOk h.src
    && (if h.enc == 0 then fmt.isSome else h.fmt == 0)
    && decide (1 ≤ h.elems ∧ h.off + h.elems ≤ 4096)
    && h.body == bodyCells h.enc fmt h.elems && decide (1 ≤ h.body ∧ h.body ≤ 64)
    && h.scales == (if fine then (h.elems + 2047) / 2048 else 0)
    && coarseFieldOk h fmt
    && (!fine || (h.off % 32 == 0 && h.elems % 32 == 0))
    && (h.mcast || addrOk h.dst)

/-- The multicast group of a header (08 Table 8-3). -/
def Hdr.group (h : Hdr) : Nat := h.dst % 65536

/-- BIRTH written into the payload of a packet or control cell: two bytes at an offset, every other byte as it was (08 R212, R213). -/
def putBirth (bs : List Byte) (off birth : Nat) : List Byte := bs.take off ++ leBytes 2 birth ++ bs.drop (off + 2)

/-- The traffic class of a data packet; a SAMPLER packet's is that of its VC (08 Table 8-5). -/
def Hdr.tc (h : Hdr) (vc : Nat) : Nat :=
  match h.kind with
  | 1 => 1
  | 2 | 4 => 2
  | 3 => if h.mcast then 2 else 3
  | 7 => vc / 2
  | _ => 3

/-- spread_key of a data packet (08 R223). -/
def Hdr.spreadKey (h : Hdr) : U64 :=
  BitVec.ofNat 64 (h.kind * 2 ^ 60 + (match h.kind with
    | 1 | 2 => h.sid * 2 ^ 16 + h.chunk
    | 3 | 4 | 7 => h.sid * 2 ^ 32 + h.src
    | _ => h.flow * 2 ^ 32 + (h.src ^^^ h.dst)))

/-- spread_index (08 R223), and bridge_lane (09 R240). -/
def spreadIndex (key salt : U64) (live : Nat) : Nat := (mix64 (key ^^^ salt)).toNat / 2 ^ 32 * live / 2 ^ 32

/-- Charged credits of a data packet of n cells (10 R267). -/
def chargedCredits (n : Nat) : Nat := 16 * ((n + 15) / 16)

/-! ## Control cells (08 Tables 8-6, 8-7) -/

/-- The TYPE of a control body. -/
def CtrlBody.type : CtrlBody → Nat
  | .align _ => 1 | .credit .. => 2 | .discover _ => 3 | .linkAck _ => 4 | .streamStart .. => 0x20
  | .streamAbort .. => 0x21 | .poison .. => 0x22 | .resultAck .. => 0x23 | .resendReq .. => 0x24
  | .resendRefused .. => 0x25 | .gatherReq .. => 0x26 | .gatherRefused .. => 0x27 | .reshardEnd _ => 0x28 | .throttle .. => 0x29
  | .mark .. => 0x30

/-- SID_GEN of a control cell. -/
def sidGen (sid : Sid) (gen : Byte) : List Byte := leBytes 4 (gen.toNat * 2 ^ 20 + sid.toNat)

/-- The body that the 64 payload bytes of a control cell spell, of the types that have one here (08 Table 8-7, 17 R438); a reader ignores
the reserved bits (00 R7). -/
def CtrlBody.ofBytes (p : List Byte) : Option CtrlBody :=
  let f := fun (o n : Nat) => field p o n
  let sid : Sid := BitVec.ofNat 20 (f 12 4)
  let gen : Byte := BitVec.ofNat 8 (bitsOf (f 12 4) 20 8)
  let w16 := fun (o : Nat) => BitVec.ofNat 16 (f o 2)
  match f 8 1 with
  | 0x20 => some (.streamStart sid gen)
  | 0x21 => some (.streamAbort sid gen (w16 16) (BitVec.ofNat 4 (f 18 1)))
  | 0x22 => some (.poison sid gen (w16 16))
  | 0x23 => some (.resultAck sid gen (w16 16) (w16 18))
  | 0x24 => some (.resendReq sid gen (w16 16) (BitVec.ofNat 12 (f 18 2)) (BitVec.ofNat 2 (bitsOf (f 18 2) 12 2)))
  | 0x25 => some (.resendRefused sid gen (w16 16) (BitVec.ofNat 12 (f 18 2)) (BitVec.ofNat 2 (bitsOf (f 18 2) 12 2)))
  | 0x26 => some (.gatherReq (BitVec.ofNat 20 (f 12 4)) (BitVec.ofNat 20 (f 16 4)) (w16 20) (BitVec.ofNat 48 (f 24 8))
      (BitVec.ofNat 32 (f 32 4)) (bitOf (f 36 1) 0))
  | 0x27 => some (.gatherRefused (BitVec.ofNat 20 (f 12 4)) (BitVec.ofNat 20 (f 16 4)) (w16 20) (BitVec.ofNat 48 (f 24 8))
      (BitVec.ofNat 8 (f 32 1)))
  | 0x28 => some (.reshardEnd (BitVec.ofNat 32 (f 12 4)))
  | 0x29 => some (.throttle (BitVec.ofNat 8 (f 12 1)) (BitVec.ofNat 8 (f 13 1)) (w16 14))
  | 0x30 => some (.mark (BitVec.ofNat 8 (f 12 1)) (BitVec.ofNat 32 (f 16 4)) (BitVec.ofNat 64 (f 20 8)))
  | _ => none

/-- The body bytes of a control cell, from offset 0x0C (08 Table 8-7). -/
def CtrlBody.bytes : CtrlBody → List Byte
  | .align c => leBytes 8 c.dep.toNat ++ leBytes 8 c.echoDep.toNat ++ leBytes 8 c.echoArr.toNat
      ++ [BitVec.ofNat 8 (bitNat c.echoValid + 2 * bitNat c.counting + 4 * bitNat c.holdover), c.senderBerth]
  | .credit gs t => gs.flatMap (fun g => leBytes 2 g.toNat) ++ leBytes 8 t.toNat
  | .discover c => leBytes 4 c.addr.toNat ++ [c.berth, c.role, 0, 0] ++ leBytes 8 c.serial.toNat
      ++ [BitVec.ofNat 8 (bitNat c.epoch + 2 * bitNat c.quarantined)]
  | .linkAck p => leBytes 2 (p.toNat + 32768)
  | .streamStart sid gen => sidGen sid gen
  | .streamAbort sid gen f st => sidGen sid gen ++ leBytes 2 f.toNat ++ [BitVec.ofNat 8 st.toNat]
  | .poison sid gen f => sidGen sid gen ++ leBytes 2 f.toNat
  | .resultAck sid gen c n => sidGen sid gen ++ leBytes 2 c.toNat ++ leBytes 2 n.toNat
  | .resendReq sid gen c o sg | .resendRefused sid gen c o sg =>
      sidGen sid gen ++ leBytes 2 c.toNat ++ leBytes 2 (o.toNat + 4096 * sg.toNat)
  | .gatherReq t f n v d m => leBytes 4 t.toNat ++ leBytes 4 f.toNat ++ leBytes 4 n.toNat ++ leBytes 8 v.toNat
      ++ leBytes 4 d.toNat ++ [BitVec.ofNat 8 (bitNat m)]
  | .gatherRefused t f n v r => leBytes 4 t.toNat ++ leBytes 4 f.toNat ++ leBytes 4 n.toNat ++ leBytes 8 v.toNat ++ [r]
  | .reshardEnd r => leBytes 4 r.toNat
  | .throttle m l d => [m, l] ++ leBytes 2 d.toNat
  | .mark g sq dep => [g, 0, 0, 0] ++ leBytes 4 sq.toNat ++ leBytes 8 dep.toNat

/-- The 64 payload bytes of a control cell. -/
def CtrlOut.bytes (c : CtrlOut) : List Byte :=
  let p := padTo 60 (leBytes 4 c.dst.toNat ++ leBytes 4 c.src.toNat ++ [BitVec.ofNat 8 c.body.type, c.job]
    ++ leBytes 2 c.birth.toNat ++ c.body.bytes)
  p ++ leBytes 4 (crc32 p).toNat

/-- Fields of the 64 payload bytes of a control cell (08 Table 8-6). -/
def ctrlDst (p : List Byte) : Nat := field p 0 4
def ctrlSrc (p : List Byte) : Nat := field p 4 4
def ctrlType (p : List Byte) : Nat := field p 8 1
def ctrlJob (p : List Byte) : Nat := bitsOf (field p 9 1) 0 6
def ctrlBirth (p : List Byte) : Nat := bitsOf (field p 10 2) 0 12

/-- Does the CRC-32 of a control cell hold (08 R210, R211)? -/
def ctrlCrcOk (p : List Byte) : Bool := field p 60 4 == (crc32 (padTo 60 (p.take 60))).toNat

/-- A control cell with its BIRTH written, its CRC-32 changed by the difference that makes (08 R212). -/
def ctrlWithBirth (p : List Byte) (birth : Nat) : List Byte :=
  let q := putBirth p 10 birth
  q.take 60 ++ leBytes 4 (BitVec.ofNat 32 (field p 60 4) ^^^ crc32 (p.take 60) ^^^ crc32 (q.take 60)).toNat

/-- spread_key of a control cell (08 R223). -/
def ctrlKey (p : List Byte) : U64 := BitVec.ofNat 64 (15 * 2 ^ 60 + ctrlType p * 2 ^ 32 + (ctrlSrc p ^^^ ctrlDst p))

end Sys2Proof.Machine

namespace Sys2Proof

/-- The fields of a received control cell (08 Table 8-6); its reserved bits are not read. -/
def Ctrl.dst (c : Ctrl) : U32 := BitVec.ofNat 32 (Machine.ctrlDst c.bytes)
def Ctrl.src (c : Ctrl) : U32 := BitVec.ofNat 32 (Machine.ctrlSrc c.bytes)
def Ctrl.job (c : Ctrl) : Byte := BitVec.ofNat 8 (Machine.ctrlJob c.bytes)

end Sys2Proof
end

