-- ==== Sys2Proof/Machine/Checker.lean ====
section
/-! DEFINITION. The checker of a Sampler partition berth and its capture ring (17 R437 to R439). -/

namespace Sys2Proof.Machine

/-- Quay bytes at a 64-bit Quay address (01 R444). -/
def State.quayReadAt (s : State) (addr n : Nat) : List Byte := (s.quay (Half.ofNum (bitsOf addr 33 1))).readBytes (bitsOf addr 0 33) n

def State.quayWriteAt (s : State) (addr : Nat) (bs : List Byte) : State :=
  s.modQuay (Half.ofNum (bitsOf addr 33 1)) (fun m => m.writeBytes (bitsOf addr 0 33) bs)

/-- The active partition that a berth belongs to (17 R430). -/
def State.partOf (s : State) (b : Nat) : Option (Nat × PartSt) := s.parts.find? (fun e => e.2.active && b ∈ e.2.berths)

def PartSt.check (p : PartSt) (b : Nat) : CheckSt := Tab.get {} p.checks b

def State.modCheck (s : State) (n b : Nat) (f : CheckSt → CheckSt) : State :=
  s.modPart n (fun p => { p with checks := Tab.upd {} p.checks b f })

/-- Count under a code of Table 17-3. -/
def State.checkCount (s : State) (n b code k : Nat) : State :=
  s.modCheck n b (fun c => { c with counts := Tab.upd 0 c.counts code (fun x => satAdd 32 x k) })

/-- Count a cell received on a berth of a partition under a code of Table 17-3. -/
def State.checkCell (s : State) (b code : Nat) : State :=
  match s.partOf b with
  | some (n, _) => s.checkCount n b code 1
  | none => s

/-- Does a control cell break R215: a reserved type (08 Table 8-7, 17 R438), or a link-local type with a DST? -/
def ctrlCellBad (bytes : List Byte) : Bool :=
  let t := (bytes.getD 12 0).toNat
  !(decide (t ≤ 4) || decide (0x20 ≤ t ∧ t ≤ 0x29) || t == 0x30) || (decide (t < 0x20) && field bytes 4 4 != 0)

/-- The codes of Table 17-3 that a whole packet can show, in the table's order; `beyond` is the number of its cells beyond
the credit granted. -/
def CheckSt.classify (c : CheckSt) (hd : Hdr) (hdrBad crcOk stomped : Bool) (beyond : Nat) : Nat :=
  if stomped then 2
  else if !crcOk then 3
  else if hdrBad then 5
  else if 0 < beyond then 7
  else if hd.kind = 7 then
    match Tab.get? c.lastSeq (hd.src * 2 ^ 20 + hd.sid) with
    | some (last, _) =>
      let n := bitsOf hd.param 0 32
      if n < last then 9 else if last + 1 + c.crcSince < n then 8 else 0
    | none => 0
  else 0

/-- The sequence record after a packet (17 Table 17-3, SEQ_GAP, SEQ_ORDER). -/
def CheckSt.noteSeq (c : CheckSt) (hd : Hdr) (code : Nat) : CheckSt :=
  if code = 2 ∨ code = 3 then { c with crcSince := c.crcSince + 1 }
  else if hd.kind = 7 then
    let k := hd.src * 2 ^ 20 + hd.sid
    let n := bitsOf hd.param 0 32
    let last := ((Tab.get? c.lastSeq k).map (fun e => e.1)).getD n
    { c with lastSeq := Tab.set c.lastSeq k (max last n, 0), crcSince := 0 }
  else { c with crcSince := 0 }

/-- How much a code adds to its counter: SEQ_GAP the numbers skipped less the CRC drops, OVER_CREDIT the cells. -/
def CheckSt.amount (c : CheckSt) (hd : Hdr) (code beyond : Nat) : Nat :=
  if code = 7 then beyond
  else if code = 8 then
    match Tab.get? c.lastSeq (hd.src * 2 ^ 20 + hd.sid) with
    | some (last, _) => bitsOf hd.param 0 32 - (last + 1 + c.crcSince)
    | none => 1
  else 1

/-- A routed control cell is received on a partition berth: a stream-start cell is noted by the berth's generators (17 R435). -/
def State.partCtrl (s : State) (n b : Nat) (body : CtrlBody) : State :=
  match body with
  | .streamStart sid gen => s.modPart n (fun p => { p with gens := p.gens.map (fun e =>
      if e.2.cfg.berth.toNat = b then (e.1, { e.2 with starts := (sid.toNat, gen) :: e.2.starts.filter (fun x => x.1 != sid.toNat) }) else e) })
  | _ => s

/-- The cells of a packet as received: the head's cell word, the words of R207 for the rest, and the CRC-32 (17 R439). -/
def receivedCells (cw : U32) (hd : Hdr) (payload : List Byte) (crc : U32) : List Byte :=
  (List.range hd.cells).flatMap (fun i =>
    let body := padTo 64 ((payload.drop (64 * i)).take 64)
    if i = 0 then leBytes 4 cw.toNat ++ body
    else if i + 1 = hd.cells then leBytes 4 crc.toNat ++ body
    else leBytes 4 (mkCw (if i ≤ hd.body then 1 else 2) (cwVc cw) (cwEpoch cw) (((cwSeq cw).toNat + i) % 1024) false false 0
      false).toNat ++ body)

/-- The capture of one packet: the checker after it and the entries that go to the ring (17 R439). -/
def CheckSt.capture (c : CheckSt) (entry : List Byte) (code : Nat) : CheckSt × List (List Byte) :=
  if c.entries = 0 then (c, [])
  else if 0 < c.postLeft then
    ({ c with postLeft := c.postLeft - 1, armed := c.armed && (c.mode != 0 || c.postLeft != 1) }, [entry])
  else if c.armed && c.trigger.getLsbD code then
    ({ c with postLeft := c.post, recent := [], armed := c.mode != 0 || c.post != 0 }, c.recent ++ [entry])
  else
    let l := c.recent ++ [entry]
    ({ c with recent := l.drop (l.length - c.pre) }, [])

/-- Write capture entries into the ring. -/
def State.captureWrite (s : State) (n b : Nat) : List (List Byte) → State
  | [] => s
  | e :: es =>
    match Tab.get? s.parts n with
    | none => s
    | some p =>
      let c := p.check b
      let s := s.quayWriteAt (c.ring + 4608 * (c.written % c.entries)) e
      (s.modCheck n b (fun c => { c with written := c.written + 1 })).captureWrite n b es

/-- A packet has been received whole on a partition berth: count it under the first rule it breaks, and capture it. A
RESULT packet of the golden stream that breaks none waits for its comparison (17 R441). The cycle and
fraction of the timestamp are a free value within the tide, saturating in a relock tide (02 R445; log entry 13). -/
def State.checkPacket (s : State) (n b : Nat) (cw : U32) (hd : Hdr) (payload : List Byte) (crc : U32)
    (hdrBad crcOk stomped : Bool) (beyond : Nat) : State :=
  match Tab.get? s.parts n with
  | none => s
  | some p =>
    let c := p.check b
    let code := c.classify hd hdrBad crcOk stomped beyond
    let golden := code == 0 && hd.kind == 2 && p.gold.any (fun g => g.sid == hd.sid && g.gen.toNat == hd.gen)
    let s := if golden then s.modPart n (fun p => { p with gold := p.gold.map (fun g => { g with waiting := g.waiting ++ [(b, payload)] }) })
      else s.checkCount n b code (c.amount hd code beyond)
    let (i, s) := s.freeIx
    let at_ := (Config.freeWord i).toNat % (16 * s.tide.len)
    let stamp := mkStamp s.now.toNat (at_ / 16) (at_ % 16)
    let entry := padTo 4608 (leBytes 8 stamp.toNat ++ leBytes 2 b ++ [BitVec.ofNat 8 code, BitVec.ofNat 8 hd.cells, 0, 0, 0, 0]
      ++ receivedCells cw hd payload crc)
    match Tab.get? s.parts n with
    | none => s
    | some p =>
      let (c', es) := (p.check b).capture entry code
      (s.modCheck n b (fun _ => c'.noteSeq hd code)).captureWrite n b es

end Sys2Proof.Machine
end

