-- ==== Sys2Proof/Machine/Routing.lean ====
section
/-! DEFINITION. Charts, live berths, the next hop and the targets of a packet (08 R217 to R234). -/

namespace Sys2Proof.Machine

/-- The Chart that an EPOCH selects (08 R227). -/
def State.chartOf (s : State) (epoch : Bool) : Chart := if epoch then s.chart.slot1 else s.chart.slot0

/-- The active Chart. -/
def State.active (s : State) : Chart := s.chartOf s.chart.epoch

/-- Is the slot of an EPOCH routable: active, draining, or holding an armed set (08 R227)? -/
def State.routable (s : State) (epoch : Bool) : Bool :=
  if epoch == s.chart.epoch then s.chart.active else s.chart.draining || s.chart.armed

/-- This switch's address. -/
def State.own (s : State) : Nat := s.active.own.toNat

/-- The size of axis 0 X, 1 Y, 2 Z. -/
def Chart.size (c : Chart) : Nat → Nat
  | 0 => c.nx
  | 1 => c.ny
  | _ => c.nz

def Chart.wraps (c : Chart) (ax : Nat) : Bool := c.wrap.getLsbD ax

/-- Is a berth quarantined, by any of the three causes (08 R234)? -/
def State.quarantined (s : State) (b : Nat) : Bool :=
  s.active.quarantine.getLsbD b || (s.berth b).quarDisc || (s.berth b).quarFence

/-- Is a berth live: up, matched by discovery, not quarantined and not in a far-end loop (08 R223, Table 8-13, 11 R302)? A
berth in Ethernet mode has no discovery and is live while up. -/
def State.live (s : State) (b : Nat) : Bool :=
  let x := s.berth b
  x.up && (x.eth || x.outcome == 0) && !s.quarantined b && !x.farLoop

/-- The bundle that a berth belongs to. -/
def Chart.bundleOf (c : Chart) (b : Nat) : Option (Nat × BundleE) := c.bundles.find? (fun e => b ∈ e.2.berths && e.2.role != 0)

/-- The group that a berth belongs to. -/
def Chart.groupOf (c : Chart) (b : Nat) : Option GroupE := (c.groups.find? (fun e => b ∈ e.2.berths)).map (fun e => e.2)

/-- The role of the bundle in direction `plus` of an axis: 1 +X to 6 -Z (12 Table 12-13). -/
def axisRole (ax : Nat) (plus : Bool) : Nat := 2 * ax + if plus then 1 else 2

/-- The axis and direction of the hop on which a packet arrived, from its input berth: it moved away from the neighbour
that the bundle faces. -/
def Chart.inHop (c : Chart) (b : Nat) : Option (Nat × Bool) :=
  match c.bundleOf b with
  | some (_, e) => if 1 ≤ e.role ∧ e.role ≤ 6 then some ((e.role - 1) / 2, e.role % 2 == 0) else none
  | none => none

/-- The bundle of a role. -/
def Chart.bundleRole (c : Chart) (role : Nat) : Option (Nat × BundleE) := c.bundles.find? (fun e => e.2.role == role)

/-- A job's slice on an axis: base, length and date line; without a job section, the whole axis (08 R225). -/
def Chart.slice (c : Chart) (job ax : Nat) : SliceAxis :=
  let n := c.size ax
  match Tab.get? c.jobs job with
  | some l => l.getD ax ⟨0, n, n - 1⟩
  | none => ⟨0, n, n - 1⟩

/-- Is a coordinate in a slice, which may wrap? -/
def inSlice (n x : Nat) (a : SliceAxis) : Bool := decide ((x + n - a.base % n) % n < a.len)

/-- axis_dir: true for + (08 R221). -/
def Chart.axisDir (c : Chart) (ax src dst job : Nat) : Bool :=
  let n := c.size ax
  let a := c.slice job ax
  if a.len < n && inSlice n src a && inSlice n dst a then
    decide ((dst + n - a.base % n) % n > (src + n - a.base % n) % n)
  else if !c.wraps ax then decide (dst > src)
  else
    let dp := (dst + n - src % n) % n
    if dp < n - dp then true else if dp > n - dp then false else src % 2 == 0

/-- Does a hop cross the job's date line (08 R225)? -/
def Chart.crossesDateLine (c : Chart) (ax src : Nat) (plus : Bool) (job : Nat) : Bool :=
  let n := c.size ax
  let dl := (c.slice job ax).dl
  if plus then src == dl else src == (dl + 1) % n

/-- What routing a packet gives. -/
inductive Hop where
  | drop
  | here
  | out (berths : List Nat) (vc : Nat) (bypass : Bool)
deriving DecidableEq, Repr

/-- The live berths of a list, ascending. -/
def State.liveOf (s : State) (bs : List Nat) : List Nat := (List.range 260).filter (fun b => b ∈ bs && s.live b)

/-- The berths of every bundle of a role. -/
def Chart.roleBerths (c : Chart) (role : Nat) : List Nat :=
  (c.bundles.filter (fun e => e.2.role == role)).flatMap (fun e => e.2.berths)

/-- Leave on some live berth of a list, or drop (08 R221). -/
def State.outOn (s : State) (bs : List Nat) (vc : Nat) (bypass : Bool) : Hop :=
  match s.liveOf bs with
  | [] => .drop
  | l => .out l vc bypass

/-- The torus part of next_hop, over the axes left to look at (08 R221). -/
def State.torusHop (s : State) (c : Chart) (dst job tc vcIn : Nat) (hop : Option (Nat × Bool)) :
    List Nat → Bool → Hop
  | [], _ => .here
  | ax :: rest, byp =>
    let x := addrCoord c.own.toNat ax
    let d := addrCoord dst ax
    let sameAx := hop.any (fun h => h.1 == ax)
    if x ≠ d then
      let inDir := (hop.map (fun h => h.2)).getD true
      let plus := if byp && sameAx then inDir else c.axisDir ax x d job
      let vc := if sameAx then vcIn else 2 * tc
      let lost := (c.bundleRole (axisRole ax plus)).any (fun e => s.chart.bypassSel.getLsbD e.1)
      if lost && (byp || !c.wraps ax) then .drop
      else
        let dir := if lost then !plus else plus
        let byp' := byp || lost
        let vc := if lost then 2 * tc + 1 else vc
        let vc := if c.crossesDateLine ax x dir job then 2 * tc + 1 else vc
        s.outOn (c.roleBerths (axisRole ax dir)) vc byp'
    else s.torusHop c dst job tc vcIn hop rest (if sameAx then false else byp)

/-- Does a bundle face the switch of an address? -/
def BundleE.faces (e : BundleE) (a : Nat) : Bool := e.role != 0 && addrSwitch e.addr.toNat == addrSwitch a

/-- The next hop of a packet for a switch: next_hop and harbour_route (08 R218, R221, R222). -/
def State.nextHop (s : State) (c : Chart) (dst job tc vcIn : Nat) (byp : Bool) (hop : Option (Nat × Bool)) : Hop :=
  let own := c.own.toNat
  if addrSwitch dst = addrSwitch own then .here
  else if 0xF1 ≤ addrH dst ∧ addrH dst ≤ 0xFE then
    s.outOn ((c.bundles.filter (fun e => e.2.faces dst)).flatMap (fun e => e.2.berths)) (2 * tc) byp
  else if addrH dst ≠ addrH own then
    if addrH own < 0xF0 then s.outOn (c.roleBerths 7) (2 * tc) byp
    else
      let e := (Tab.get 0 c.harbour (addrH dst)).toNat
      match bitsOf e 0 2 with
      | 2 => s.outOn (c.roleBerths 7) (2 * tc) byp
      | 3 => s.outOn ((c.bundles.filter (fun b => bitOf e (16 + b.1))).flatMap (fun b => b.2.berths)) (2 * tc) byp
      | _ => .drop
  else s.torusHop c dst job tc vcIn hop [0, 1, 2] byp

/-- The group of an endpoint address on this switch; routing never uses an analysis group (08 R219, R221, 09 R253). -/
def Chart.groupFor (c : Chart) (a : Nat) : Option GroupE :=
  (c.groups.find? (fun e =>
    let g := e.2.addr.toNat
    !e.2.analysis && if addrF a ≤ 0xB then addrF g ≤ 0xB && g / 16 == a / 16 else g == a)).map (fun e => e.2)

/-- Does SRC name a group (08 R219)? -/
def GroupE.names (g : GroupE) (src : Nat) : Bool :=
  let a := g.addr.toNat
  if addrF a ≤ 0xB then a / 16 == src / 16 && decide (addrF src ≤ 0xB) else a == src

/-- Is a berth one that the Chart marks as analysis (09 R253)? -/
def Chart.isAnalysis (c : Chart) (b : Nat) : Bool := c.groups.any (fun e => e.2.analysis && decide (b ∈ e.2.berths))

/-- Choose one berth of a list by key. -/
def pickBerth (key salt : U64) (bs : List Nat) : Nat := bs.getD (spreadIndex key salt bs.length) 0

/-- One target of a packet: the place, VC and BYPASS of a copy; none where it cannot be routed. -/
structure Target where
  dest : Dest
  vc : Nat
  bypass : Bool
deriving DecidableEq, Repr

/-- The target for an address (08 R221). -/
def State.targetFor (s : State) (c : Chart) (key : U64) (dst job tc vcIn : Nat) (byp : Bool)
    (hop : Option (Nat × Bool)) : Option Target :=
  match s.nextHop c dst job tc vcIn byp hop with
  | .drop => none
  | .out bs vc b => some ⟨.berth (pickBerth key c.salt bs), vc, b⟩
  | .here =>
    match addrF dst with
    | 0xF => some ⟨.self, 2 * tc, false⟩
    | 0xD => if addrB dst < 8 then some ⟨.host (addrB dst), 2 * tc, false⟩ else none
    | 0xC => none
    | _ =>
      match c.groupFor dst with
      | some g =>
        match s.liveOf g.berths with
        | [] => none
        | bs => some ⟨.berth (pickBerth key c.salt bs), 2 * tc, false⟩
      | none =>
        if addrF dst = 0xE ∧ addrB dst < 4 ∧ s.live (256 + addrB dst) ∧ c.isAnalysis (256 + addrB dst) = false then some ⟨.berth (256 + addrB dst), 2 * tc, false⟩
        else none

/-- The targets of a packet, one for each copy, in the group's order for a multicast packet (08 R227): the copies that
cannot be routed are none. -/
def State.targets (s : State) (c : Chart) (key : U64) (mcast : Bool) (dst job tc vcIn : Nat) (byp : Bool)
    (hop : Option (Nat × Bool)) : List (Option Target) :=
  if !mcast then [s.targetFor c key dst job tc vcIn byp hop]
  else if dst % 65536 ∈ s.chart.badGroups then [none]
  else
    match Tab.get? c.mcast (dst % 65536) with
    | none => [none]
    | some ts => ts.map (fun a => s.targetFor c key a.toNat job tc vcIn byp hop)

/-- The half that a destination is reached in; the switch itself is reached in the half given. -/
def Dest.half (d : Dest) (here : Half) : Half :=
  match d with
  | .berth b => berthHalf b
  | .host _ => .west
  | .self => here

/-- The half and physical engine of an electrical berth's attach port (09 Table 9-2). -/
def lsxEngine (b : Nat) : Nat := if b % 2 = 0 then 19 else 18

/-- The output sub-port of a destination in its half; an attach port's is one of its four by the key (log entry 21). -/
def Dest.subPort (d : Dest) (key salt : U64) : Nat :=
  match d with
  | .berth b => if b < 256 then b % 128 else 128 + 8 * lsxEngine b + 4 + spreadIndex key salt 4
  | .host _ => 128 + 8 * 17 + 4 + spreadIndex key salt 4
  | .self => 128

/-- The bridge sub-ports in service, ascending. -/
def State.bridgeLive (s : State) (h : Half) : List Nat :=
  if (s.half h.other).runs then (List.range 96).filter (fun j => j ∉ (s.half h).bridgeDown) else []

/-- The output sub-port in half h for a destination: its own, or a bridge sub-port (09 R240); none with no bridge. -/
def State.outPort (s : State) (h : Half) (d : Dest) (key salt : U64) (here : Half) : Option Nat :=
  if d.half here = h then some (d.subPort key salt)
  else
    match s.bridgeLive h with
    | [] => none
    | js => some (288 + js.getD (spreadIndex key (s.half h).pool.salt js.length) 0)

/-- Is an output sub-port one that faces a berth: an optical one, or one of an electrical berth's attach port (09 Table 9-2, 10 R263)? -/
def facesBerth (sub : Nat) : Bool :=
  decide (sub < 128) || decide (128 + 8 * 18 + 4 ≤ sub ∧ sub < 128 + 8 * 19) || decide (128 + 8 * 19 + 4 ≤ sub ∧ sub < 128 + 8 * 20)

/-- The sub-ports of a berth: its own, or the four of its attach port. -/
def berthSubs (b : Nat) : List Nat := if b < 256 then [b % 128] else rangeFrom (128 + 8 * lsxEngine b + 4) 4

/-- The berth behind an input sub-port, of an optical berth or an attach port (09 Tables 9-1, 9-2). -/
def inputBerth (h : Half) (sub : Nat) : Option Nat :=
  if sub < 128 then some (h.num * 128 + sub)
  else if 128 + 8 * 19 + 4 ≤ sub ∧ sub < 128 + 8 * 20 then some (256 + 2 * h.num)
  else if 128 + 8 * 18 + 4 ≤ sub ∧ sub < 128 + 8 * 19 then some (257 + 2 * h.num)
  else none

/-- The port that numbers a berth's credits within its half: its sub-port, or 384 and up for the electrical berths. -/
def berthPort (b : Nat) : Nat := if b < 256 then b % 128 else 384 + b % 2

/-- Is a packet past its lifetime (08 R228)? -/
def State.isAged (s : State) (birth : Nat) : Bool := decide (64 ≤ (s.now.toNat % 4096 + 4096 - birth % 4096) % 4096)

/-! ## Control cells (08 R215) -/

/-- The key of the credits of an input sub-port on a VC. -/
def creditKey (sub vc : Nat) : Nat := 8 * sub + vc

/-- Cells of an input's credit have come back: `res` of them may be granted again, and `all` are no longer outstanding (10 R267). -/
def HalfSt.credited (x : HalfSt) (key : Option Nat) (res all : Nat) : HalfSt :=
  match key with
  | some k => { x with freed := Tab.upd 0 x.freed k (fun v => v + res), granted := Tab.upd 0 x.granted k (fun v => v - all) }
  | none => x

/-- Cells of an input's credit that reserved pallets or slots backed have been freed (10 R267). -/
def State.freeCredit (s : State) (h : Half) (key : Option Nat) (n : Nat) : State := s.modHalf h (fun x => x.credited key n n)

/-- The engine sub-port by which a mover's cells enter, of a physical engine (09 R236). Log entry 21. -/
def moverPort (eng : Nat) : Nat := 128 + 8 * eng

/-- The sub-ports of the movers assigned to a stream, to a Hold stack and to a half's control cells (09 R236). -/
def HalfSt.streamPort (x : HalfSt) (n : Nat) : Nat := moverPort (Tab.get (n % 20) x.streamMovers n)
def HalfSt.stackPort (x : HalfSt) (stack : Nat) : Nat := moverPort (Tab.get (stack % 20) x.stackMovers stack)
def HalfSt.ctrlPort (x : HalfSt) : Nat := moverPort x.ctrlMover

/-- The index of an input or output sub-port, and VC, in the counters of 09 Table 9-6. -/
def subVcIx (h : Half) (sub vc : Nat) : Nat := h.num * 3072 + sub * 8 + vc
def subIx (h : Half) (sub : Nat) : Nat := h.num * 384 + sub

/-- Does a cell lie in one of the 4,096 slots that the electrical berths, the bridge and the engines share (10 R269)? -/
def CtrlQ.shared (q : CtrlQ) : Bool := !(q.origin.isSome && decide (q.input < 128))

/-- Room for a cell that no berth brings: the shared slots less the 192 that back the credit of the electrical berths (log entry 24). -/
def HalfSt.ctrlRoom (x : HalfSt) : Bool := decide (x.ctrl.countP (fun q => q.shared && q.credit.isNone) < 3904)

/-- Room for a cell of a berth: one of the 48 slots of its VC (10 R269). -/
def HalfSt.ctrlRoomFor (x : HalfSt) (key : Nat) : Bool := decide (x.ctrl.countP (fun q => q.credit == some key) < 48)

/-- Put a cell into the control store of the half it entered by (09 R237, 10 R268, R269): from a berth without room it is dropped and
counted, and from a mover or the bridge it waits. -/
def State.storeCtrl (s : State) (h : Half) (q : CtrlQ) : State :=
  match q.credit with
  | some k =>
    if (s.half h).ctrlRoomFor k then s.modHalf h (fun x => { x with ctrl := x.ctrl ++ [q] })
    else (s.bump .overCredit (subVcIx h q.input (k % 8))).freeCredit h q.credit 1
  | none =>
    s.modHalf h (fun x => if x.ctrlRoom && x.ctrlWait.isEmpty then { x with ctrl := x.ctrl ++ [q] } else { x with ctrlWait := x.ctrlWait ++ [q] })

/-- Cells that waited for a slot take those that have become free. -/
def HalfSt.admitCtrl : Nat → HalfSt → HalfSt
  | 0, x => x
  | fuel + 1, x =>
    match x.ctrlWait with
    | q :: l => if x.ctrlRoom then HalfSt.admitCtrl fuel { x with ctrl := x.ctrl ++ [q], ctrlWait := l } else x
    | [] => x

/-- Route a control cell that entered a half, into that half's store, for its output there or for a bridge sub-port; one that cannot be
routed is dropped and counted against the berth it came by, if any (09 R237). Log entry 69. -/
def State.routeCtrl (s : State) (h : Half) (input : Nat) (berth : Option Nat) (epoch : Bool) (vcIn : Nat) (byp : Bool) (cw : U32)
    (p : List Byte) : State :=
  let c := s.chartOf epoch
  let hop := berth.bind (fun b => c.inHop b)
  let credit := berth.map (fun b => creditKey (berthPort b) vcIn)
  let lost := fun (s : State) => match berth with
    | some b => (s.bump .noRoute b).freeCredit h credit 1
    | none => s
  match s.targetFor c (ctrlKey p) (ctrlDst p) (ctrlJob p) 0 vcIn byp hop with
  | none => lost s
  | some t =>
    match t.dest with
    | .self => s
    | d =>
      -- a berth in Ethernet mode carries BULK packets only (11 R306)
      if (match d with
        | .berth b => (s.berth b).eth
        | _ => false) then lost s
      else match s.outPort h d (ctrlKey p) c.salt h with
      | none => lost s
      | some out => s.storeCtrl h {
          input := input, origin := berth, attach := berth.any (fun b => decide (256 ≤ b)), credit := credit, out := out, vc := t.vc,
          bypass := t.bypass, dest := d, epoch := epoch, cw := cw, bytes := p }

/-- The addresses of a multicast group (08 R227). -/
def State.groupAddrs (s : State) (group : Nat) : List U32 := Tab.get [] s.active.mcast group

/-- Send a control cell of this switch's own from a mover of a half: its own address as SRC, the active epoch, this tide's BIRTH (08 R227,
R213, 09 R236). -/
def State.sendCtrlFrom (s : State) (h : Half) (port : Nat) (dst : U32) (job : Nat) (body : CtrlBody) : State :=
  s.routeCtrl h port none s.chart.epoch 0 false (mkCw 3 0 s.chart.epoch 0 false false 0 false)
    (CtrlOut.mk dst s.active.own (BitVec.ofNat 8 job) (BitVec.ofNat 16 (s.now.toNat % 4096)) body).bytes

/-- Send a control cell from the control mover of the half in which it arises (09 R236). -/
def State.sendCtrlAt (s : State) (h : Half) (dst : U32) (job : Nat) (body : CtrlBody) : State :=
  s.sendCtrlFrom h (s.half h).ctrlPort dst job body

/-- The stream that a control body names. -/
def CtrlBody.sid? : CtrlBody → Option Nat
  | .streamStart sid _ | .streamAbort sid _ _ _ | .poison sid _ _ | .resultAck sid _ _ _ | .resendReq sid _ _ _ _
  | .resendRefused sid _ _ _ _ => some sid.toNat
  | _ => none

/-- Send a control cell of a stream, from the mover assigned to the stream in its home half (09 R236). -/
def State.sendCtrl (s : State) (dst : U32) (job : Nat) (body : CtrlBody) : State :=
  match body.sid? with
  | some n =>
    let h := (s.stream n).home
    s.sendCtrlFrom h ((s.half h).streamPort n) dst job body
  | none => s.sendCtrlAt .east dst job body

/-- Send a control cell to each of several addresses. -/
def State.sendCtrls (s : State) (dsts : List U32) (job : Nat) (body : CtrlBody) : State :=
  dsts.foldl (fun s d => s.sendCtrl d job body) s

/-- Receive a routed control cell: the checks of a packet's arrival with that of its CRC-32, and its forwarding if it is for another.
Answers whether it is for this switch. Its credit returns when it leaves the control store, or at once (10 R269). A gather request for
this switch from a fenced job is answered with its reason (07 Table 7-3). Log entry 69. -/
def State.ctrlIn (s : State) (c : Ctrl) (body : CtrlBody) : State × Bool :=
  let b := c.berth.val
  let ch := s.active
  let h := berthHalf b
  let vc := cwVc c.cw
  let credit := some (creditKey (berthPort b) vc)
  let endpoint := (ch.bundleOf b).isNone
  let birth := if endpoint then s.now.toNat % 4096 else ctrlBirth c.bytes
  let epoch := if endpoint then s.chart.epoch else cwEpoch c.cw
  let dst := c.dst.toNat
  let input := (berthSubs b).headD 0
  let drop := fun k => ((s.bump k b).freeCredit h credit 1, false)
  let me := addrSwitch dst = addrSwitch ch.own.toNat ∧ addrF dst = 0xF
  let bad := !addrOk dst || !addrOk c.src.toNat || decide (2 ≤ vc) || (endpoint && vc == 1)
  if !(s.berth b).up then (s, false)
  else if s.berthSafe b then (s.bwDrop b 1, false)
  else if (s.partOf b).isSome then
    let t := if !ctrlCrcOk c.bytes then s.checkCell b 3 else if bad then s.checkCell b 5
      else s.partCtrl (((s.partOf b).map (fun e => e.1)).getD 0) b body
    (t.freeCredit h credit 1, false)
  else if s.quarantined b then drop .quarantined
  else if !ctrlCrcOk c.bytes then
    (((s.bump .crcBad b).bump .inCrcBad (subIx h input)).freeCredit h credit 1, false)
  else if bad then drop .hdrBad
  else if endpoint && !(ch.groupOf b).any (fun g => g.names c.src.toNat) then drop .srcBad
  else if endpoint && !(ch.groupOf b).any (fun g => g.jobs.getLsbD c.job.toNat) then drop .jobDenied
  else if (s.job c.job.toNat).fenced ∧ ¬ (me ∧ body.type = 0x26) then drop .jobDenied
  else if !s.routable epoch then drop .epochNone
  else if s.isAged birth then drop .aged
  else if me then (s.freeCredit h credit 1, true)
  else (s.routeCtrl h input (some b) epoch vc (cwBypass c.cw) (cwWithEpoch c.cw epoch)
    (if endpoint then ctrlWithBirth c.bytes birth else c.bytes), false)

end Sys2Proof.Machine
end

