-- ==== Sys2Proof/Machine/Windows.lean ====
section
/-! DEFINITION. Windows, spills, carries, exact value words, the LSE merge and the output stage (04). -/

namespace Sys2Proof.Machine

/-! ## The window (04 R86 to R91) -/

/-- A contribution element's exact value with its scales (04 R88). -/
def inputValue (c : Fmt) (bits f cbits : Nat) : Val :=
  let v := decodeElement c bits
  if c.fine && f == 0xFF then { v with special := true }
  else
    let e := if c.fine then v.e + Int.ofNat f - 127 else v.e
    { v with mag := v.mag * coarseSig cbits, e := e + coarseExp cbits }

/-- The true value, in units of 2^(C - 48) (04 R86). -/
def Window.trueValue (w : Window) : Int := w.a.toInt + w.wrap.toInt * 2 ^ 104

/-- Represent a true value as A and WRAP (04 R88). -/
def Window.setTrue (w : Window) (t : Int) : Window :=
  let wr := (t + 2 ^ 103) / 2 ^ 104
  { w with wrap := BitVec.ofInt 2 wr, a := BitVec.ofInt 104 (t - wr * 2 ^ 104) }

/-- Place a value, folding bits below the floor into the lowest bit (04 R88). -/
def Window.place (w : Window) (v : Val) (cexp : Int) : Window :=
  if v.special then { w with spec := true }
  else if v.mag ≠ 0 ∧ Int.ofNat (bitLen v.mag) + v.e > cexp + 48 then
    (if v.neg then { w with ovfn := true } else { w with ovfp := true })
  else
    let k := Int.ofNat (roundMag v.mag v.e (cexp - 48) 3 0)
    w.setTrue (w.trueValue + if v.neg then -k else k)

/-- Add a partial window (04 R88). -/
def Window.combine (w p : Window) : Window :=
  { w with spec := w.spec || p.spec, ovfp := w.ovfp || p.ovfp, ovfn := w.ovfn || p.ovfn }.setTrue
    (w.trueValue + p.trueValue)

/-- The flags of a spill store word ORed in (04 R91). -/
def Window.orFlags (w : Window) (p : SpillWord) : Window :=
  { w with spec := w.spec || p.spec, ovfp := w.ovfp || p.ovfp, ovfn := w.ovfn || p.ovfn }

/-- Read a window and its stored value out, with the range test: the value and whether it was clamped (04 R91). -/
def Window.read (w : Window) (stored : Int) (cexp : Int) : Val × Bool :=
  if w.spec || (w.ovfp && w.ovfn) then (⟨true, false, 0, 0⟩, false)
  else
    let t := stored + w.trueValue
    let lim : Int := 2 ^ 96 - 1
    let t' := if w.ovfp then lim else if w.ovfn then -lim else max (-lim) (min lim t)
    (Val.ofSig false t' (cexp - 48), w.ovfp || w.ovfn || t' != t)

/-- What is added into a spill store word: a true value and flags (04 R93, R95). -/
structure SpillAdd where
  value : Int := 0
  spec : Bool := false
  ovfp : Bool := false
  ovfn : Bool := false
deriving DecidableEq, Repr

def Window.spillAdd (w : Window) : SpillAdd := ⟨w.trueValue, w.spec, w.ovfp, w.ovfn⟩
def SpillWord.spillAdd (p : SpillWord) : SpillAdd := ⟨p.value.toInt, p.spec, p.ovfp, p.ovfn⟩

/-- Two additions as one: a partial that has spilled adds its store value and its window together (04 R95). -/
def SpillAdd.join (a b : SpillAdd) : SpillAdd := ⟨a.value + b.value, a.spec || b.spec, a.ovfp || b.ovfp, a.ovfn || b.ovfn⟩

/-- Does an addition keep |VALUE| below 2^124 (04 R94)? -/
def SpillWord.fits (p : SpillWord) (a : SpillAdd) : Bool := decide ((p.value.toInt + a.value).natAbs < 2 ^ 124)

/-- A store word after an addition (04 R93). -/
def SpillWord.add (p : SpillWord) (a : SpillAdd) : SpillWord :=
  { value := BitVec.ofInt 125 (p.value.toInt + a.value), spec := p.spec || a.spec, ovfp := p.ovfp || a.ovfp,
    ovfn := p.ovfn || a.ovfn }

/-- The 128-bit image of a window (04 Table 4-4). -/
def Window.image (w : Window) : BitVec 128 :=
  BitVec.ofNat 128 (w.a.toNat + 2 ^ 104 * w.wrap.toNat + 2 ^ 106 * bitNat w.spec + 2 ^ 107 * bitNat w.ovfp
    + 2 ^ 108 * bitNat w.ovfn)

/-- Is an image writable: reserved bits 0 and WRAP not 0b10 (04 R115)? -/
def imageOk (x : BitVec 128) : Bool := bitsOf x.toNat 109 19 == 0 && bitsOf x.toNat 104 2 != 2

def Window.ofImage (x : BitVec 128) : Window :=
  { a := BitVec.ofNat 104 x.toNat, wrap := BitVec.ofNat 2 (bitsOf x.toNat 104 2), spec := bitOf x.toNat 106,
    ovfp := bitOf x.toNat 107, ovfn := bitOf x.toNat 108 }

/-- The spill store word's 16 bytes in Quay (04 Table 4-6). -/
def SpillWord.bytes (p : SpillWord) : List Byte :=
  leBytes 16 (p.value.toNat + 2 ^ 125 * bitNat p.spec + 2 ^ 126 * bitNat p.ovfp + 2 ^ 127 * bitNat p.ovfn)

def SpillWord.ofBytes (bs : List Byte) : SpillWord :=
  let x := field bs 0 16
  { value := BitVec.ofNat 125 x, spec := bitOf x 125, ovfp := bitOf x 126, ovfn := bitOf x 127 }

/-! ## Carries (04 R101, R102) -/

/-- The carry format of a result format: BF16, FP32 or the 64-bit word, none (04 Table 4-7). -/
def Fmt.carry : Fmt → Option Fmt
  | .bf16 | .fp16 => some .fp32
  | .fp32 | .int32 => none
  | _ => some .bf16

/-- A value as a carry element: round to odd with coarse scale 2^C (04 R101). -/
def carryBits (c : Fmt) (cexp : Int) (v : Val) : Nat :=
  if v.special then c.nan
  else
    let q := rtoQuotientBy v.mag v.e 128 (cexp - 7)
    (convertElement c 3 v.neg q.1 q.2 0 0).1

/-- A readout as a 64-bit window fixed point word (04 R102). -/
def carry64 (cexp : Int) (v : Val) : Nat :=
  if v.special then 0x7F * 2 ^ 57
  else
    let m := shlZ v.mag (v.e - (cexp - 48))
    let sh := bitLen m - 56
    let sig := roundMag m 0 sh 3 0
    toTwos 57 (if v.neg then -Int.ofNat sig else Int.ofNat sig) + sh * 2 ^ 57

/-- Does a 64-bit word keep R102? -/
def word64Ok (x : Nat) : Bool :=
  let sh := bitsOf x 57 7
  decide (sh ≤ 40) || (sh == 0x7F && bitsOf x 0 57 == 0)

/-- The value of a 64-bit word (04 R102). -/
def word64Val (cexp : Int) (x : Nat) : Val :=
  let sh := bitsOf x 57 7
  if sh = 0x7F then ⟨true, false, 0, 0⟩ else Val.ofSig false (sext 57 x) (cexp - 48 + sh)

/-! ## Exact value words (04 R104, R105) -/

def ExactVal.val (x : ExactVal) : Val := Val.ofSig x.special x.sig x.exp

/-- Divide the 2s out of a magnitude, at most `fuel` of them. -/
def oddPart : Nat → Nat → Nat → Nat × Nat
  | 0, m, k => (m, k)
  | fuel + 1, m, k => if m ≠ 0 ∧ m % 2 = 0 then oddPart fuel (m / 2) (k + 1) else (m, k)

/-- The special value word (04 R104). -/
def ExactVal.spec : ExactVal := { special := true, index := 0xFFFFFFFF }

/-- A value with its winner index and, of a local member, its job rank, SIG odd (log entry 15). -/
def ExactVal.ofVal (v : Val) (index : U32) (rank : Option Nat) : ExactVal :=
  if v.special then ExactVal.spec
  else if v.mag = 0 then { index := index, rank := rank }
  else
    let (m, k) := oddPart 40 v.mag 0
    { sig := if v.neg then -Int.ofNat m else Int.ofNat m, exp := v.e + k, index := index, rank := rank }

/-- Does the first of two equal values win: the lower job rank where both are known, and else the lower index (04 R104, R105)? -/
def ExactVal.first (a b : ExactVal) : Bool :=
  match a.rank, b.rank with
  | some x, some y => decide (x ≤ y)
  | _, _ => decide (a.index ≤ b.index)

/-- The winner of two values: MAX (and AMAX, of magnitudes) or MIN; equal values go to the lowest rank (04 R104, R105). -/
def ExactVal.win (isMin : Bool) (a b : ExactVal) : ExactVal :=
  if a.special || b.special then ExactVal.spec
  else if a.val.lt b.val then (if isMin then a else b)
  else if b.val.lt a.val then (if isMin then b else a)
  else if a.first b then a else b

/-- The 12 bytes of an exact value word (04 R105). -/
def ExactVal.bytes (x : ExactVal) : List Byte :=
  leBytes 5 (toTwos 40 x.sig) ++ leBytes 2 (toTwos 16 x.exp) ++ [BitVec.ofNat 8 (bitNat x.special)]
    ++ leBytes 4 x.index.toNat

/-- Does a word keep R105's reserved bits? -/
def exactOk (bs : List Byte) : Bool := decide (field bs 7 1 < 2)

def ExactVal.ofBytes (bs : List Byte) : ExactVal :=
  if bitOf (field bs 7 1) 0 then ExactVal.spec
  else ExactVal.ofVal (Val.ofSig false (sext 40 (field bs 0 5)) (sext 16 (field bs 5 2))) (BitVec.ofNat 32 (field bs 8 4)) none

/-! ## The LSE merge (04 R107 to R110) -/

/-- A partial attention row or chunk: exact o values, and per row the maximum m (FP32) and exact l. -/
structure Triple where
  o : List Val
  m : List U32
  l : List Val
deriving DecidableEq, Repr

/-- Round an exact value by RNE to n significant bits. -/
def roundSig (n : Nat) (v : Val) : Val :=
  if v.special ∨ bitLen v.mag ≤ n then v
  else
    let q := v.e + Int.ofNat (bitLen v.mag - n)
    { v with mag := roundMag v.mag v.e q 0 0, e := q }

/-- The larger of two maxima, special where one is (03 R65). -/
def maxM (a b : U32) : U32 :=
  let x := fp32Val a.toNat
  let y := fp32Val b.toNat
  if x.special || y.special then BitVec.ofNat 32 Fmt.fp32.nan else if x.lt y then b else a

/-- The weight of a partial whose maximum is m against the new maximum (04 R108). -/
def lseWeight (m big : U32) : Val :=
  let d := toFp32 0 0 ((fp32Val m.toNat).sub (fp32Val big.toNat))
  roundSig 12 (fp32Val (exp2 (BitVec.ofNat 32 d)).toNat)

/-- Merge partials against the largest maximum of each row: the windows of o (coarse exponent cexp), the maxima, and the
windows of l (coarse exponent 24); d is the row length (04 R108, R109). -/
def lseMerge (d : Nat) (cexp : Int) (ps : List Triple) : List Window × List U32 × List Window :=
  match ps with
  | [] => ([], [], [])
  | p0 :: rest =>
    let rows := List.range p0.m.length
    let big := rows.map (fun r => rest.foldl (fun b p => maxM b (p.m.getD r 0)) (p0.m.getD r 0))
    let wt := fun (p : Triple) (r : Nat) => lseWeight (p.m.getD r 0) (big.getD r 0)
    let wts := ps.map (fun p => rows.map (wt p))
    let acc := fun (c : Int) (vs : List (Val × Val)) =>
      vs.foldl (fun w (x : Val × Val) => w.place (x.1.mul x.2) c) ({} : Window)
    let o := (List.range p0.o.length).map (fun n =>
      acc cexp ((ps.zip wts).map (fun pw => (pw.1.o.getD n {}, pw.2.getD (n / d) {}))))
    let l := rows.map (fun r => acc 24 ((ps.zip wts).map (fun pw => (pw.1.l.getD r {}, pw.2.getD r {}))))
    (o, big, l)

/-! ## The output stage (04 R111) -/

/-- Keep the 192 most significant bits, rounding the rest to odd. -/
def fold192 (v : Val) : Val :=
  let n := bitLen v.mag
  if n ≤ 192 then v
  else
    let q := v.e + Int.ofNat (n - 192)
    { v with mag := roundMag v.mag v.e q 3 0, e := q }

/-- What the Manifest gives the output converter (04 R111). -/
structure OutCfg where
  mult : Nat
  fuse : Nat
  bias : Nat
  clip : Option (Nat × Nat)
deriving DecidableEq, Repr

/-- The earlier stages of the output converter on an exact value and its fused element. -/
def outputStage (g : OutCfg) (x : Val) (t : Val) : Val :=
  let v := x.mul (bf16Val g.mult)
  let v := if g.fuse = 1 then v.add t else if g.fuse = 2 then v.mul t else v
  let v := v.add (fp32Val g.bias)
  let sp := x.special || (decide (g.fuse ≠ 0) && t.special) || (fp32Val g.bias).special
  let v := match g.clip with
    | some (lo, hi) => ((v.maxV (fp32Val lo)).minV (fp32Val hi))
    | none => v
  { fold192 v with special := sp }

/-- ⌊|V| / 2^(C - 48)⌋ (03 R80). -/
def massOf (cexp : Int) (v : Val) : Nat := shlZ v.mag (v.e - (cexp - 48))

end Sys2Proof.Machine
end

