-- ==== Sys2Proof/Machine/Manifest.lean ====
section
/-! DEFINITION. The fields of a Manifest and what they say of leaves, chunks and roles (05 Tables 5-1 to 5-6, 06 R156,
R157, R162). -/

namespace Sys2Proof

namespace ManifestCfg

variable (m : ManifestCfg)

def job : Nat := Machine.bitsOf m.opctl.toNat 24 6
def consumer : Nat := Machine.bitsOf m.opctl.toNat 22 2
def csp : Nat := Machine.bitsOf m.opctl.toNat 20 2
def home : Half := Half.ofNum (Machine.bitsOf m.opctl.toNat 18 1)
def norm : Bool := Machine.bitOf m.opctl.toNat 17
def clipEn : Bool := Machine.bitOf m.opctl.toNat 16
def fuse : Nat := Machine.bitsOf m.opctl.toNat 14 2
def rmode : Nat := Machine.bitsOf m.opctl.toNat 12 2
def outCode : Nat := Machine.bitsOf m.opctl.toNat 8 4
def inCode : Nat := Machine.bitsOf m.opctl.toNat 4 4
def op : Nat := Machine.bitsOf m.opctl.toNat 0 4
def inFmt : Machine.Fmt := (Machine.Fmt.ofCode m.inCode).getD .fp32
def outFmt : Machine.Fmt := (Machine.Fmt.ofCode m.outCode).getD .fp32
def patience : Nat := Machine.bitsOf m.range.toNat 16 16
def k : Nat := Machine.bitsOf m.range.toNat 8 8 + 1
def cexp : Int := Machine.sext 8 m.range.toNat
def elems : Nat := m.elemCount.toNat
def slotBase : Nat := Machine.bitsOf m.slots.toNat 0 4
def slotCount : Nat := Machine.bitsOf m.slots.toNat 4 4 + 1
def parent : Bool := Machine.bitOf m.peers.toNat 21
def releaser : Bool := Machine.bitOf m.peers.toNat 20
def children : Nat := Machine.bitsOf m.peers.toNat 16 4
def ringPos : Nat := Machine.bitsOf m.peers.toNat 8 8
def ringN : Nat := Machine.bitsOf m.peers.toNat 0 8
def nMembers : Nat := m.members.toNat

/-- LSE, and the kinds that pick a winner. -/
def isLse : Bool := m.op == 5
def isExact : Bool := m.op == 2 || m.op == 3 || m.op == 4

def tree : Half → U32
  | .east => m.treeE
  | .west => m.treeW

/-- The logical engines and tiles of a half's leaves. -/
def engs (h : Half) : List Nat := (List.range 20).filter (fun e => (m.tree h).getLsbD e)
def tiles (h : Half) : List Nat := (List.range 8).filter (fun t => (m.tree h).getLsbD (20 + t))

/-- The leaf tiles of a half, engine then tile ascending. -/
def leavesOf (h : Half) : List Nat := (m.engs h).flatMap (fun e => (m.tiles h).map (fun t => Machine.tileKey h e t))

/-- The leaf tiles in order: the home half first (05 R126). -/
def leaves : List Nat := m.leavesOf m.home ++ m.leavesOf m.home.other

/-- The home root tile (04 R98). -/
def root : Nat := Machine.tileKey m.home ((m.engs m.home).headD 0) 0

/-- The root tile of a half: tile 0 of its lowest engine used. -/
def halfRoot (h : Half) : Nat := if h = m.home then m.root else Machine.tileKey h ((m.engs h).headD 0) 0

/-- Chunks, and the elements of one (05 R123). -/
def chunkCount : Nat := (m.elems + 4095) / 4096
def chunkLen (c : Nat) : Nat := if c + 1 < m.chunkCount then 4096 else m.elems - 4096 * c

/-- The blocks that complete a chunk (05 R129). -/
def fullMask (c : Nat) : Nat := 2 ^ ((m.chunkLen c + 31) / 32) - 1

/-- The chunk slot of a chunk (05 R127). -/
def slotOf (c : Nat) : Nat := m.slotBase + c % m.slotCount

/-- The leaf of a local member (05 R126). -/
def leafOf (r : Nat) : Nat := m.leaves.getD (r * m.leaves.length / m.nMembers) m.root

/-- The tile that places an input (05 R126, 04 R98). -/
def tileOf (rank : Nat) : Nat := if rank < 0xF0 then m.leafOf rank else m.root

/-- Does the stream send to DOWN_ADDR: along a ring, or as a switch that only forwards (05 R132)? -/
def hasDown : Bool := decide (1 < m.ringN) || (!m.releaser && !m.parent)

/-- Every tile that a stream has slots on (05 R127). -/
def slotTiles : List Nat := if m.root ∈ m.leaves then m.leaves else m.root :: m.leaves

/-- Does the stream use a logical engine of a half? -/
def usesEngine (h : Half) (e : Nat) : Bool := m.slotTiles.any (fun k => Machine.tileHalf k == h && Machine.tileEng k == e)

/-- Does the stream have a leaf or its root in a half (05 R147)? -/
def inHalf (h : Half) : Bool := m.slotTiles.any (fun k => Machine.tileHalf k == h)

/-- The indices that pair directly into index i of a binary tree over n (04 R98): 2i+1 into 2i, then 4i+2 into 4i, .... -/
def pairsInto (i n : Nat) : List Nat :=
  (if i % 2 = 0 ∧ i + 1 < n then [i + 1] else [])
    ++ (if i % 4 = 0 ∧ i + 2 < n then [i + 2] else [])
    ++ (if i % 8 = 0 ∧ i + 4 < n then [i + 4] else [])
    ++ (if i % 16 = 0 ∧ i + 8 < n then [i + 8] else [])
    ++ (if i % 32 = 0 ∧ i + 16 < n then [i + 16] else [])

/-- Where the partial of index i's subtree ends: at i where i holds a leaf or where two partials meet; the partial of one child passes
through to where it is (04 R98). None where the subtree holds no leaf. Log entry 79. -/
def endOf (leaf : Nat → Bool) (n : Nat) : Nat → Nat → Option Nat
  | 0, i => if leaf i then some i else none
  | fuel + 1, i =>
    let ks := (pairsInto i n).filterMap (endOf leaf n fuel)
    if leaf i || decide (2 ≤ ks.length) then some i else ks.head?

/-- The nodes whose partials combine into index i, in order (04 R98). -/
def kidsOf (leaf : Nat → Bool) (n i : Nat) : List Nat := (pairsInto i n).filterMap (endOf leaf n 5)

/-- The indices that take combines without a leaf of their own, beside index 0. -/
def joints (leaf : Nat → Bool) (n : Nat) : List Nat := (List.range n).filter (fun i => !leaf i && endOf leaf n 5 i == some i)

def tileLeaf (h : Half) (i : Nat) : Bool := decide (i ∈ m.tiles h)
def engBase (h : Half) : Nat := (m.engs h).headD 0
def engLeaf (h : Half) (i : Nat) : Bool := decide (m.engBase h + i ∈ m.engs h)

/-- The tiles that combine into a tile, in order: its tile tree, its engine tree, and the other half (04 R98). -/
def kids (key : Nat) : List Nat :=
  let h := Machine.tileHalf key
  let e := Machine.tileEng key
  let t := key % 8
  let base := m.engBase h
  (if e ∈ m.engs h then (kidsOf (m.tileLeaf h) 8 t).map (fun i => Machine.tileKey h e i) else [])
    ++ (if t = 0 ∧ base ≤ e then (kidsOf (m.engLeaf h) 20 (e - base)).map (fun i => Machine.tileKey h (base + i) 0) else [])
    ++ (if key = m.root ∧ m.engs m.home.other ≠ [] then [m.halfRoot m.home.other] else [])

/-- Every tile that holds windows of the stream: its slot tiles, tile 0 of each engine it uses, and the tiles in which its trees join
partials without a leaf (04 R98). -/
def windowTiles : List Nat :=
  m.slotTiles ++ ([Half.east, Half.west].flatMap (fun h =>
    (m.engs h).flatMap (fun e => (0 :: (joints (m.tileLeaf h) 8).filter (fun i => i != 0)).map (fun i => Machine.tileKey h e i))
      ++ (if m.engs h = [] then [] else (joints (m.engLeaf h) 20).map (fun i => Machine.tileKey h (m.engBase h + i) 0)))).filter
    (fun k => k ∉ m.slotTiles)

end ManifestCfg

end Sys2Proof

namespace Sys2Proof.Machine

/-- The Manifest of a stream. -/
def State.mfst (s : State) (sid : Nat) : Option ManifestCfg := (s.stream sid).cfg

/-- The entry of a rank map: address and job rank (05 R118). -/
def State.rankEntry (s : State) (h : Half) (m : ManifestCfg) (r : Nat) : Nat × Nat :=
  let bs := (s.quay h).readBytes (m.rankmapAddr.toNat + 8 * r) 6
  (field bs 0 4, field bs 4 2)

/-- The record that binds a stream (06 R151). -/
def State.collOf (s : State) (sid : Nat) : Option (Nat × CollSt) :=
  s.colls.find? (fun e => e.2.state != 0 && (bitsOf e.2.ctl.toNat 0 20 == sid
    || (bitOf e.2.ctl.toNat 25 && e.2.sidB.toNat == sid)) && (bitsOf e.2.ctl.toNat 28 4 ∈ [1, 2, 3, 10]))

/-- The kind of collective that a stream runs; a ring stream that no record binds runs as ALL_REDUCE (log entry 22). -/
def State.streamKind (s : State) (sid : Nat) : Nat :=
  match s.collOf sid with
  | some e => bitsOf e.2.ctl.toNat 28 4
  | none => 2

/-- Is the stream's ring a chain (06 R157)? -/
def State.isChain (s : State) (sid : Nat) (m : ManifestCfg) : Bool := s.streamKind sid == 1 || (!m.releaser && !m.parent)

/-- Has a chunk a ring input at this position (06 R156, R157)? -/
def State.ringInput (s : State) (sid : Nat) (m : ManifestCfg) (c : Nat) : Bool :=
  if m.ringN ≤ 1 then false
  else if s.isChain sid m then m.ringPos != 0
  else m.ringPos != (c + 1) % m.ringN

/-- Does this position end a chunk's way along the ring: its owner, the chain's root, or the only switch? -/
def State.isOwner (s : State) (sid : Nat) (m : ManifestCfg) (c : Nat) : Bool :=
  if m.ringN ≤ 1 then true
  else if s.isChain sid m then m.ringPos + 1 == m.ringN
  else m.ringPos == c % m.ringN

/-- Where a chunk's combined partial goes from here (06 R156 to R163). -/
inductive Role where
  | release
  | down
  | parent
deriving DecidableEq, Repr

/-- A switch that does not release sends its partial on: to the parent where it has one, else to DOWN_ADDR (05 R132). -/
def State.role (s : State) (sid : Nat) (m : ManifestCfg) (c : Nat) : Role :=
  if !s.isOwner sid m c then .down else if m.parent then .parent else if m.releaser then .release else .down

/-- Does the chunk's result come back here as result packets: by the gather pass, or from the parent (06 R159, R163)? -/
def State.expectsResult (s : State) (sid : Nat) (m : ManifestCfg) (c : Nat) : Bool :=
  match s.role sid m c with
  | .release => false
  | .parent => true
  | .down => m.releaser && s.streamKind sid == 2

/-- The inputs of a chunk by SRC_RANK: members, children, the ring (05 R123, R129). -/
def State.inputs (s : State) (sid : Nat) (m : ManifestCfg) (c : Nat) : List Nat :=
  List.range m.nMembers ++ rangeFrom 0xF0 m.children ++ (if s.ringInput sid m c then [0xF8] else [])

/-- The peers that a stream names (06 R168): ring neighbours, parent and children. -/
def State.peersOf (s : State) (m : ManifestCfg) : List U32 :=
  (if m.ringN > 1 then [m.upAddr] else []) ++ (if m.hasDown then [m.downAddr] else [])
    ++ (if m.parent then [m.parentAddr] else [])
    ++ (if m.children = 0 then [] else (s.groupAddrs m.mcastGroup.toNat).take m.children)

/-- The children's addresses: the entries of the stream's group (06 R163). -/
def State.childAddrs (s : State) (m : ManifestCfg) : List U32 :=
  if m.children = 0 then [] else (s.groupAddrs m.mcastGroup.toNat).take m.children

/-- The local members' addresses. -/
def State.memberAddrs (s : State) (m : ManifestCfg) : List U32 :=
  (List.range m.nMembers).map (fun r => BitVec.ofNat 32 (s.rankEntry (tileHalf (m.leafOf r)) m r).1)

/-- The endpoint consumers: the group's addresses, where CONSUMER names them (05 R133). -/
def State.consumers (s : State) (m : ManifestCfg) : List U32 :=
  if m.consumer % 2 = 1 then s.groupAddrs m.mcastGroup.toNat else []

/-- The half in which this switch consumes a packet addressed to it (09 R236, log entry 21): contributions at their leaf,
results at home, RESHARD data at the destination's stack. -/
def State.selfHalf (s : State) (h : Hdr) (here : Half) : Half :=
  match h.kind with
  | 1 => match s.mfst h.sid with
    | some m => if h.rank < m.nMembers then tileHalf (m.leafOf h.rank) else if h.rank < 0xF0 then here else m.home
    | none => here
  | 2 => match s.mfst h.sid with
    | some m => m.home
    | none => here
  | 5 => Half.ofNum (bitsOf h.param 40 1)
  | _ => here

end Sys2Proof.Machine
end

