-- ==== Sys2Proof/Machine/Switch.lean ====
section
/-! DEFINITION. The buffer of a half: pallets, packets, copies and their cells; packets that the switch makes (09, 10 R267
to R271). Readings: log entries 6, 23 and 65. -/

namespace Sys2Proof.Machine

/-! ## The free store (09 R255 to R260) -/

def palletsOf (cells : Nat) : Nat := (cells + 15) / 16

/-- The end of a list of pallets (09 R258, Table 9-4). -/
def noPallet : Nat := 0x3FFFF

/-- The indices in a half's free store. -/
def PalletSt.free (p : PalletSt) : Nat := if p.p6 then p.free6 else p.cache.length + p.count

/-- The offset in the half's Quay of place i of the ring (09 R257). -/
def PalletSt.entryAt (p : PalletSt) (i : Nat) : Nat := (p.pages.getD (i % 184320 / 1024) 0).toNat + 4 * (i % 1024)

/-- Is a page 4 KiB aligned and inside the half's Quay (09 Table 9-5)? -/
def pageOk (a : U64) : Bool := a.toNat % 4096 == 0 && decide (a.toNat < 2 ^ 33)

def PalletSt.pagesOk (p : PalletSt) : Bool := p.pages.all pageOk

/-- Are the pages of the 1,024 places from place i good? -/
def PalletSt.spanOk (p : PalletSt) (i : Nat) : Bool :=
  pageOk (p.pages.getD (i % 184320 / 1024) 0) && pageOk (p.pages.getD ((i + 1023) % 184320 / 1024) 0)

/-- Write indices at the places from i of the ring in the half's Quay. -/
def State.ringWrite (s : State) (h : Half) (i : Nat) (l : List Nat) : State :=
  let p := (s.half h).pool
  s.modQuay h (fun m => l.zipIdx.foldl (fun m e => m.writeBytes (p.entryAt (i + e.2)) (leBytes 4 e.1)) m)

/-- Set or clear the free-map bit of a pallet. -/
def palletBit (i : Nat) : BitVec 184320 := BitVec.ofNat 184320 (2 ^ i)

/-- A pallet manager's check has failed: it is counted, and the line raised (09 R259). -/
def State.palletFault (s : State) (h : Half) (k : Ctr) (n : Nat) : State :=
  if n = 0 then s else (s.count k h.num n).raiseLine h 40

/-- The indices of a free store with every pallet that repair has left in service: the link words of P6-compatible mode, each naming the
next (09 R257, R258). -/
def linkWords : List Nat → Tab U32
  | [] => []
  | [i] => [(i, BitVec.ofNat 32 noPallet)]
  | i :: j :: l => (i, BitVec.ofNat 32 j) :: linkWords (j :: l)

/-- Build the free store of a half: native, the lowest 4,096 indices in the cache and the rest in the ring (log entry 23). -/
def State.buildStore (s : State) (h : Half) : State :=
  let all := (List.range 184320).filter (fun i => decide (i ∉ Config.mapPallets h.num))
  let p := (s.half h).pool
  let map := BitVec.ofNat 184320 (all.foldl (fun m i => m + 2 ^ i) 0)
  let p := { p with built := true, map := map, desc := [], head := 0, freeLow := all.length }
  if p.p6 then
    s.modHalf h (fun x => { x with pool := { p with
      cache := [], count := 0, links := linkWords all, head6 := all.headD noPallet, free6 := all.length } })
  else
    (s.modHalf h (fun x => { x with pool := { p with
      cache := all.take 4096, count := all.length - 4096, links := [], head6 := noPallet, free6 := 0 } })).ringWrite h 0 (all.drop 4096)

/-- What a taking of indices gives: the indices, the numbers discarded as out of range and as not free, and the free store after it. -/
structure Taken where
  got : List Nat := []
  range : Nat := 0
  double : Nat := 0
  pool : PalletSt
deriving DecidableEq, Repr

/-- Take one free index if it passes the checks of Table 9-5: below 184,320, its free-map bit set. -/
def Taken.try (t : Taken) (i : Nat) : Taken :=
  if 184320 ≤ i then { t with range := t.range + 1 }
  else if t.pool.map.getLsbD i then
    { t with got := t.got ++ [i], pool := { t.pool with map := t.pool.map &&& ~~~(palletBit i) } }
  else { t with double := t.double + 1 }

/-- Native mode: take indices from the cache until there are n, discarding those that fail a check (09 R257, R259). -/
def takeNative (n : Nat) : List Nat → Taken → Taken
  | [], t => { t with pool := { t.pool with cache := [] } }
  | i :: l, t => if n ≤ t.got.length then { t with pool := { t.pool with cache := i :: l } } else takeNative n l (t.try i)

/-- The next pallet that a link word names: none where its reserved bits are not 0 or its index is out of range (09 R259). -/
def linkNext (w : U32) : Option Nat :=
  if 2 ^ 18 ≤ w.toNat then none else if w.toNat < 184320 ∨ w.toNat = noPallet then some w.toNat else none

/-- P6-compatible mode: take indices from the head of the list until there are n; a link word out of range ends the list (09 R258). -/
def takeP6 (n : Nat) : Nat → Taken → Taken
  | 0, t => t
  | fuel + 1, t =>
    let i := t.pool.head6
    if n ≤ t.got.length ∨ i = noPallet then t
    else
      let next := linkNext (Tab.get 0 t.pool.links i)
      let t := if next.isNone then { t with range := t.range + 1 } else t
      let t := t.try i
      takeP6 n fuel { t with pool := { t.pool with
        head6 := next.getD noPallet, links := Tab.erase t.pool.links i, free6 := t.pool.free6 - 1 } }

/-- Take n indices. -/
def PalletSt.take (p : PalletSt) (n : Nat) : Taken := if p.p6 then takeP6 n 184320 { pool := p } else takeNative n p.cache { pool := p }

/-- A store that could not give n indices: those that it gave go back to its front. -/
def Taken.undo (t : Taken) (p : PalletSt) : PalletSt := if p.p6 then p else { t.pool with map := p.map, cache := t.got ++ t.pool.cache }

/-- Note the lowest number of free pallets (09 Table 9-6). -/
def PalletSt.noteLow (p : PalletSt) : PalletSt := { p with freeLow := min p.freeLow p.free }

/-- Return one index to the store. -/
def PalletSt.put (p : PalletSt) (i : Nat) : PalletSt :=
  let p := { p with map := p.map ||| palletBit i }
  if p.p6 then { p with links := Tab.set p.links i (BitVec.ofNat 32 p.head6), head6 := i, free6 := p.free6 + 1 }
  else { p with cache := p.cache ++ [i] }

/-- A free cache of more than 3,072 writes its first 1,024 to the ring tail; with a bad page the write is skipped (09 R257, R259). -/
def State.spillCache (s : State) (h : Half) : State :=
  let p := (s.half h).pool
  if p.p6 || decide (p.cache.length ≤ 3072) then s
  else if !p.spanOk (p.head + p.count) then s.palletFault h .pageAlign 1
  else
    (s.ringWrite h (p.head + p.count) (p.cache.take 1024)).modHalf h (fun x => { x with pool := { p with
      cache := p.cache.drop 1024, count := p.count + 1024 } })

/-- Free a pallet; one whose free-map bit is set is not freed again (09 Table 9-5). -/
def State.freeIndex (s : State) (h : Half) (i : Nat) : State :=
  if (s.half h).pool.map.getLsbD i then s.palletFault h .doubleFree 1
  else (s.modHalf h (fun x => { x with pool := x.pool.put i })).spillCache h

/-! ## Descriptors (09 Table 9-4, R256) -/

/-- A descriptor: REFCNT 1, LAST, CELLS less 1, NEXT. -/
def descWord (last : Bool) (cells next : Nat) : U32 :=
  BitVec.ofNat 32 (2 ^ 24 + bitNat last * 2 ^ 23 + (cells - 1) % 16 * 2 ^ 18 + next)

/-- The descriptor of a pallet; a free one is at reset. -/
def PalletSt.descOf (p : PalletSt) (i : Nat) : Nat := (Tab.get (BitVec.ofNat 32 noPallet) p.desc i).toNat

def PalletSt.refs (p : PalletSt) (i : Nat) : Nat := p.descOf i / 2 ^ 24

/-- Chain the pallets of a packet of n cells by their descriptors. -/
def chainDescs : List Nat → Nat → Tab U32 → Tab U32
  | [], _, d => d
  | [i], n, d => Tab.set d i (descWord true n noPallet)
  | i :: j :: l, n, d => chainDescs (j :: l) (n - 16) (Tab.set d i (descWord false 16 j))

/-- One more reference to each of some pallets. -/
def PalletSt.addRefs (p : PalletSt) (is : List Nat) : PalletSt :=
  { p with desc := is.foldl (fun d i => Tab.upd (BitVec.ofNat 32 noPallet) d i (fun w => w + 0x1000000)) p.desc }

/-- One reference less to a pallet, which is freed with its last (09 R256, Table 9-5). -/
def State.dropRef (s : State) (h : Half) (i : Nat) : State :=
  let p := (s.half h).pool
  match p.refs i with
  | 0 => s.palletFault h .refUnder 1
  | 1 => (s.modHalf h (fun x => { x with pool := { p with desc := Tab.erase p.desc i } })).freeIndex h i
  | _ => s.modHalf h (fun x => { x with pool := { p with desc := Tab.upd 0 p.desc i (fun w => w - 0x1000000) } })

def State.dropRefs (s : State) (h : Half) (is : List Nat) : State := is.foldl (fun s i => s.dropRef h i) s

/-- Is a descriptor that an output reads sound (09 Table 9-5)? -/
def descOk (d : Nat) : Bool :=
  let next := d % 2 ^ 18
  decide (next < 184320) || (bitOf d 23 && next == noPallet)

/-! ## Packets of a half -/

def HalfSt.pkt? (x : HalfSt) (pid : Nat) : Option Pkt := x.pkts.find? (fun p => p.id == pid)
def HalfSt.modPkt (x : HalfSt) (pid : Nat) (f : Pkt → Pkt) : HalfSt :=
  { x with pkts := x.pkts.map (fun p => if p.id = pid then f p else p) }
def HalfSt.delPkt (x : HalfSt) (pid : Nat) : HalfSt := { x with pkts := x.pkts.filter (fun p => p.id != pid) }
def State.modPkt (s : State) (h : Half) (pid : Nat) (f : Pkt → Pkt) : State := s.modHalf h (fun x => x.modPkt pid f)

def Pkt.hdr (p : Pkt) : Hdr := Hdr.ofBytes (p.payload.take 64)
def Pkt.tc (p : Pkt) : Nat := p.hdr.tc (cwVc p.cw)

/-- Does a packet wait for its consumer in the switch? -/
def Pkt.toSelf (p : Pkt) : Bool := p.copies.any (fun c => c.dest == Dest.self)

/-- The partitions of a berth's ingress and output (10 R266, R279). -/
def HalfSt.parts (x : HalfSt) (b : Nat) : List PartitionE := Tab.get [] x.tm.partitions b

/-- RESERVE of the credit entry of a sub-port and VC (10 Table 10-2). -/
def HalfSt.entryReserve (x : HalfSt) (key : Nat) : Nat := bitsOf (Tab.get 0 x.tm.credits key).toNat 0 16

/-- The credit entries of a port and VC: its own; of an electrical berth, those of its attach port's four sub-ports (log entry 21). -/
def creditEntries (key : Nat) : List Nat :=
  let port := key % 4096 / 8
  if port < 384 then [key % 4096] else (berthSubs (256 + port % 2)).map (fun sub => creditKey sub (key % 8))

/-- The key of the reservation that a packet of a job draws on: its partition's, on a partitioned berth. -/
def HalfSt.resKey (x : HalfSt) (b : Option Nat) (key job : Nat) : Nat :=
  match b.bind (fun b => (x.parts b).find? (fun p => p.job == job)) with
  | some p => key + 4096 * (p.part + 1)
  | none => key

/-- The berth whose port a key names. -/
def keyBerth (h : Half) (key : Nat) : Nat :=
  let port := key % 4096 / 8
  if port < 384 then h.num * 128 + port else 256 + 2 * h.num + port % 2

/-- RESERVE of a key, in pallets: a partition's own; that of an attach port's sub-port is its berth's (log entry 21). -/
def HalfSt.reserve (x : HalfSt) (h : Half) (key : Nat) : Nat :=
  if key < 4096 then
    if 128 ≤ key / 8 ∧ facesBerth (key / 8) = true then 0 else ((creditEntries key).map (fun k => x.entryReserve k)).sum
  else (((x.parts (keyBerth h key)).find? (fun p => p.part + 1 == key / 4096)).map (fun p => p.reserve.getD (key % 8) 0)).getD 0

def HalfSt.sharedGrant (x : HalfSt) (key : Nat) : Bool :=
  key < 4096 && (creditEntries key).any (fun k => bitOf (Tab.get 0 x.tm.credits k).toNat 31)

/-- SHARED_MAX of a key, in pallets. -/
def HalfSt.sharedMax (x : HalfSt) (key : Nat) : Nat :=
  ((creditEntries key).map (fun k => bitsOf (Tab.get 0 x.tm.credits k).toNat 16 15)).sum

/-- The pallets that back a key: its reservation, and after a swap that lowered it the old one for as long as R271 keeps it (10 R271). -/
def HalfSt.backing (x : HalfSt) (h : Half) (key : Nat) : Nat := max (x.reserve h key) (Tab.get 0 x.lowered key)

/-- The keys of a half that reserve pallets: of the sub-ports, of the electrical berths and of partitions. -/
def HalfSt.resKeys (x : HalfSt) : List Nat :=
  let subs := x.tm.credits.keys.map (fun k =>
    if 128 ≤ k / 8 ∧ facesBerth (k / 8) = true then creditKey (if k / 8 < 128 + 8 * 19 then 385 else 384) (k % 8) else k)
  let parts := x.tm.partitions.keys.flatMap (fun b => (rangeFrom 2 6).map (fun vc => creditKey (berthPort b) vc))
  (subs ++ parts ++ x.lowered.keys).foldl (fun l k => insertNew k l) []

/-- The pallets of the reserved region of a port and VC: its reservation or, if they back more, those of its partitions. -/
def HalfSt.reservedFor (x : HalfSt) (h : Half) (key : Nat) : Nat :=
  let ps := (x.parts (keyBerth h key)).map (fun p => x.backing h (key + 4096 * (p.part + 1)))
  max (x.backing h key) (if key < 4096 then ps.sum else 0)

/-- Free pallets of the shared region (09 R248). -/
def HalfSt.sharedFree (x : HalfSt) (h : Half) : Nat :=
  184320 - ((x.resKeys.filter (fun k => decide (k < 4096 ∧ 2 ≤ k % 8))).map (fun k => x.reservedFor h k)).sum
    - (x.pkts.map (fun p => p.shared)).sum

/-- The reserved pallets that a packet may take; a copy that has crossed the bridge for a mirror takes none (09 R248, R253). -/
def HalfSt.resRoom (x : HalfSt) (h : Half) (p : Pkt) : Nat :=
  if cwMirrored p.cw && decide (288 ≤ p.input) then 0
  else min (palletsOf p.cells) (x.backing h p.key - Tab.get 0 x.resUsed p.key)

/-- What an attempt to allocate gives. -/
inductive AllocRes where
  | ok
  | noRoom
  | noCache
deriving DecidableEq, Repr

/-- Give a packet its pallets: from its reservation while any remain, then from the shared region (09 R248), chained by their
descriptors, each with the writer's reference (09 R256). -/
def State.alloc (s : State) (h : Half) (p : Pkt) : State × AllocRes :=
  let x := s.half h
  let n := palletsOf p.cells
  let fromRes := x.resRoom h p
  if x.sharedFree h < n - fromRes then (s, .noRoom)
  else
    let t := x.pool.take n
    let s := (s.palletFault h .palletRange t.range).palletFault h .doubleAlloc t.double
    if t.got.length < n then (s.modHalf h (fun x => { x with pool := t.undo x.pool }), .noCache)
    else
      let pool := { t.pool with desc := chainDescs t.got p.cells t.pool.desc }
      (s.modHalf h (fun x => { x with pool := pool.noteLow, resUsed := Tab.upd 0 x.resUsed p.key (fun u => u + fromRes) }.modPkt p.id
        (fun q => { q with pallets := t.got, shared := n - fromRes, writer := true, waiting := false })), .ok)

/-- The pallets that a copy still holds references to. -/
def Pkt.heldBy (p : Pkt) (c : Copy) : List Nat := p.pallets.drop ((p.cells - c.left) / 16 - (palletsOf p.cells - p.pallets.length))

/-- The pallets at the front of a packet that no reference holds leave it: their cells return as credit, those of its reservation to be
granted again (09 R256, 10 R267). A packet without pallets is gone. -/
def HalfSt.reap (x : HalfSt) (pid : Nat) : HalfSt :=
  match x.pkt? pid with
  | none => x
  | some p =>
    let k := (p.pallets.takeWhile (fun i => x.pool.refs i == 0)).length
    let res := min k (p.pallets.length - p.shared)
    let x := { x.credited p.credit (16 * res) (16 * k) with resUsed := Tab.upd 0 x.resUsed p.key (fun u => u - res) }
    if p.pallets.length ≤ k then x.delPkt pid
    else x.modPkt pid (fun q => { q with pallets := q.pallets.drop k, shared := q.shared - (k - res) })

/-- Drop a packet: release all the references it holds. One that has no pallets returns its credit as though it had been sent on. -/
def State.dropPkt (s : State) (h : Half) (pid : Nat) : State :=
  match (s.half h).pkt? pid with
  | none => s
  | some p =>
    if p.pallets.isEmpty then
      s.modHalf h (fun x => (x.credited p.credit (16 * x.resRoom h p) (chargedCredits p.cells)).delPkt pid)
    else
      let s := p.copies.foldl (fun s c => s.dropRefs h (p.heldBy c)) s
      let s := if p.writer then s.dropRefs h p.pallets else s
      s.modHalf h (fun x => (x.modPkt pid (fun q => { q with copies := [], pendingCopies := [], writer := false })).reap pid)

/-! ## Copies (09 R256) -/

/-- Enqueue the pending copies that leave every count at 255 or below, each with a reference to every pallet (09 R256), noting those
for berth outputs for the throttles (10 R275). -/
def State.enqueuePending (s : State) (h : Half) (pid : Nat) : State :=
  match (s.half h).pkt? pid with
  | none => s
  | some p =>
    let room := if p.pallets.isEmpty then 0 else 255 - (p.pallets.map (fun i => (s.half h).pool.refs i)).foldl max 0
    let now := p.pendingCopies.take room
    let marks := (now.filter (fun c => c.mirror.isNone && facesBerth c.out)).map (fun c =>
      (c.out, c.vc / 2, BitVec.ofNat 32 p.hdr.src, BitVec.ofNat 8 p.hdr.job, p.cells))
    s.modHalf h (fun x => { x.modPkt pid (fun q => { q with
        copies := q.copies ++ now, pendingCopies := q.pendingCopies.drop room }) with
      enq := x.enq ++ marks
      pool := now.foldl (fun q _ => q.addRefs p.pallets) x.pool })

/-- After a packet's copies have moved: enqueue what waits; the writer's reference goes once the packet is whole and its last copy has
been enqueued; pallets that no reference holds are free (09 R256). A packet that waits for its pallets goes with its last copy. -/
def State.settle (s : State) (h : Half) (pid : Nat) : State :=
  let s := s.enqueuePending h pid
  match (s.half h).pkt? pid with
  | some p =>
    if p.pallets.isEmpty then (if p.copies.isEmpty && p.pendingCopies.isEmpty && p.held.isNone then s.dropPkt h pid else s)
    else
      (if p.writer && p.whole && p.pendingCopies.isEmpty && p.held.isNone then
        (s.modPkt h pid (fun q => { q with writer := false })).dropRefs h p.pallets
      else s).modHalf h (fun x => x.reap pid)
  | none => s

/-- Drop one copy of a packet, with its references. -/
def State.dropCopy (s : State) (h : Half) (pid order : Nat) : State :=
  match (s.half h).pkt? pid with
  | none => s
  | some p =>
    let s := (p.copies.filter (fun c => c.order == order)).foldl (fun s c => s.dropRefs h (p.heldBy c)) s
    (s.modPkt h pid (fun q => { q with copies := q.copies.filter (fun c => c.order != order) })).settle h pid

/-- Drop a copy that is not enqueued yet. -/
def State.dropPending (s : State) (h : Half) (pid order : Nat) : State :=
  (s.modPkt h pid (fun q => { q with pendingCopies := q.pendingCopies.filter (fun c => c.order != order) })).settle h pid

/-- The engine sub-port of a logical tile (09 Table 9-1). -/
def State.enginePort (s : State) (key : Nat) : Nat := 128 + 8 * s.physEng (tileHalf key) (tileEng key) + key % 8

/-- The Hold stack of an address within its half (07 R171). -/
def holdStack (addr : Nat) : Nat := bitsOf addr 37 3

/-- The engine sub-port by which a packet for the switch itself leaves the crossbar (09 R236): a contribution by its tile's, a result by
that of its stream's mover, a RESHARD packet by its stack's. -/
def State.selfPort (s : State) (h : Half) (hd : Hdr) : Nat :=
  let x := s.half h
  match hd.kind with
  | 1 => ((s.stream hd.sid).cfg.map (fun m => s.enginePort (m.tileOf hd.rank))).getD x.ctrlPort
  | 2 => x.streamPort hd.sid
  | 5 => x.stackPort (holdStack (bitsOf hd.param 0 41))
  | _ => x.ctrlPort

/-- Make copies for targets; a copy whose other half the bridge cannot reach, and a target that is none, is counted as
NO_ROUTE against the unit given, and a mirror's as MIRROR_DROP (09 R254). One for a berth whose partitions have none for the job is dropped
as JOB_DENIED of that berth, whose credit it could never spend (10 R279; log entry 103). -/
def State.addCopies (s : State) (h : Half) (pid : Nat) (hd : Hdr) (unit : Option Nat) (consumer : Half)
    (mirror : Option Nat) : List (Option Target) → State
  | [] => s
  | t :: ts =>
    let shared := t.bind (fun t => match t.dest with
      | .berth b => if ((s.half (berthHalf b)).parts b).any (fun p => p.job == hd.job) || ((s.half (berthHalf b)).parts b).isEmpty then none else some b
      | _ => none)
    let lost := fun (s : State) => match unit, mirror with
      | _, some n => s.bump .mirrorDrop (h.num * 8 + n)
      | some b, none => s.bump .noRoute b
      | none, none => s
    let s1 :=
      match t, shared with
      | none, _ => lost s
      | some _, some b => s.bump .jobDenied b
      | some t, none =>
        let out := if t.dest = Dest.self ∧ consumer = h then some (s.selfPort h hd)
          else s.outPort h t.dest hd.spreadKey s.active.salt consumer
        match out with
        | none => lost s
        | some o => (State.fresh s).2.modPkt h pid (fun p => { p with
            pendingCopies := p.pendingCopies ++ [(⟨o, t.dest, t.vc, t.bypass, mirror, s.nextId, p.cells⟩ : Copy)] })
    s1.addCopies h pid hd unit consumer mirror ts

/-! ## Room (09 R249) -/

/-- A copy that may be pushed out (09 R249): of a TC3 packet, or a mirrored one, of a packet that is whole and holds shared pallets, and
whose first cell has not begun to leave. -/
def Pkt.victim (p : Pkt) (c : Copy) : Bool :=
  (p.tc == 3 || cwMirrored p.cw || c.mirror.isSome) && decide (0 < p.shared) && p.whole && c.left == p.cells

/-- A victim's rank: mirrored first, then red, yellow, green, then the fullest queue, the lower output, VC 6 first, the
copy enqueued last. Lower lists come first. -/
def HalfSt.victimRank (x : HalfSt) (p : Pkt) (c : Copy) : List Nat :=
  let held := ((x.pkts.filter (fun q => q.copies.any (fun d => d.out == c.out && d.vc == c.vc))).map
    (fun q => q.pallets.length)).sum
  [if cwMirrored p.cw || c.mirror.isSome then 0 else 1, 3 - cwColour p.cw, 200000 - held, c.out, c.vc, 2 ^ 64 - c.order]

/-- Lexicographic order of ranks. -/
def rankLt : List Nat → List Nat → Bool
  | [], _ => false
  | _ :: _, [] => false
  | a :: l, b :: m => if a < b then true else if b < a then false else rankLt l m

/-- The copies that may be pushed out, each with its packet. -/
def HalfSt.victims (x : HalfSt) : List (Pkt × Copy) :=
  x.pkts.flatMap (fun p => (p.copies.filter (fun c => p.victim c)).map
    (fun c => (p, c)))

/-- The copy that is pushed out first. -/
def HalfSt.firstVictim (x : HalfSt) : Option (Pkt × Copy) :=
  x.victims.foldl (fun b v => match b with
    | none => some v
    | some w => if rankLt (x.victimRank v.1 v.2) (x.victimRank w.1 w.2) then some v else b) none

/-- Push out one copy, if there is one to push out. -/
def State.pushOut (s : State) (h : Half) : Option State :=
  (s.half h).firstVictim.map (fun v => (s.bump .pushedOut (subVcIx h v.2.out v.2.vc)).dropCopy h v.1.id v.2.order)

/-- Does a packet come by an internal input, which waits for room (09 R249)? -/
def Pkt.internal (p : Pkt) : Bool := decide (128 ≤ p.input)

/-- Give a packet its pallets, pushing out, waiting or dropping as R249 says; at most `fuel` copies are pushed out. -/
def State.allocate (h : Half) (pid : Nat) : Nat → State → State
  | fuel, s =>
    match (s.half h).pkt? pid with
    | none => s
    | some p =>
      if !p.pallets.isEmpty then s
      else
        match s.alloc h p with
        | (t, .ok) => t
        | (t, .noCache) => t.modPkt h pid (fun q => { q with waiting := true })
        | (t, .noRoom) =>
          let ix := subVcIx h p.input (cwVc p.cw)
          let wait := t.modPkt h pid (fun q => { q with waiting := true })
          if p.tc = 3 then (if p.internal then wait else (t.bump .tailDrop ix).dropPkt h pid)
          else
            match fuel, t.pushOut h with
            | fuel + 1, some s1 => State.allocate h pid fuel s1
            | _, _ => if p.internal then wait else (t.bump .overCredit ix).dropPkt h pid

/-- Allocate with every copy of the half as a possible victim. -/
def State.allocatePkt (s : State) (h : Half) (pid : Nat) : State := State.allocate h pid (s.half h).victims.length s

/-! ## Mirroring (09 R253, R254) -/

/-- Does a session mirror a packet that enters or leaves by a berth? -/
def MirrorSt.takes (m : MirrorSt) (p : Pkt) (berth : Option Nat) (egress : Bool) : Bool :=
  (m.dir.getLsbD (if egress then 1 else 0)) &&
    (match m.source.toNat with
    | 1 => berth == some m.key.toNat
    | 2 => (p.hdr.kind == 1 || p.hdr.kind == 2) && p.hdr.sid == m.key.toNat && p.hdr.job == m.job.toNat
    | 3 => p.hdr.src == m.key.toNat && p.hdr.flow == m.flow.toNat
    | _ => false)

/-- The pallets' worth of references that a session holds. -/
def State.mirrorHeld (s : State) (h : Half) (n : Nat) : Nat :=
  ((s.half h).pkts.map (fun p => palletsOf p.cells * (p.copies ++ p.pendingCopies).countP (fun c => c.mirror == some n))).sum

/-- Does a session mirror a packet that comes by a berth and leaves by another? -/
def HalfSt.mirrored (x : HalfSt) (p : Pkt) (out : Nat) : Bool :=
  x.mirrors.any (fun e => e.2.takes p p.origin false || e.2.takes p (some out) true)

/-- Has the analysis berth room for a copy: it is up, and its credit covers the copies that wait there and this one (log entry 97)? -/
def State.mirrorRoom (s : State) (b vc cells : Nat) : Bool :=
  let y := s.berth b
  let waiting := [s.east, s.west].flatMap (fun (x : HalfSt) => x.pkts.flatMap (fun p =>
    (p.copies.filter (fun c => c.mirror.isSome && c.dest == Dest.berth b)).map (fun _ => chargedCredits p.cells)))
  y.up && (y.eth || decide (waiting.sum + chargedCredits cells ≤ Tab.get 0 y.credit vc))

/-- Make the mirrored copies of a packet. -/
def State.mirrorPkt (s : State) (h : Half) (pid : Nat) (berth : Option Nat) (egress : Bool) : State :=
  match (s.half h).pkt? pid with
  | none => s
  | some p =>
    if cwMirrored p.cw then s
    else (s.half h).mirrors.foldl (fun s e =>
      if e.2.takes p berth egress then
        let b := e.2.analysis
        if 1024 < s.mirrorHeld h e.1 + palletsOf p.cells ∨ s.mirrorRoom b e.2.vc p.cells = false then s.bump .mirrorDrop (h.num * 8 + e.1)
        else (s.addCopies h pid p.hdr none h (some e.1) [some ⟨.berth b, e.2.vc, false⟩]).enqueuePending h pid
      else s) s

/-! ## Packets that the switch makes -/

/-- Put a packet of the switch's own, or of the host port, into the buffer of a half, from an input sub-port, and enqueue its copies (08
R213, R227, 09 R251). Its BIRTH and EPOCH are this tide's. One that is held waits in its pallets for the start cell of its run, and has its
copies when that has come (06 R154). -/
def State.injectAs (s : State) (h : Half) (input : Nat) (attach : Bool) (held : Option (Nat × Byte)) (hd : Hdr) (body : List Byte)
    (resend : Bool) : State :=
  let hd := { hd with birth := s.now.toNat % 4096 }
  let payload := hd.bytes ++ padTo (64 * (hd.cells - 1)) body
  let vc := 2 * hd.tc 6
  let (pid, s) := s.fresh
  let crc := crc32 payload
  let p : Pkt := {
    id := pid, input := input, attach := attach, cw := mkCw 0 vc s.chart.epoch 0 resend false 0 false, payload := payload,
    cells := hd.cells, crc := crc, crcIn := crc, whole := true, crcOk := true, birthIn := hd.birth, held := held,
    key := creditKey input vc }
  let c := s.active
  let s := s.modHalf h (fun x => { x with pkts := x.pkts ++ [p] })
  if held.isSome then (s.allocatePkt h pid).settle h pid
  else
    let s := s.addCopies h pid hd none (s.selfHalf hd h) none
      (s.targets c hd.spreadKey hd.mcast hd.dst hd.job (hd.tc 6) 0 false none)
    match (s.half h).pkt? pid with
    | none => s
    | some q =>
      if q.pendingCopies.isEmpty then s.modHalf h (fun x => x.delPkt pid)
      else (s.allocatePkt h pid).settle h pid

/-- A held packet starts: BIRTH and EPOCH are now this tide's, and it gets its copies (06 R154, 08 R213, R227; log
entry 107). -/
def State.unhold (s : State) (h : Half) (pid : Nat) : State :=
  match (s.half h).pkt? pid with
  | none => s
  | some p =>
    let birth := s.now.toNat % 4096
    let payload := putBirth p.payload 30 birth
    let crc := crc32 payload
    let s := s.modPkt h pid (fun q => { q with
      held := none, payload := payload, crc := crc, crcIn := crc, birthIn := birth, cw := cwWithEpoch q.cw s.chart.epoch })
    let hd := p.hdr
    (s.addCopies h pid hd none (s.selfHalf hd h) none
      (s.targets s.active hd.spreadKey hd.mcast hd.dst hd.job (hd.tc 6) 0 false none)).settle h pid

/-- A packet of the switch's own that waits for nothing. -/
def State.inject (s : State) (h : Half) (input : Nat) (hd : Hdr) (body : List Byte) (resend : Bool) : State :=
  s.injectAs h input false none hd body resend

/-! ## Cells of a copy -/

/-- The payload and the CRC-32 with which a copy leaves: a mirrored one those that the P9 received (09 R253). -/
def Pkt.payloadFor (p : Pkt) (c : Copy) : List Byte := if c.mirror.isSome then putBirth p.payload 30 p.birthIn else p.payload
def Pkt.crcFor (p : Pkt) (c : Copy) : U32 := if c.mirror.isSome then p.crcIn else p.crc

/-- The cell word of a copy's head: as it came, but for VC, BYPASS and a mirror's MIRRORED (08 R207). -/
def Pkt.headWord (p : Pkt) (c : Copy) : U32 := cwHop (if c.mirror.isSome then cwPut p.cw 14 1 1 else p.cw) c.vc c.bypass

/-- The 68 bytes of cell i of a copy, SEQ and WCRC of the head left to the lane side (08 R206, R209, R210). -/
def Pkt.cellBytes (p : Pkt) (c : Copy) (i : Nat) : List Byte :=
  let body := ((p.payloadFor c).drop (64 * i)).take 64
  if i + 1 = p.cells then leBytes 4 (p.crcFor c).toNat ++ padTo 64 body
  else
    let w := if i = 0 then p.headWord c else mkCw (if i ≤ p.hdr.body then 1 else 2) c.vc (cwEpoch p.cw) 0 false false 0 false
    leBytes 4 w.toNat ++ padTo 64 body

/-- Put a cell on the lane side of a berth; a berth in the safe state drops and counts it, a berth that is down drops it. -/
def State.toBerth (s : State) (b : Nat) (bytes : List Byte) (last : Bool) : State :=
  if s.berthSafe b then s.bwDrop b 1
  else if !(s.berth b).up then s
  else s.modBerth b (fun x => { x with queue := x.queue ++ [⟨0, bytes, last⟩] })

/-- A whole packet leaves on a berth in Ethernet mode as a frame; only BULK does (11 R306). -/
def State.toEthernet (s : State) (b : Nat) (p : Pkt) : State :=
  if p.hdr.kind ≠ 6 then s.bump .noRoute b
  else s.modBerth b (fun x => { x with frames := x.frames ++
    [⟨x.peerMac, x.ownMac, x.etherType, p.payload.take (64 * (1 + p.hdr.body)), true⟩] })

/-- Is there a receive slot for a function (11 R310)? -/
def State.hostRoom (s : State) (f : Nat) : Bool :=
  match Tab.get? s.port.rings f with
  | some r => r.running && decide ((r.rxProd - r.rxCons).toNat < 2 ^ r.log2)
  | none => false

/-- Write a packet into the function's next receive slot, trailer last; a bad CRC-32 is dropped (11 R310, R311). -/
def State.toHost (s : State) (f : Nat) (p : Pkt) : State :=
  if !p.crcOk then s.bump .inCrcBad (subIx .west (128 + 8 * 17 + 4))
  else
    let slot := padTo 4288 p.payload ++ leBytes 2 p.cells ++ [1] ++ List.replicate 61 0
    s.modPort (fun q => { q with rings := Tab.set q.rings f (match Tab.get? q.rings f with
      | some r => { r with rxWritten := r.rxWritten ++ [slot], rxProd := r.rxProd + 1 }
      | none => { log2 := 4, bases := [], running := false }) })

/-- Change the packet that a copy of the other half feeds, where it waits or in the buffer. -/
def HalfSt.modFed (x : HalfSt) (order : Nat) (f : Pkt → Pkt) : HalfSt :=
  let g := fun (p : Pkt) => if p.feeder = some order then f p else p
  { x with bridgeIn := x.bridgeIn.map (fun e => (e.1, g e.2)), pkts := x.pkts.map g }

/-- Cell i of a stored packet crosses the bridge: its head waits at the other half's input, and the rest is written behind it as it
arrives (09 R240, R241). -/
def State.toBridge (s : State) (h : Half) (p : Pkt) (c : Copy) (i : Nat) : State :=
  let bs := padTo 64 (((p.payloadFor c).drop (64 * i)).take 64)
  if i = 0 then
    let (n, s) := s.fresh
    let q : Pkt := {
      id := n, input := c.out, origin := p.origin, cw := p.headWord c, payload := bs, cells := p.cells, crc := p.crcFor c, crcIn := p.crcFor c,
      birthIn := p.birthIn, feeder := some c.order, key := creditKey c.out c.vc,
      pendingCopies := [{ c with out := 0, mirror := none, left := p.cells }] }
    s.modHalf h.other (fun x => { x with bridgeIn := x.bridgeIn ++ [(c.out - 288, q)] })
  else s.modHalf h.other (fun x => x.modFed c.order (fun q => { q with payload := q.payload ++ bs }))

/-- Cell i of a copy leaves its output. -/
def State.emitCell (s : State) (h : Half) (p : Pkt) (c : Copy) (i : Nat) : State :=
  let last := i + 1 == p.cells
  if 288 ≤ c.out then s.toBridge h p c i
  else
    match c.dest with
    | .berth b =>
      if (s.berth b).eth then (if last then s.toEthernet b p else s)
      else s.toBerth b (p.cellBytes c i) last
    | .host f => if last then s.toHost f p else s
    | .self => s

/-- The 68 bytes of a control cell, SEQ and WCRC left to the lane side (08 R206, R215). -/
def CtrlOut.cell (c : CtrlOut) (vc : Nat) (epoch byp : Bool) : List Byte :=
  leBytes 4 (mkCw 3 vc epoch 0 false false 0 byp).toNat ++ c.bytes

/-- Queue a link-local control cell on a berth that is up (08 R215). -/
def State.sendLocal (s : State) (b job : Nat) (body : CtrlBody) : State :=
  if (s.berth b).up && !(s.berth b).eth && !s.berthSafe b then
    s.modBerth b (fun x => { x with localQ := x.localQ ++
      [(CtrlOut.mk 0 s.active.own (BitVec.ofNat 8 job) 0 body).cell 0 false false] })
  else s

end Sys2Proof.Machine
end

