-- ==== Sys2Proof/Machine/Traffic.lean ====
section
/-! DEFINITION. Traffic management: policing, quanta, credits and throttles, and the commands THROTTLE and CREDIT (10). -/

namespace Sys2Proof.Machine

/-! ## Policing (10 R272 to R274) -/

/-- Fields of a policer entry (10 Table 10-3). -/
def polPbs (x : BitVec 128) : Nat := bitsOf x.toNat 96 32
def polCbs (x : BitVec 128) : Nat := bitsOf x.toNat 64 32
def polPir (x : BitVec 128) : Nat := bitsOf x.toNat 44 20
def polCir (x : BitVec 128) : Nat := bitsOf x.toNat 24 20
def polIngress (x : BitVec 128) : Nat := bitsOf x.toNat 16 8
def polJob (x : BitVec 128) : Nat := bitsOf x.toNat 10 6
def polRed (x : BitVec 128) : Nat := bitsOf x.toNat 6 2
def polYel (x : BitVec 128) : Nat := bitsOf x.toNat 4 2
def polValid (x : BitVec 128) : Bool := bitOf x.toNat 0

/-- INGRESS of a berth (10 Table 10-3). -/
def polCode (b : Nat) : Nat := if b < 256 then b % 128 else 0x80 + b % 2

/-- The output entry of a sub-port that faces a berth (10 Table 10-1). -/
def HalfSt.outEntry (x : HalfSt) (sub : Nat) : Nat := (Tab.get 0x220044004400 x.tm.outputs sub).toNat

/-- OVH of a sub-port: of one that faces a berth its entry's, of any other 0 (10 R262, R263). -/
def HalfSt.ovh (x : HalfSt) (sub : Nat) : Nat := if facesBerth sub then bitsOf (x.outEntry sub) 58 6 else 0

/-- police (10 R273): the colour and the buckets left. -/
def police (b : Nat × Nat) (len : Nat) : Nat × Nat × Nat :=
  if b.2 < len then (2, b)
  else if b.1 < len then (1, b.1, b.2 - len)
  else (0, b.1 - len, b.2 - len)

/-- Colour a packet that arrives from an endpoint; answers the colour and whether TC3 drops it (10 R272, R274). The counters
take whole units of a packet (log entry 102). -/
def State.policePkt (s : State) (h : Half) (sub b job tc cells : Nat) : State × Nat × Bool :=
  let x := s.half h
  match x.tm.policers.find? (fun e => polValid e.2 && polIngress e.2 == polCode b && polJob e.2 == job) with
  | none => (s, 0, false)
  | some (i, e) =>
    let len := cells * 68 + x.ovh sub
    let (col, bk) := police (Tab.get (polCbs e, polPbs e) x.buckets i) len
    let s := s.modHalf h (fun x => { x with buckets := Tab.set x.buckets i bk })
    let k := if col = 0 then Ctr.polGreen else if col = 1 then .polYellow else .polRed
    let s := s.count k (h.num * 4096 + i) (len / 16)
    let act := if col = 1 then polYel e else if col = 2 then polRed e else 0
    if tc = 3 ∧ act = 1 then (s.bump .policeDrop (h.num * 4096 + i), col, true) else (s, col, false)

/-- Step 5: refill and clamp the buckets of the active set; a policer made VALID starts full (10 R273). -/
def HalfSt.refill (x : HalfSt) : HalfSt :=
  { x with buckets := (x.tm.policers.filter (fun e => polValid e.2)).map (fun e =>
      match Tab.get? x.buckets e.1 with
      | some b => (e.1, min (b.1 + 16 * polCir e.2) (polCbs e.2), min (b.2 + 16 * polPir e.2) (polPbs e.2))
      | none => (e.1, polCbs e.2, polPbs e.2)) }

/-! ## Quanta (10 R263 to R266) -/

/-- The quantum of an output and class: a berth output's from its entry, any other's fixed (10 R263). -/
def HalfSt.quantum (x : HalfSt) (out cls : Nat) : Nat :=
  if facesBerth out then bitsOf (x.outEntry out) (16 * (cls - 1)) 16
  else if cls = 3 then 8704 else 17408

/-- The keys of the deficit tables: an output's class, and a partition of it. -/
def defKey (out cls : Nat) : Nat := out * 4 + cls
def partDefKey (out cls part : Nat) : Nat := 65536 + (out * 4 + cls) * 8 + part

/-- Does the half hold a packet of a class for an output? -/
def HalfSt.holds (x : HalfSt) (out cls : Nat) : Bool := x.pkts.any (fun p => p.copies.any (fun c => c.out == out && c.vc / 2 == cls))

/-- The partition of a packet at an output that faces a partitioned berth (10 R266). -/
def HalfSt.partOfPkt (x : HalfSt) (d : Dest) (job : Nat) : Nat :=
  match d with
  | .berth b => (((x.parts b).find? (fun e => e.job == job)).map (fun e => e.part)).getD 0
  | _ => 0

/-- Does the half hold a packet of a class and partition for an output? -/
def HalfSt.holdsPart (x : HalfSt) (out cls part : Nat) : Bool :=
  x.pkts.any (fun p => p.copies.any (fun c => c.out == out && c.vc / 2 == cls && x.partOfPkt c.dest p.hdr.job == part))

/-- The partitions at an output of a half: those of the berth that it faces (10 R266). -/
def HalfSt.outParts (x : HalfSt) (h : Half) (out : Nat) : List PartitionE := ((inputBerth h out).map (fun b => x.parts b)).getD []

/-- PQUANT of a partition at an output (10 R266). -/
def HalfSt.pquant (x : HalfSt) (h : Half) (out part : Nat) : Nat :=
  (((x.outParts h out).find? (fun p => p.part == part)).map (fun p => p.quant)).getD 4620

/-- Step 5: clamp each deficit, of a class and of a partition, to the new quantum, and clear that of one that holds no packet (10 R265,
R266). -/
def HalfSt.refreshQuanta (x : HalfSt) (h : Half) : HalfSt :=
  { x with deficits := x.deficits.map (fun e =>
      if e.1 < 65536 then
        (e.1, if x.holds (e.1 / 4) (e.1 % 4) then min e.2 (Int.ofNat (x.quantum (e.1 / 4) (e.1 % 4))) else 0)
      else
        let k := (e.1 - 65536) / 8
        let part := (e.1 - 65536) % 8
        (e.1, if x.holdsPart (k / 4) (k % 4) part then min e.2 (Int.ofNat (x.pquant h (k / 4) part)) else 0)) }

/-! ## Credits (10 R267 to R271, R279) -/

/-- The cells of a reservation that a key may grant at step 6 before any shared extra: the whole reservation where nothing has been
granted since the berth came up, and otherwise the cells freed since (10 R267). -/
def HalfSt.grantable (x : HalfSt) (key reserveCells : Nat) : Nat :=
  match Tab.get? x.granted key with
  | none => reserveCells
  | some o => if x.sharedGrant key then Tab.get 0 x.freed key else min (Tab.get 0 x.freed key) (reserveCells - o)

/-- The grant of a key at step 6: the cells granted, and those carried into the next grant. While a swap that lowered its reservation
keeps the old one, nothing (10 R267, R270, R271). -/
def HalfSt.grantOf (x : HalfSt) (h : Half) (key reserveCells : Nat) : Nat × Nat :=
  if (Tab.get? x.lowered key).isSome then (0, 0)
  else
    let base := x.grantable key reserveCells
    let extra :=
      if x.sharedGrant key then
        min (x.sharedFree h / 16 * 16) (16 * x.sharedMax key + reserveCells - (Tab.get 0 x.granted key + base))
      else 0
    let g := min 65535 (base + extra)
    (g, base + extra - g)

/-- A swap that lowered a reservation keeps the old one until the sender's outstanding credit is no more than the new one: then the rest
of the new one may be granted (10 R271). -/
def HalfSt.releaseOld (x : HalfSt) (key reserveCells : Nat) : HalfSt :=
  let o := Tab.get 0 x.granted key
  if (Tab.get? x.lowered key).isSome ∧ o ≤ reserveCells then
    { x with lowered := Tab.erase x.lowered key, freed := Tab.set x.freed key (reserveCells - o) }
  else x

/-- A swap has changed the reservations: of a key that has credit out, a lower one keeps the old one backed, and of a higher one the
difference may be granted (10 R271). `old` is the half before the swap. -/
def HalfSt.reserveChange (x old : HalfSt) (h : Half) : HalfSt :=
  x.granted.foldl (fun x e =>
    let a := old.reserve h e.1
    let b := x.reserve h e.1
    if e.1 % 8 < 2 then x
    else if b < a then { x with lowered := Tab.upd 0 x.lowered e.1 (fun v => max v a) }
    else if (Tab.get? x.lowered e.1).isSome then x
    else { x with freed := Tab.upd 0 x.freed e.1 (fun v => v + 16 * (b - a)) }) x

/-- The grants of one CREDIT cell, with the half after them. -/
def HalfSt.grants (x : HalfSt) (h : Half) (keys : List (Nat × Nat)) : HalfSt × List Nat :=
  keys.foldl (fun a k =>
    let y := a.1.releaseOld k.1 k.2
    let (g, rest) := y.grantOf h k.1 k.2
    let freed := if (Tab.get? y.lowered k.1).isSome then y.freed else Tab.set y.freed k.1 rest
    ({ y with granted := Tab.upd 0 y.granted k.1 (fun v => v + g), freed := freed }, a.2 ++ [g])) (x, [])

/-- Step 6 for one berth: queue its CREDIT cell, or one for each partition (10 R267, R279). TC0 credit is 48 cells on VC 0
and VC 1 (10 R269; log entry 24 for the electrical berths). -/
def State.grantBerth (s : State) (b : Nat) : State :=
  let x := s.berth b
  if !x.up || x.eth || s.berthSafe b then s
  else
    let h := berthHalf b
    let port := berthPort b
    let hs := s.half h
    let ps := hs.parts b
    let send := fun (s : State) (job off : Nat) (tc0 : Bool) =>
      let hs := s.half h
      let keys := (List.range 8).map (fun vc =>
        if vc < 2 then (creditKey port vc, if tc0 then 48 else 0)
        else (creditKey port vc + off, 16 * hs.reserve h (creditKey port vc + off)))
      let keys := if tc0 then keys else keys.drop 2
      let (hs', gs) := hs.grants h keys
      let stalled := (keys.zip gs).filter (fun k => (Tab.get? hs'.lowered k.1.1).isSome)
      let s := s.modHalf h (fun _ => hs')
      let s := (keys.zip gs).foldl (fun s k => s.count .creditSent (b * 8 + k.1.1 % 8) k.2) s
      let s := stalled.foldl (fun s k => s.bump .creditStall (b * 8 + k.1.1 % 8)) s
      let gs := if tc0 then gs else 0 :: 0 :: gs
      s.sendLocal b job (.credit (gs.map (fun g => BitVec.ofNat 16 g)) s.now)
    match ps with
    | [] => send s 0 0 true
    | _ =>
      let low := ps.foldl (fun m p => min m p.job) 64
      ps.foldl (fun s p => send s p.job (4096 * (p.part + 1)) (p.job == low)) s

/-- Step 6: every berth's grants. -/
def State.grantCredits (s : State) : State := (List.range 260).foldl (fun s b => s.grantBerth b) s

/-- A berth that comes up, or goes down, starts its credits anew (11 R287): what it sent before returns none of them. -/
def State.resetCredits (s : State) (b : Nat) : State :=
  let h := berthHalf b
  let port := berthPort b
  (s.modBerth b (fun x => { x with credit := [] })).modHalf h (fun x =>
    let mine := fun k => k % 4096 / 8 == port
    { x with granted := x.granted.filter (fun e => !mine e.1), freed := x.freed.filter (fun e => !mine e.1)
             lowered := x.lowered.filter (fun e => !mine e.1)
             pkts := x.pkts.map (fun p => if p.credit.any mine then { p with credit := none } else p)
             ctrl := x.ctrl.map (fun q => if q.credit.any mine then { q with credit := none } else q) })

/-- The key of a berth's sending credit on a VC: a job's own on a partitioned berth (10 R279). -/
def HalfSt.sendKey (x : HalfSt) (b vc job : Nat) : Nat :=
  if vc < 2 ∨ (x.parts b).isEmpty then vc else 8 * (job + 1) + vc

/-- CREDIT: the grants add to the sender's counters of the berth (10 R267). -/
def execCredit (b : Berth) (job : Byte) (grants : List U16) (_tide : TideNo) (s : State) :
    Host.Outcome State Fault Refusal :=
  let x := s.half (berthHalf b.val)
  if !(s.berth b.val).up || s.berthSafe b.val then .next s
  else
    .next (s.modBerth b.val (fun y => { y with credit := (List.range 8).foldl (fun t vc =>
      Tab.upd 0 t (x.sendKey b.val vc job.toNat) (fun v => v + (grants.getD vc 0).toNat)) y.credit }))

/-! ## Throttles (10 R275 to R277) -/

/-- Fields of a throttle entry (10 Table 10-4). -/
def HalfSt.thrEntry (x : HalfSt) (out cls : Nat) : Nat := (Tab.get 0x0004800008000400 x.tm.throttles (4 * out + cls)).toNat
def thrLo (e : Nat) : Nat := bitsOf e 0 16
def thrHi (e : Nat) : Nat := bitsOf e 16 16
def thrLevel (e : Nat) : Nat := bitsOf e 40 8
def thrDur (e : Nat) : Nat := bitsOf e 48 8

/-- Pallets queued for an output and class. -/
def HalfSt.queued (x : HalfSt) (out cls : Nat) : Nat :=
  (x.pkts.map (fun p => if p.copies.any (fun c => c.out == out && c.vc / 2 == cls) then p.pallets.length else 0)).sum

/-- The VC mask of a class. -/
def classMask (cls : Nat) : Byte := BitVec.ofNat 8 (3 * 4 ^ cls)

/-- Insert into a list ordered by most cells, then lowest address. -/
def insertTarget (e : U32 × Byte × Nat) : List (U32 × Byte × Nat) → List (U32 × Byte × Nat)
  | [] => [e]
  | f :: l => if f.2.2 < e.2.2 ∨ (f.2.2 = e.2.2 ∧ e.1 < f.1) then e :: f :: l else f :: insertTarget e l

/-- Up to 16 targets of an output and class among the packets enqueued in the tide just ended (10 R275). -/
def HalfSt.targetsOf (x : HalfSt) (out cls : Nat) : List (U32 × Byte) :=
  let mine := x.enq.filter (fun e => e.1 == out && e.2.1 == cls)
  let srcs := (mine.map (fun e => (e.2.2.1, e.2.2.2.1))).foldl (fun l e => if l.any (fun f => f.1 == e.1) then l else l ++ [e]) []
  let sums := srcs.map (fun e => (e.1, e.2, ((mine.filter (fun f => f.2.2.1 == e.1)).map (fun f => f.2.2.2.2)).sum))
  ((sums.foldl (fun l e => insertTarget e l) []).take 16).map (fun e => (e.1, e.2.1))

/-- Limit the injectors of a half (10 R277), or end the limit of a SRC at level 0. -/
def HalfSt.limit (x : HalfSt) (l : InjLimit) : HalfSt :=
  let rest := x.limits.filter (fun m => !(m.src == l.src && m.job == l.job && m.mask == l.mask))
  { x with limits := if l.level = 0 then rest else rest ++ [l] }

/-- Send one THROTTLE cell; one for this switch acts on its injectors, one that leaves its throttle at level above 0 is
counted. -/
def State.sendThrottle (s : State) (h : Half) (out cls : Nat) (dst : U32) (job : Byte) (level dur : Nat) : State :=
  let s := if 0 < level then s.bump .throttleSent (h.num * 1536 + out * 4 + cls) else s
  if addrSwitch dst.toNat = addrSwitch s.own ∧ addrF dst.toNat = 0xF then
    s.modHalf h (fun x => x.limit ⟨dst, job, classMask cls, level, s.now + 1 + BitVec.ofNat 48 dur⟩)
  else s.sendCtrlAt h dst job.toNat (.throttle (classMask cls) (BitVec.ofNat 8 level) (BitVec.ofNat 16 dur))

/-- Step 6 for an output and class: start, renew, halve or release its throttle (10 R275; log entry 108). -/
def State.throttleCheck (s : State) (h : Half) (out cls : Nat) : State :=
  let x := s.half h
  let e := x.thrEntry out cls
  let q := x.queued out cls
  let ix := h.num * 1536 + out * 4 + cls
  let s := { s with counters := Tab.upd 0 s.counters (Ctr.throttlePeak.key ix) (fun v => max v q) }
  let k := defKey out cls
  let t := Tab.get {} x.thr k
  let send := fun (s : State) (ts : List (U32 × Byte)) (lv : Nat) =>
    ts.foldl (fun s d => s.sendThrottle h out cls d.1 d.2 lv (thrDur e)) s
  let put := fun (s : State) (t : ThrSt) => s.modHalf h (fun x => { x with thr := Tab.set x.thr k t })
  if thrHi e ≤ q then
    let lv := if t.level = 0 then thrLevel e else if t.lastQueue < q then max 1 (t.level / 2) else t.level
    let new := x.targetsOf out cls
    let ts := new ++ t.targets.filter (fun d => !new.any (fun n => n.1 == d.1))
    put (send s ts lv) ⟨lv, q, ts⟩
  else if thrLo e < q then
    if t.level = 0 then put s { t with lastQueue := q } else put (send s t.targets t.level) { t with lastQueue := q }
  else if t.level = 0 then s
  else put (send s t.targets 0) {}

/-- Step 6: THROTTLE cells to the sources of red TC1 and TC2 packets (10 R274). -/
def State.throttleRed (s : State) (h : Half) : State :=
  let x := s.half h
  let s := x.redSeen.foldl (fun s r =>
    let (out, cls, src, job) := r
    let e := x.thrEntry out cls
    let lv := (Tab.get {} x.thr (defKey out cls)).level
    s.sendThrottle h out cls src job (if lv = 0 then thrLevel e else lv) (thrDur e)) s
  s.modHalf h (fun x => { x with redSeen := [] })

/-- Step 6: the throttles of a half's berth outputs. -/
def State.throttleHalf (s : State) (h : Half) : State :=
  let outs : List Nat := ((s.half h).pkts.flatMap (fun (p : Pkt) => p.copies.map (fun (c : Copy) => c.out))
    ++ (Tab.keys (s.half h).thr).map (fun k => k / 4)).foldl (fun l o => insertNew o l) []
  let s := (outs.filter facesBerth).foldl (fun s o => [1, 2, 3].foldl (fun s c => s.throttleCheck h o c) s) s
  let s := s.throttleRed h
  s.modHalf h (fun x => { x with enq := [], limits := x.limits.filter (fun l => !tideReached s.now l.until_) })

/-- THROTTLE: a cell for this switch limits the injectors of both halves (10 R277); another's is forwarded. -/
def execThrottle (c : Ctrl) (mask level : Byte) (dur : U16) (s : State) : Host.Outcome State Fault Refusal :=
  let (s, me) := s.ctrlIn c (.throttle mask level dur)
  if me then
    .next (s.modHalves (fun _ x => x.limit ⟨c.src, c.job, mask, level.toNat, s.now + 1 + dur.setWidth 48⟩))
  else .next s

end Sys2Proof.Machine
end

