-- ==== Sys2Proof/Machine/Scheduler.lean ====
section
/-! DEFINITION. The central scheduler of a half: requests, class selection, the three iterations, locks and the transfer
of the matched cells (09 R242 to R247, 10 R264 to R266). Readings: log entry 65. -/

namespace Sys2Proof.Machine

/-- One request of an input for an output: its class and partition, the copy or, with no packet, the control cells it is for (09 R243),
whether an attach port makes it, and whether one is its destination (09 R238). -/
structure Req where
  input : Nat
  output : Nat
  cls : Nat
  part : Nat
  pid : Option Nat
  copy : Nat
  attach : Bool
  toAttach : Bool
deriving DecidableEq, Repr

/-! ## Requests -/

/-- The limit that a throttle sets on an injector's packet: the lowest level of those that match (10 R276, R277). A berth, the bridge and an attach
port are no injectors. -/
def HalfSt.injLevel (x : HalfSt) (attach : Bool) (input job vc : Nat) : Option Nat :=
  if attach ∨ input < 128 ∨ 288 ≤ input then none
  else (x.limits.filter (fun l => l.job.toNat == job && l.mask.getLsbD vc)).foldl (fun m l => match m with
    | none => some l.level
    | some k => some (min k l.level)) none

/-- May an injector start a packet of n cells in this tide: L/256 of the sub-port's one cell per core cycle (10 R277)? -/
def HalfSt.injAllows (x : HalfSt) (attach : Bool) (input job vc n : Nat) : Bool :=
  match x.injLevel attach input job vc with
  | none => true
  | some l => decide (Tab.get 0 x.injUsed input + n ≤ l * 4000 / 256)

/-- Credits that packets matched but not begun will spend on a berth. -/
def State.promised (s : State) (h : Half) (b key : Nat) : Nat :=
  let x := s.half h
  (x.matched.map (fun l => match l.pid.bind (fun i => x.pkt? i) with
    | some p => (p.copies.map (fun c =>
        if c.order = l.copy ∧ c.left = p.cells ∧ c.dest = Dest.berth b ∧ x.sendKey b c.vc p.hdr.job = key then
          chargedCredits p.cells else 0)).sum
    | none => 0)).sum

/-- Is a berth quarantined by discovery or by the active Chart? A fence quarantines it once it is empty, so its queue still leaves (08 R234,
13 Table 13-12). -/
def State.shutOut (s : State) (b : Nat) : Bool := s.active.quarantine.getLsbD b || (s.berth b).quarDisc

/-- Can a destination take n cells of a packet of a VC and job: the berth is up, awake and not quarantined and the credit covers the
charge, a frame may be sent, a receive slot is free (08 R234, 10 R267, 11 R299, R307, R310)? -/
def State.canTake (s : State) (h : Half) (d : Dest) (vc job n : Nat) : Bool :=
  match d with
  | .berth b =>
    let y := s.berth b
    let key := (s.half h).sendKey b vc job
    y.up && y.lstate == 0 && !y.farLoop && !s.shutOut b &&
      (if y.eth then !y.paused else decide (n + s.promised h b key ≤ Tab.get 0 y.credit key))
  | .host f => s.hostRoom f
  | .self => false

/-- Is a copy the first of its queue: of its input, output, VC and partition (10 R266)? One that waits for a start cell waits in its
pallets, out of the queues (06 R154). -/
def HalfSt.firstOfQueue (x : HalfSt) (p : Pkt) (c : Copy) : Bool :=
  x.pkts.all (fun q => q.input != p.input || q.attach != p.attach || q.held.isSome || q.copies.all (fun d =>
    d.out != c.out || d.vc != c.vc || x.partOfPkt d.dest q.hdr.job != x.partOfPkt c.dest p.hdr.job || c.order ≤ d.order))

/-- The pallets of a half that packets crossing to it have been promised: those that still wait for theirs. -/
def HalfSt.bridgeOwed (x : HalfSt) : Nat :=
  ((x.bridgeIn.map (fun e => palletsOf e.2.cells)) ++ (x.pkts.filter (fun p => decide (288 ≤ p.input) && p.pallets.isEmpty)).map
    (fun p => palletsOf p.cells)).sum

/-- The pallets that packets of a bridge sub-port and VC hold or have been promised in a half. -/
def HalfSt.bridgeUsed (x : HalfSt) (key : Nat) : Nat :=
  ((x.bridgeIn.map (fun e => e.2) ++ x.pkts).map (fun p => if p.key = key ∧ 288 ≤ p.input then palletsOf p.cells else 0)).sum

/-- The bridge's credit of a VC: the far half has reserved pallets of the sub-port for the packet or, as for any internal input, shared
ones (09 R240, R249; log entry 98). -/
def State.bridgeCredit (s : State) (h : Half) (out vc cells : Nat) : Bool :=
  let x := s.half h.other
  let n := palletsOf cells
  decide (x.bridgeUsed (creditKey out vc) + n ≤ x.backing h.other (creditKey out vc)) || decide (x.bridgeOwed + n ≤ x.sharedFree h.other)

/-- Is a copy ready and eligible (09 R243)? -/
def State.eligible (s : State) (h : Half) (p : Pkt) (c : Copy) : Bool :=
  let x := s.half h
  !p.pallets.isEmpty && p.held.isNone && ((p.whole && p.crcOk) || p.cut) && c.left == p.cells && x.firstOfQueue p c
    && (if 288 ≤ c.out then p.whole && decide (c.out - 288 ∉ x.bridgeDown) && s.bridgeCredit h c.out c.vc p.cells
        else s.canTake h c.dest c.vc p.hdr.job (chargedCredits p.cells))
    && x.injAllows p.attach p.input p.hdr.job c.vc p.cells

/-- Is a control cell of a half eligible: its destination can take it, or the far half's store has room? -/
def State.ctrlReady (s : State) (h : Half) (q : CtrlQ) : Bool :=
  if 288 ≤ q.out then (s.half h.other).ctrlRoom && decide (q.out - 288 ∉ (s.half h).bridgeDown)
  else match q.dest with
  | .berth b =>
    let y := s.berth b
    y.up && !y.eth && y.lstate == 0 && !y.farLoop && !s.shutOut b && decide (1 ≤ Tab.get 0 y.credit q.vc)
  | .host f => s.hostRoom f
  | .self => false

/-- Does a copy or a control cell leave by an attach port? -/
def destAttach (out : Nat) : Bool := decide (128 ≤ out ∧ out < 288)

/-- The requests of a grain. -/
def State.requests (s : State) (h : Half) : List Req :=
  let x := s.half h
  (x.ctrl.filter (fun q => s.ctrlReady h q)).map (fun q => ⟨q.input, q.out, 0, 0, none, 0, q.attach, destAttach q.out⟩)
    ++ x.pkts.flatMap (fun p => (p.copies.filter (fun c => s.eligible h p c)).map (fun c =>
      ⟨p.input, c.out, c.vc / 2, x.partOfPkt c.dest p.hdr.job, some p.id, c.order, p.attach, destAttach c.out⟩))

/-- The output sub-ports of a half at which a tile has cells to take (09 R238, 05 R127). -/
def State.tileOutputs (s : State) (h : Half) : List Nat :=
  (s.tiles.filter (fun e => tileHalf e.1 == h && !e.2.cells.isEmpty)).map (fun e => s.enginePort e.1)

/-- At an input that a tile and an attach port share, keep the requests of the one whose turn it is; at an output that they share, those
of the attach port unless it is the tile's turn (09 R238). -/
def HalfSt.attachTurn (x : HalfSt) (tiles : List Nat) (rs : List Req) : List Req :=
  rs.filter (fun r =>
    let contested := rs.any (fun q => q.input == r.input && q.attach != r.attach)
    (!contested || r.attach == decide (r.input ∉ x.attachLast))
      && !(r.toAttach && decide (r.output ∈ tiles) && decide (r.output ∈ x.attachOutLast)))

/-- Note who was served at the inputs and outputs that were contested. -/
def HalfSt.noteTurns (x : HalfSt) (tiles : List Nat) (rs ms : List Req) : HalfSt :=
  let x := ms.foldl (fun x r =>
    if rs.any (fun q => q.input == r.input && q.attach != r.attach) then
      let last := if r.attach then insertNew r.input x.attachLast else x.attachLast.filter (fun i => i != r.input)
      { x with attachLast := last }
    else x) x
  (rs.filter (fun r => r.toAttach && decide (r.output ∈ tiles))).foldl (fun x r =>
    { x with attachOutLast := if ms.any (fun m => m.output == r.output) then insertNew r.output x.attachOutLast
        else x.attachOutLast.filter (fun o => o != r.output) }) x

/-- The sub-ports of an electrical berth send it one packet at a time (08 R209): no request for a berth that a locked pair faces, and of
those for one berth only the requests for the output of the oldest (log entry 21). -/
def HalfSt.oneOutput (x : HalfSt) (h : Half) (rs : List Req) : List Req :=
  let far := fun (o : Nat) => if 128 ≤ o then inputBerth h o else none
  rs.filter (fun r =>
    match far r.output with
    | none => true
    | some b => x.matched.all (fun l => far l.output != some b)
        && ((rs.find? (fun q => far q.output == some b)).map (fun q => q.output)).getD r.output == r.output)

/-! ## Choosing a class (10 R264, R266) -/

/-- The deficit round robin of select_class over the ids given, rising: the id chosen, the turn, the deficits, and the ids
that took a quantum. Every quantum covers the largest packet, so two rounds suffice; `fuel` bounds the search. -/
def roundRobin (ids : List Nat) (dk : Nat → Nat) (req queued : Nat → Bool) (q : Nat → Nat) :
    Nat → Nat → Tab Int → List Nat → Option Nat × Nat × Tab Int × List Nat
  | 0, turn, d, rs => (none, turn, d, rs)
  | fuel + 1, turn, d, rs =>
    let next := (ids.find? (fun i => decide (turn < i))).getD (ids.headD 0)
    if req turn then
      if 0 < Tab.get 0 d (dk turn) then (some turn, turn, d, rs)
      else roundRobin ids dk req queued q fuel next (Tab.upd 0 d (dk turn) (fun v => v + Int.ofNat (q turn))) (rs ++ [turn])
    else roundRobin ids dk req queued q fuel next (if queued turn then d else Tab.set d (dk turn) 0) rs

/-- select_class for an output over its requests, with the partition where the berth has any: the half after it, the
choice, and the classes that took a quantum. -/
def HalfSt.selectClass (x : HalfSt) (h : Half) (out : Nat) (rs : List Req) :
    HalfSt × Option (Nat × Nat) × List Nat :=
  if rs.any (fun r => r.cls == 0) then (x, some (0, 0), [])
  else if rs.isEmpty then (x, none, [])
  else
    let (c, turn, d, rounds) := roundRobin [1, 2, 3] (defKey out) (fun c => rs.any (fun r => r.cls == c))
      (fun c => x.holds out c) (fun c => x.quantum out c) 9 (Tab.get 1 x.turns out) x.deficits []
    let x := { x with turns := Tab.set x.turns out turn, deficits := d }
    match c with
    | none => (x, none, rounds)
    | some c =>
      let ps := x.outParts h out
      match ps with
      | [] => (x, some (c, 0), rounds)
      | p0 :: _ =>
        let ids := (List.range 8).filter (fun i => ps.any (fun p => p.part == i))
        let (p, turn, d, _) := roundRobin ids (partDefKey out c) (fun i => rs.any (fun r => r.cls == c && r.part == i))
          (fun i => x.holdsPart out c i) (fun i => x.pquant h out i)
          25 (Tab.get p0.part x.turns (65536 + defKey out c)) x.deficits []
        ({ x with turns := Tab.set x.turns (65536 + defKey out c) turn, deficits := d }, p.map (fun p => (c, p)), rounds)

/-! ## The matching (09 R244, R245) -/

/-- The first number of a list at or after a pointer, wrapping past 383. -/
def atOrAfter (ptr : Nat) (l : List Nat) : Option Nat :=
  l.foldl (fun b n => match b with
    | none => some n
    | some m => if (n + 384 - ptr % 384) % 384 < (m + 384 - ptr % 384) % 384 then some n else some m) none

/-- A request of an input that suits an output's choice, the oldest first. -/
def pickReq (rs : List Req) (i o cls part : Nat) : Option Req :=
  (rs.filter (fun r => r.input == i && r.output == o && r.cls == cls && r.part == part)).foldl (fun b r => match b with
    | none => some r
    | some q => if r.copy < q.copy then some r else some q) none

/-- One iteration of grant and accept: the pairs matched. -/
def HalfSt.iterate (x : HalfSt) (rs : List Req) (choice : List (Nat × Nat × Nat)) (ins outs : List Nat) : List Req :=
  let grants := (choice.filter (fun c => decide (c.1 ∉ outs))).filterMap (fun c =>
    let (o, cls, part) := c
    let is := (rs.filter (fun r => r.output == o && r.cls == cls && r.part == part && decide (r.input ∉ ins))).map
      (fun r => r.input)
    (atOrAfter (Tab.get 0 x.grantPtr (4 * o + cls)) is).map (fun i => (o, cls, part, i)))
  let granted := grants.foldl (fun l g => insertNew g.2.2.2 l) []
  granted.filterMap (fun i =>
    match atOrAfter (Tab.get 0 x.acceptPtr i) ((grants.filter (fun g => g.2.2.2 == i)).map (fun g => g.1)) with
    | none => none
    | some o => (grants.find? (fun g => g.1 == o)).bind (fun g => pickReq rs i o g.2.1 g.2.2.1))

/-- Move the pointers of the pairs matched in iteration 1. -/
def HalfSt.movePointers (x : HalfSt) (ms : List Req) : HalfSt :=
  ms.foldl (fun x r => { x with
    grantPtr := Tab.set x.grantPtr (4 * r.output + r.cls) ((r.input + 1) % 384),
    acceptPtr := Tab.set x.acceptPtr r.input ((r.output + 1) % 384) }) x

/-- A pair is matched: it locks on its packet, whose charged length the deficit pays (10 R264); a packet past its lifetime
is dropped instead (09 R247). -/
def State.lockPair (s : State) (h : Half) (r : Req) : State :=
  let s := s.bump .matchGrains (subIx h r.output)
  let x := s.half h
  match r.pid with
  | none => s.modHalf h (fun x => { x with matched := x.matched ++ [⟨r.input, r.output, none, 0⟩] })
  | some pid =>
    match x.pkt? pid with
    | none => s
    | some p =>
      if s.isAged p.hdr.birth then
        let s := match p.origin with
          | some b => s.bump .aged b
          | none => s
        s.dropCopy h pid r.copy
      else
        let len := Int.ofNat (p.cells * 68 + x.ovh r.output)
        let pay := fun (d : Tab Int) =>
          let d := Tab.upd 0 d (defKey r.output r.cls) (fun v => v - len)
          if x.outParts h r.output ≠ [] then
            Tab.upd 0 d (partDefKey r.output r.cls r.part) (fun v => v - len) else d
        s.modHalf h (fun x => { x with
          matched := x.matched ++ [⟨r.input, r.output, some pid, r.copy⟩],
          deficits := pay x.deficits,
          injUsed := if (x.injLevel p.attach p.input p.hdr.job (2 * r.cls)).isSome ∨ (x.injLevel p.attach p.input p.hdr.job (2 * r.cls + 1)).isSome
            then Tab.upd 0 x.injUsed p.input (fun v => v + p.cells) else x.injUsed })

/-- The matching of a grain. -/
def State.matching (s : State) (h : Half) : State :=
  let x := s.half h
  let held := x.matched
  let ins := held.map (fun l => l.input)
  let outs := held.map (fun l => l.output)
  let s := held.foldl (fun s l => s.bump .lockGrains (subIx h l.output)) s
  let all := (x.oneOutput h (s.requests h)).filter (fun r => decide (r.input ∉ ins) && decide (r.output ∉ outs))
  let tiles := s.tileOutputs h
  let rs := x.attachTurn tiles all
  let wanted := rs.foldl (fun l r => insertNew r.output l) []
  let (x, choice, rounds) := wanted.foldl (fun (a : HalfSt × List (Nat × Nat × Nat) × List (Nat × Nat)) o =>
    let (x, c, ks) := a.1.selectClass h o (rs.filter (fun r => r.output == o))
    (x, a.2.1 ++ (match c with
      | some (c, p) => [(o, c, p)]
      | none => []), a.2.2 ++ ks.map (fun k => (o, k)))) (x, [], [])
  let m1 := x.iterate rs choice ins outs
  let m2 := x.iterate rs choice (ins ++ m1.map (fun r => r.input)) (outs ++ m1.map (fun r => r.output))
  let m12 := m1 ++ m2
  let m3 := x.iterate rs choice (ins ++ m12.map (fun r => r.input)) (outs ++ m12.map (fun r => r.output))
  let s := s.modHalf h (fun _ => (x.movePointers m1).noteTurns tiles all (m12 ++ m3))
  let s := rounds.foldl (fun s k => s.bump .deficitRounds (h.num * 1536 + k.1 * 4 + k.2)) s
  (m12 ++ m3).foldl (fun s r => s.lockPair h r) s

/-! ## The transfer (09 R242, R246) -/

/-- Spend the credit of a packet or control cell on the berth it is sent on (10 R267). -/
def State.spend (s : State) (h : Half) (d : Dest) (vc job n : Nat) : State :=
  match d with
  | .berth b =>
    if (s.berth b).eth then s
    else s.modBerth b (fun y => { y with credit := Tab.upd 0 y.credit ((s.half h).sendKey b vc job) (fun v => v - n) })
  | _ => s

/-- A THROTTLE cell for a function limits its fetches: the latest of each SRC stands, and level 0 ends it (10 R276, 11 R311). -/
def RingSt.limit (r : RingSt) (l : InjLimit) : RingSt :=
  let rest := r.limits.filter (fun m => m.src != l.src)
  { r with limits := if l.level = 0 then rest else rest ++ [l] }

/-- One control cell leaves its output; one past its lifetime is dropped (08 R215). One for a bridge sub-port enters the other half's
store there (09 R237). -/
def State.moveCtrl (s : State) (h : Half) (q : CtrlQ) : State :=
  let s := (s.modHalf h (fun x => { x with ctrl := x.ctrl.erase q })).freeCredit h q.credit 1
  if s.isAged (ctrlBirth q.bytes) then
    match q.origin with
    | some b => s.bump .aged b
    | none => s
  else if 288 ≤ q.out then
    s.storeCtrl h.other { q with input := q.out, attach := false, credit := none, out := q.dest.subPort (ctrlKey q.bytes) (s.chartOf q.epoch).salt }
  else
    match q.dest with
    | .berth b => (s.spend h q.dest q.vc 0 1).toBerth b (leBytes 4 (cwHop q.cw q.vc q.bypass).toNat ++ q.bytes) true
    | .host f =>
      match CtrlBody.ofBytes q.bytes with
      | some (.throttle m l d) =>
        s.modPort (fun p => { p with rings := p.rings.map (fun e => if e.1 = f then (e.1, e.2.limit
          ⟨BitVec.ofNat 32 (ctrlSrc q.bytes), BitVec.ofNat 8 (ctrlJob q.bytes), m, l.toNat, s.now + 1 + d.setWidth 48⟩) else e) })
      | _ =>
      let slot := padTo 4288 q.bytes ++ leBytes 2 1 ++ [1] ++ List.replicate 61 0
      s.modPort (fun p => { p with rings := p.rings.map (fun e =>
        if e.1 = f then (e.1, { e.2 with rxWritten := e.2.rxWritten ++ [slot], rxProd := e.2.rxProd + 1 }) else e) })
    | .self => s

/-- Up to n control cells of a pair move. -/
def State.moveCtrls (h : Half) (i o : Nat) : Nat → State → State
  | 0, s => s
  | n + 1, s =>
    match (s.half h).ctrl.find? (fun q => q.input == i && q.out == o && s.ctrlReady h q) with
    | none => s
    | some q => State.moveCtrls h i o n (s.moveCtrl h q)

/-- A cut-through packet has run out of cells with its input berth in retry: its remaining cells are sent with zero
payloads and the complemented CRC-32 of what was sent, and the packet is sent again from the buffer (11 R294). -/
def State.stomp (s : State) (h : Half) (p : Pkt) (c : Copy) : State :=
  let first := p.cells - c.left
  let sent := padTo (64 * p.cells) (p.payload.take (64 * first))
  let q := { p with payload := sent, crc := ~~~(crc32 sent) }
  let s := (rangeFrom first c.left).foldl (fun s i => s.emitCell h q c i) s
  let s := match c.dest with
    | .berth b => (s.bump .stomped b).modBerth b (fun y => { y with stompSeen := true })
    | _ => s
  (s.modPkt h p.id (fun r => { r with cut := false, copies := [{ c with left := p.cells }] })).modHalf h
    (fun x => { x with
      pool := x.pool.addRefs (p.pallets.take (first / 16))
      matched := x.matched.filter (fun l => l.pid != some p.id) })

/-- Is the input berth of a packet in retry? -/
def State.inputRetry (s : State) (h : Half) (p : Pkt) : Bool := (inputBerth h p.input).any (fun b => (s.berth b).inRetry)

/-- The pallets of a copy's next n cells that are behind them when they have been read (09 R256). -/
def Pkt.readBy (p : Pkt) (c : Copy) (n : Nat) : List Nat :=
  (p.heldBy c).take (if c.left ≤ n then p.pallets.length else (p.cells - c.left + n) / 16 - (p.cells - c.left) / 16)

/-- The pallets that a copy's next n cells lie in. -/
def Pkt.readIn (p : Pkt) (c : Copy) (n : Nat) : List Nat :=
  (p.heldBy c).take ((p.cells - c.left + n + 15) / 16 - (p.cells - c.left) / 16)

/-- A copy whose descriptor fails the check ends at that pallet: the packet is dropped at the output, its references released as far as the
chain is sound (09 Table 9-5). -/
def State.endChain (s : State) (h : Half) (p : Pkt) (c : Copy) (bad : Nat) : State :=
  let l := p.heldBy c
  let s := (s.palletFault h .chainBad 1).dropRefs h (l.takeWhile (fun i => i != bad) ++ [bad])
  (s.modPkt h p.id (fun q => { q with copies := q.copies.filter (fun d => d.order != c.order) })).settle h p.id

/-- Up to 8 cells of a locked pair's packet move. A pair whose destination can no longer take the packet moves nothing. -/
def State.moveData (s : State) (h : Half) (l : LockSt) (pid : Nat) : State :=
  let unlock := fun (s : State) => s.modHalf h (fun x => { x with matched := x.matched.erase l })
  match (s.half h).pkt? pid with
  | none => unlock s
  | some p =>
    match p.copies.find? (fun c => c.order == l.copy) with
    | none => unlock s
    | some c =>
      let start := c.left == p.cells
      let s0 := unlock s
      if start && c.out < 288 && !s0.canTake h c.dest c.vc p.hdr.job (chargedCredits p.cells) then s0
      else
        let first := p.cells - c.left
        let avail := if p.whole then p.cells else p.payload.length / 64
        let n := min 8 (min c.left (avail - first))
        if n = 0 then (if p.cut && s.inputRetry h p then s.stomp h p c else s)
        else match (p.readIn c n).find? (fun i => !descOk ((s.half h).pool.descOf i)) with
        | some bad => unlock (s.endChain h p c bad)
        | none =>
          let s := if start then
              (s.spend h (if c.out < 288 then c.dest else .self) c.vc p.hdr.job (chargedCredits p.cells)).bump
                (if p.cut && !p.whole then .ctPackets else .sfPackets) (subIx h c.out)
            else s
          let s := (rangeFrom first n).foldl (fun s i => s.emitCell h p c i) s
          if c.left = n then
            let s := match c.dest with
              | .berth b => if c.mirror.isNone ∧ c.out < 288 then s.mirrorPkt h pid (some b) true else s
              | _ => s
            (unlock s).dropCopy h pid c.order
          else
            ((s.dropRefs h (p.readBy c n)).modPkt h pid (fun q => { q with copies := q.copies.map (fun d =>
              if d.order = c.order then { d with left := d.left - n } else d) })).settle h pid

/-- The cells of the previous grain's matches move. -/
def State.transfer (s : State) (h : Half) : State :=
  (s.half h).matched.foldl (fun s l => match l.pid with
    | none => State.moveCtrls h l.input l.output 8 (s.modHalf h (fun x => { x with matched := x.matched.erase l }))
    | some pid => s.moveData h l pid) s

/-- What waits for a receive ring without a free slot and is past its lifetime is dropped, since no match comes to do it (11 R310). -/
def State.dropAgedHost (s : State) (h : Half) : State :=
  let stuck := fun (d : Dest) => match d with
    | .host f => !s.hostRoom f
    | _ => false
  let aged := fun (s : State) (o : Option Nat) => match o with
    | some b => s.bump .aged b
    | none => s
  let s := ((s.half h).pkts.filter (fun p => s.isAged p.hdr.birth)).foldl (fun s p =>
    (p.copies.filter (fun c => stuck c.dest && c.left == p.cells)).foldl (fun s c => (aged s p.origin).dropCopy h p.id c.order) s) s
  let old := fun (q : CtrlQ) => stuck q.dest && decide (q.out < 288) && s.isAged (ctrlBirth q.bytes)
  let s' := ((s.half h).ctrl.filter old).foldl (fun s q => (aged s q.origin).freeCredit h q.credit 1) s
  s'.modHalf h (fun x => { x with ctrl := x.ctrl.filter (fun q => !old q) })

/-- SCHEDULER_GRAIN: the pairs of the last grain move their cells, and the next matching is found (09 R242). -/
def execSchedulerGrain (h : Half) (s : State) : Host.Outcome State Fault Refusal :=
  if !(s.half h).started then .next s
  else .next (((s.modHalf h (fun x => HalfSt.admitCtrl x.ctrlWait.length x)).transfer h).dropAgedHost h |>.matching h)

end Sys2Proof.Machine
end

