-- ==== Sys2Proof/Machine/Arrival.lean ====
section
/-! DEFINITION. Packets entering a half: PACKET_ARRIVAL, PALLET_ALLOCATION, PACKET_RECEIVED_WHOLE, and the free store's
FREE_RING_FETCH and FREE_MAP_AUDIT (08 R212 to R227, 09 R249 to R260, 10 R272). Readings: log entries 65, 67 and 68. -/

namespace Sys2Proof.Machine

/-- Is an output idle: no packet locked on it, no cell of any class queued for it (09 R250)? -/
def HalfSt.idle (x : HalfSt) (out pid : Nat) : Bool :=
  x.matched.all (fun l => l.output != out) && x.ctrl.all (fun q => q.out != out)
    && x.pkts.all (fun p => p.id == pid || p.copies.all (fun c => c.out != out))

/-- Does a packet whose head has been routed leave by cut-through (09 R250)? A packet that a session mirrors does not, nor does one of a
data-movement collective, which is forwarded whole and checked (06 R150). -/
def State.cutsThrough (s : State) (h : Half) (p : Pkt) : Bool :=
  match p.pendingCopies with
  | [c] =>
    let plp := fun (b : Option Nat) => b.any (fun b => !(s.berth b).eth)
    let input := decide (p.input < 128) || decide (288 ≤ p.input) || plp (inputBerth h p.input)
    let output := decide (c.out < 288) && (match c.dest with
      | .berth b => plp (some b) && !(s.half h).mirrored p b
      | _ => false)
    !p.whole && !p.hdr.mcast && !cwMirrored p.cw && decide (p.hdr.kind < 3 ∨ 5 < p.hdr.kind) && input && output
      && (s.half h).idle c.out p.id
  | _ => false

/-- Start a packet that has its pallets: one that cuts through at once, and any other when it is whole, with its ingress mirrors and
every copy (09 R250, R251, R253). -/
def State.launch (s : State) (h : Half) (pid : Nat) : State :=
  match (s.half h).pkt? pid with
  | none => s
  | some p =>
    if p.pallets.isEmpty then s
    else if p.cut then s.settle h pid
    else if p.whole && p.crcOk then (s.mirrorPkt h pid p.origin false).settle h pid
    else s

/-- A packet that no copy can leave by is dropped, its credits returned; any other takes its pallets and starts. -/
def State.letIn (s : State) (h : Half) (pid : Nat) : State :=
  match (s.half h).pkt? pid with
  | none => s
  | some p =>
    if p.pendingCopies.isEmpty then s.dropPkt h pid
    else ((s.modPkt h pid (fun q => { q with cut := s.cutsThrough h p })).allocatePkt h pid).launch h pid

/-- The head of a packet from the other half enters by a bridge sub-port, with the output chosen there (09 R241); cells for a berth that has
gone down are dropped (08 R223). -/
def State.bridgeArrive (s : State) (h : Half) (lane : Nat) : State :=
  match (s.half h).bridgeIn.find? (fun e => e.1 == lane) with
  | none => s
  | some e =>
    let p := e.2
    let s := s.modHalf h (fun x => { x with bridgeIn := x.bridgeIn.erase e })
    let place := fun (c : Copy) => match c.dest with
      | .self => { c with out := s.selfPort h p.hdr }
      | d => { c with out := d.subPort p.hdr.spreadKey s.active.salt }
    let open_ := fun (c : Copy) => match c.dest with
      | .berth b => (s.berth b).up && !s.shutOut b
      | _ => true
    let q := { p with pendingCopies := (p.pendingCopies.filter open_).map place }
    (s.modHalf h (fun x => { x with pkts := x.pkts ++ [q] })).letIn h q.id

/-- The checks on a head from a berth, in order (08 R214, R219, R227, R228, R234, 10 R279): the counter of the first that
fails. -/
def State.headFault (s : State) (h : Half) (b : Nat) (cw : U32) (hd : Hdr) (endpoint epoch : Bool) : Option Ctr :=
  let ch := s.active
  let vc := cwVc cw
  let grp := ch.groupOf b
  if s.quarantined b then some .quarantined
  else if !hd.ok || cwColour cw == 3 || (endpoint && vc != 2 * hd.tc vc) then some .hdrBad
  else if endpoint && !grp.any (fun g => g.names hd.src) then some .srcBad
  else if endpoint && !grp.any (fun g => g.jobs.getLsbD hd.job) then some .jobDenied
  else if (s.job hd.job).fenced then some .jobDenied
  else if !((s.half h).parts b).isEmpty && !((s.half h).parts b).any (fun p => p.job == hd.job) then some .jobDenied
  else if !s.routable epoch then some .epochNone
  else if !endpoint && s.isAged hd.birth then some .aged
  else none

/-- A head arrives on a berth. -/
def State.berthArrive (s : State) (h : Half) (input b : Nat) (cw : U32) (head : List Byte) : State :=
  let head := padTo 64 (head.take 64)
  let hd := Hdr.ofBytes head
  let x := s.half h
  let vc := cwVc cw
  let credit := x.resKey (some b) (creditKey (berthPort b) vc) hd.job
  let y := s.berth b
  if !x.started || !y.up || y.eth || cwType cw ≠ 0 then s
  else if s.berthSafe b then s.bwDrop b hd.cells
  else if cellWcrc cw.toNat ≠ cw.toNat % 256 then
    match s.partOf b with
    | some (n, _) => s.checkCount n b 1 1
    | none => s
  else
    let endpoint := (s.active.bundleOf b).isNone
    let (pid, s1) := s.fresh
    let mk := fun (head : List Byte) (cw : U32) => ({
        id := pid, input := input, origin := some b, attach := decide (256 ≤ b), cw := cw, payload := head, cells := hd.cells,
        birthIn := field head 30 2, key := credit, credit := some credit } : Pkt)
    if (s.partOf b).isSome then
      -- a partition berth: the packet waits for its checker (17 R430)
      s1.modHalf h (fun x => { x with pkts := x.pkts ++ [mk head cw] })
    else
      let epoch := if endpoint then s.chart.epoch else cwEpoch cw
      match s.headFault h b cw hd endpoint epoch with
      | some k => (s.bump k b).freeCredit h (some credit) (chargedCredits hd.cells)
      | none =>
        let tc := hd.tc vc
        let (s2, col, drop) := if endpoint then s1.policePkt h input b hd.job tc hd.cells else (s1, cwColour cw, false)
        if drop then s2.freeCredit h (some credit) (chargedCredits hd.cells)
        else
          let s2 :=
            if endpoint && col == 2 && tc != 3 then
              let e := ((berthSubs b).headD 0, tc, BitVec.ofNat 32 hd.src, BitVec.ofNat 8 hd.job)
              s2.modHalf h (fun x => { x with redSeen := insertNew e x.redSeen })
            else s2
          let head' := if endpoint then putBirth head 30 (s.now.toNat % 4096) else head
          let cw' := if endpoint then cwWithColour (cwWithEpoch cw epoch) col else cw
          let c := s.chartOf epoch
          let p := { mk head' cw' with birthIn := field head 30 2 }
          let s2 := s2.modHalf h (fun x => { x with pkts := x.pkts ++ [p] })
          (s2.addCopies h pid hd (some b) (s.selfHalf hd h) none
            (s.targets c hd.spreadKey hd.mcast hd.dst hd.job tc vc (cwBypass cw) (c.inHop b))).letIn h pid

/-- A control cell of a type that no row of its own brings (a refusal or a mark in transit) arrives on a berth: it is checked, and routed if
it is for another; the switch does nothing on one for itself (08 R215, R216). Log entry 69. -/
def State.ctrlArrive (s : State) (b : Nat) (cw : U32) (p : List Byte) : State :=
  match CtrlBody.ofBytes p with
  | some body =>
    if b < 260 ∧ (body.type = 0x25 ∨ body.type = 0x27 ∨ body.type = 0x30) ∧ wcrcOk cw = true then (s.ctrlIn ⟨Fin.ofNat 260 b, cw, p⟩ body).1 else s
  | none => s

/-- PACKET_ARRIVAL: a head arrives on a berth's sub-port, or a packet crosses the bridge. -/
def execPacketArrival (h : Half) (sub : Fin 384) (cw : U32) (head : List Byte) (s : State) :
    Host.Outcome State Fault Refusal :=
  if 288 ≤ sub.val then .next (if (s.half h).started then s.bridgeArrive h (sub.val - 288) else s)
  else
    match inputBerth h sub.val with
    | some b => .next (if cwType cw = 3 then s.ctrlArrive b cw (padTo 64 (head.take 64)) else s.berthArrive h sub.val b cw head)
    | none => .next s

/-! ## The receive store of an Ethernet-mode berth (11 R307) -/

/-- The bytes of a frame: header, payload and FCS. -/
def frameBytes (payload : Nat) : Nat := 18 + payload

/-- The receive store of a berth: its frames that wait for pallets. -/
def State.storeFill (s : State) (b : Nat) : Nat :=
  let h := berthHalf b
  (((s.half h).pkts.filter (fun p => p.waiting && inputBerth h p.input == some b)).map (fun p => frameBytes (64 * p.cells))).sum

/-- 128 KiB or more: XOFF; 64 KiB or less after an XOFF: XON. -/
def State.storeCheck (s : State) (b : Nat) : State :=
  let y := s.berth b
  let fill := s.storeFill b
  if y.xoffAt.isNone && decide (131072 ≤ fill) then s.modBerth b (fun y => { y with xoffAt := some s.now, pauseTx := y.pauseTx ++ [0xFFFF] })
  else if y.xoffAt.isSome && decide (fill ≤ 65536) then s.modBerth b (fun y => { y with xoffAt := none, pauseTx := y.pauseTx ++ [0] })
  else s

/-- PALLET_ALLOCATION: a packet that waits for pallets tries again, and starts if it gets them (09 R249). -/
def execPalletAllocation (h : Half) (pid : Nat) (s : State) : Host.Outcome State Fault Refusal :=
  match (s.half h).pkt? pid with
  | some p =>
    if !p.waiting then .next s
    else
      let s := (s.allocatePkt h pid).launch h pid
      .next (match inputBerth h p.input with
        | some b => if (s.berth b).eth then s.storeCheck b else s
        | none => s)
  | none => .next s

/-- Cells held on a credit beyond the credit granted (10 R267, R268). -/
def HalfSt.beyondCredit (x : HalfSt) (key cells : Nat) : Nat :=
  let held := ((x.pkts.filter (fun p => p.credit == some key)).map (fun p => chargedCredits p.cells)).sum
  min cells (held - Tab.get 0 x.granted key)

/-- A result packet with a bad CRC-32 from the switch that its chunk's results come from is asked for again (06 R161). -/
def State.askAgain (s : State) (hd : Hdr) : State :=
  match s.mfst hd.sid with
  | none => s
  | some m =>
    let x := s.stream hd.sid
    let src := if s.role hd.sid m hd.chunk = .parent then m.parentAddr.toNat else m.upAddr.toNat
    if hd.kind = 2 ∧ (x.state = .live ∨ x.state = .retaining) ∧ x.gen.toNat = hd.gen ∧ hd.chunk < m.chunkCount
        ∧ s.expectsResult hd.sid m hd.chunk = true ∧ hd.src = src then
      s.sendCtrl (BitVec.ofNat 32 src) m.job (.resendReq (BitVec.ofNat 20 hd.sid) x.gen (BitVec.ofNat 16 hd.chunk)
        (BitVec.ofNat 12 hd.off) (BitVec.ofNat 2 hd.seg))
    else s

/-- Send a control cell of a partition on one of its berths, if its credit covers it (10 R267, R268; log entry 99). -/
def State.partSend (s : State) (b : Nat) (p : PartSt) (dst : Nat) (body : CtrlBody) : State :=
  let cell : CtrlOut := ⟨BitVec.ofNat 32 dst, p.addr, BitVec.ofNat 8 p.job, BitVec.ofNat 16 (s.now.toNat % 4096), body⟩
  if Tab.get 0 (s.berth b).credit 0 < 1 then s
  else (s.spend (berthHalf b) (.berth b) 0 p.job 1).toBerth b (cell.cell 0 false false) true

/-- A result packet of the golden stream with a bad CRC-32 is asked for again, by an endpoint with the ACK flag (17 R441). -/
def State.partAskAgain (s : State) (n b : Nat) (hd : Hdr) : State :=
  match Tab.get? s.parts n with
  | none => s
  | some p =>
    if !p.switchPersona && hd.kind == 2 && p.gold.any (fun g => g.ack && g.sid == hd.sid && g.gen.toNat == hd.gen) then
      s.partSend b p hd.src (.resendReq (BitVec.ofNat 20 hd.sid) (BitVec.ofNat 8 hd.gen) (BitVec.ofNat 16 hd.chunk)
        (BitVec.ofNat 12 hd.off) (BitVec.ofNat 2 hd.seg))
    else s

/-- A whole packet's CRC-32 is checked: one that holds is settled or starts; one that fails is dropped and counted, unless it has begun to
leave by cut-through (08 R212, 09 R251, R252, 11 R294). -/
def State.checkWhole (s : State) (h : Half) (p : Pkt) (ok stomped : Bool) : State :=
  let begun := p.cut && p.copies.any (fun c => c.left != p.cells)
  let s := s.modPkt h p.id (fun q => { q with whole := true, crcOk := ok, stomped := stomped, cut := p.cut && (ok || begun) && !p.pallets.isEmpty })
  if ok then
    if p.cut then (s.mirrorPkt h p.id p.origin false).settle h p.id else s.launch h p.id
  else if begun then (if stomped then s else s.bump .crcBadPassed (subIx h p.input)).settle h p.id
  else if stomped then s.dropPkt h p.id
  else
    let s := match p.origin with
      | some b => s.bump .crcBad b
      | none => s
    let s := (s.bump .inCrcBad (subIx h p.input)).dropPkt h p.id
    if (p.copies ++ p.pendingCopies).any (fun c => c.dest == Dest.self) then s.askAgain p.hdr else s

/-- The rest of a packet arrives with its CRC-32 (08 R211, R212). -/
def State.receiveWhole (s : State) (h : Half) (p : Pkt) (rest : List Byte) (crc : U32) : State :=
  let n := 64 * (p.cells - 1)
  let rest := padTo n (rest.take n)
  let sum := crc32 (putBirth (p.payload.take 64) 30 p.birthIn ++ rest)
  let payload := p.payload.take 64 ++ rest
  let ok := crc == sum
  let stomped := crc == ~~~sum
  match p.origin.bind (fun b => (s.partOf b).map (fun e => (b, e.1))) with
  | some (b, n) =>
    let hd := p.hdr
    let bad := !hd.ok || cwColour p.cw == 3 || ((s.berth b).seen.any (fun d => d.role == 2) && cwVc p.cw % 2 == 1)
    let beyond := (p.credit.map (fun k => (s.half h).beyondCredit k p.cells)).getD 0
    let s := s.checkPacket n b p.cw hd payload crc bad ok stomped beyond
    (if ok then s else s.partAskAgain n b hd).dropPkt h p.id
  | none =>
    let s := match stomped, p.origin with
      | true, some b => (s.bump .stompedRx b).modBerth b (fun y => { y with stompSeen := true })
      | _, _ => s
    -- the BIRTH rewritten changes the CRC-32 by the difference it makes
    let q := { p with payload := payload, crc := crc ^^^ sum ^^^ crc32 payload, crcIn := crc }
    (s.modPkt h p.id (fun _ => q)).checkWhole h q ok stomped

/-- The last cell of a packet has crossed the bridge: its CRC-32 is checked again (09 R241). -/
def State.bridgeWhole (s : State) (h : Half) (p : Pkt) : State :=
  if p.payload.length < 64 * p.cells then s
  else (s.modPkt h p.id (fun q => { q with feeder := none })).checkWhole h p (p.crcIn == crc32 p.payload) false

/-- PACKET_RECEIVED_WHOLE. -/
def execPacketReceivedWhole (h : Half) (pid : Nat) (rest : List Byte) (crc : U32) (s : State) :
    Host.Outcome State Fault Refusal :=
  match (s.half h).pkt? pid with
  | some p =>
    if p.whole then .next s
    else if p.feeder.isSome then .next (s.bridgeWhole h p)
    else .next (s.receiveWhole h p rest crc)
  | none => .next s

/-- FREE_RING_FETCH: a free cache below 1,024 takes 1,024 entries from the ring head (09 R257); with a bad page the fetch is skipped and
counted, and an entry that is out of range or has a reserved bit set is discarded (09 R259). -/
def execFreeRingFetch (h : Half) (s : State) : Host.Outcome State Fault Refusal :=
  let p := (s.half h).pool
  if !p.built || p.p6 || decide (1024 ≤ p.cache.length) || decide (p.count < 1024) then .next s
  else if !p.spanOk p.head then .next (s.palletFault h .pageAlign 1)
  else
    let es := (rangeFrom p.head 1024).map (fun i => leNat ((s.quay h).readBytes (p.entryAt i) 4))
    let good := es.filter (fun e => decide (e < 184320))
    .next ((s.palletFault h .palletRange (1024 - good.length)).modHalf h (fun x => { x with pool := { x.pool with
      cache := x.pool.cache ++ good, head := (p.head + 1024) % 184320, count := p.count - 1024 } }))

/-- The number of bits set in the n low bits of a number. -/
def onesIn : Nat → Nat → Nat
  | 0, _ => 0
  | n + 1, x => if x = 0 then 0 else x % 2 + onesIn n (x / 2)

/-- Set free-map bits less the indices of the free store (09 R260). -/
def PalletSt.difference (p : PalletSt) : Int := Int.ofNat (onesIn 184320 p.map.toNat) - Int.ofNat p.free

/-- The comparison of the free map with the free store (09 R260). -/
def State.audit (s : State) (h : Half) : State :=
  if (s.half h).pool.difference = 0 then s else s.palletFault h .palletLeak 1

/-- FREE_MAP_AUDIT. -/
def execFreeMapAudit (h : Half) (s : State) : Host.Outcome State Fault Refusal := .next (s.audit h)

end Sys2Proof.Machine
end

