-- ==== Sys2Proof/Machine/Channels.lean ====
section
/-! DEFINITION. Mailbox channels: who sends and receives, receiver resets, and how a reply is posted (12 R315 to R325). -/

namespace Sys2Proof.Machine

/-! ## Status codes (12 Table 12-9) -/

def stMalformed : Nat := 1
def stDenied : Nat := 3
def stState : Nat := 4
def stBusy : Nat := 5
def stResource : Nat := 6
def stTiming : Nat := 7
def stPeer : Nat := 8
def stLocked : Nat := 9
def stAuth : Nat := 0xA
def stSecurity : Nat := 0xB
def stFaulted : Nat := 0xC

/-- The identity of the pair that the mastership latch names (12 Table 12-5). -/
def State.primaryId (s : State) : BitVec 4 := if s.sec.primaryB then 0xC else 0xB

/-- Does a bound identity stand for an identity? 0xF is the primary pair's alias (12 R321). -/
def State.isId (s : State) (bound who : BitVec 4) : Bool := bound == who || (bound == 0xF && who == s.primaryId)

def State.isSender (s : State) (ch : Nat) (who : BitVec 4) : Bool := (s.chan ch).bind.any (fun b => s.isId b.send who)
def State.isReceiver (s : State) (ch : Nat) (who : BitVec 4) : Bool := (s.chan ch).bind.any (fun b => s.isId b.recv who)

/-- Is this channel a UCI command channel (12 R322, R324): bound to the primary pair, and paired with a reply channel back? -/
def State.isCommand (s : State) (ch : Nat) : Bool :=
  match (s.chan ch).bind, (s.chan (ch + 1)).bind with
  | some b, some r => b.recv == 0xF && r.send == 0xF && r.recv == b.send
  | _, _ => false

/-- The bytes of a reply part (12 Table 12-8). -/
def Reply.bytes (r : Reply) (more : Bool) (body : List Byte) : List Byte :=
  leBytes 2 r.code.toNat ++ [(1 : Byte), if more then 3 else 1] ++ leBytes 4 r.tag.toNat ++ leBytes 2 body.length ++ leBytes 2 r.status.toNat
    ++ [r.job, BitVec.ofNat 8 r.part] ++ leBytes 2 0 ++ leBytes 8 r.accept.toNat
    ++ leBytes 8 (match r.effect with
      | some t => t.toNat
      | none => 2 ^ 64 - 1) ++ body

/-- The body bytes of a part (12 R325). -/
def partBytes : Nat := 4064

/-- Post the next part of the reply of a command channel, if its reply channel is free (12 R324, R325). -/
def State.postPart (s : State) (ch : Nat) : State :=
  match s.mbox.replies.find? (fun r => r.ch == ch) with
  | none => s
  | some r =>
    if (s.chan (ch + 1)).full then s
    else
      let more := decide (partBytes < r.body.length)
      let bytes := r.bytes more (r.body.take partBytes)
      let rest := if more then [{ r with body := r.body.drop partBytes, part := r.part + 1 }] else []
      (s.modMbox (fun m => { m with
        slots := m.slots.writeBytes (4096 * (ch + 1)) bytes,
        replies := m.replies.filter (fun x => x.ch != ch) ++ rest })).modChan (ch + 1) (fun c =>
          { c with full := true, len := BitVec.ofNat 13 bytes.length })

/-- A reply is made: its body is rounded up to whole words (12 R446), and it is posted, or waits for its channel. A reply of
an identity reset meanwhile is discarded (12 R324): its channel is none. -/
def State.pushReply (s : State) (r : Reply) : State :=
  if 64 ≤ r.ch then s
  else
    let body := padTo ((r.body.length + 3) / 4 * 4) r.body
    (s.modMbox (fun m => { m with replies := m.replies ++ [{ r with body := body }] })).postPart r.ch

/-- A receiver reset of the channels that a test picks by their binding (12 R319). -/
def State.resetChans (s : State) (f : Binding → Bool) : State :=
  s.modMbox (fun m => { m with chans := Tab.mapV m.chans (fun _ c =>
    if c.bind.any f then { c with full := false, aborted := true } else c) })

/-- A receiver reset of an identity: its channels clear, and replies to its commands are discarded, and so is the image
that it was loading at boot (12 R319, R324, 15 R391). -/
def State.receiverReset (s : State) (who : BitVec 4) : State :=
  let mine := fun (r : Reply) => s.isSender r.ch who
  (s.resetChans (fun b => s.isId b.recv who)).modMbox (fun m => { m with
    replies := m.replies.filter (fun r => !mine r),
    waiting := m.waiting.map (fun w => if mine w.reply then { w with reply := { w.reply with ch := 64 } } else w) })
    |>.modBoot (fun b => if b.waitHost && b.fwSize.isSome && b.fwWho == who.toNat then { b with fwSize := none, fwNext := 0, fwBuf := [] } else b)

end Sys2Proof.Machine
end

