-- ==== Sys2Proof/Machine/HoldMem.lean ====
section
/-! DEFINITION. The Hold as jobs read and write it, granules, and commands that wait for something (07 R171 to R173, 12
R324). -/

namespace Sys2Proof.Machine

/-! ## The Hold (07 R171 to R173) -/

/-- The granule of a Hold address: its stack and its number there (07 R171). -/
def granuleOf (addr : Nat) : Nat := addr / 2 ^ 21

/-- The last granule of a stack that can be given to jobs (07 R171). -/
def lastGranule : Nat := 45596

/-- Is a granule a job's? -/
def JobSt.owns (j : JobSt) (g : Nat) : Bool := j.granules.any (fun r => decide (r.1 ≤ g ∧ g < r.1 + r.2))

/-- Do n bytes from an address lie in a job's granules? -/
def JobSt.inHold (j : JobSt) (addr n : Nat) : Bool :=
  decide (addr + n ≤ 2 ^ 41) && (rangeFrom (granuleOf addr) (granuleOf (addr + n - 1) - granuleOf addr + 1)).all (fun g => j.owns g)

/-- A byte as a job's keys decrypt it: what was written under them, and otherwise a free value (07 R173; log entry 12). -/
def State.holdByte (s : State) (epoch : Option Nat) (a : Nat) : Byte :=
  match epoch, Tab.get? s.holdEpoch a with
  | some e, some w => if w = e then s.hold.read a else Config.holdOther a (w + 1) (e + 1)
  | some e, none => Config.holdOther a 0 (e + 1)
  | none, _ => Config.holdOther a 0 0

def State.holdRead (s : State) (job addr n : Nat) : List Byte :=
  (List.range n).map (fun i => s.holdByte (s.job job).keyEpoch (addr + i))

/-- Write bytes under a job's keys; a stack that a severe fault withdrew takes no writes (13 Table 13-5). -/
def State.holdWrite (s : State) (job addr : Nat) (bs : List Byte) : State :=
  match (s.job job).keyEpoch with
  | none => s
  | some e => if addr / 2 ^ 37 ∈ s.fault.badStacks then s else
    let ep := (rangeFrom addr bs.length).foldl (fun t a => Tab.set t a e) s.holdEpoch
    { s with hold := s.hold.writeBytes addr bs, holdEpoch := ep }

/-- The half of a Hold address: that of its stack (07 R171). -/
def holdHalf (addr : Nat) : Half := Half.ofNum (bitsOf addr 40 1)

/-- The row of a Hold address is entered in the field repair log (13 R359). -/
def State.logHoldRow (s : State) (a : Nat) : State :=
  s.logRepair 4 (a / 2 ^ 37) 0 (a % 2 ^ 37) (BitVec.ofNat 16 (srcHalf (holdHalf a) (28 + bitsOf a 37 3)))

/-- An uncorrectable error at a Hold address: the stack's line is raised with a DETAIL, and the row is entered in the field repair
log (13 R359, Tables 13-2, 13-7; log entry 73). -/
def State.holdError (s : State) (a : Nat) (detail : U64) : State :=
  (s.raiseWith (holdHalf a) (28 + bitsOf a 37 3) detail).logHoldRow a

/-- The Hold bytes of ranges as they stand, with the epochs they were written under. -/
def State.holdSaved (s : State) (rs : List (Nat × Nat)) : List (Nat × Byte × Option Nat) :=
  rs.flatMap (fun g => (rangeFrom g.1 g.2).map (fun a => (a, s.hold.read a, Tab.get? s.holdEpoch a)))

/-- Put saved bytes back, the first saved last. -/
def State.holdRestore (s : State) (l : List (Nat × Byte × Option Nat)) : State :=
  l.foldl (fun s e => { s with hold := s.hold.write e.1 e.2.1, holdEpoch := match e.2.2 with
    | some t => Tab.set s.holdEpoch e.1 t
    | none => Tab.erase s.holdEpoch e.1 }) s

/-! ## Shards and gathers (07 R178, R205) -/

/-- A shard's step ends with a status (07 Table 7-9). -/
def ShardSt.endStep (x : ShardSt) (status : BitVec 4) : ShardSt :=
  { x with status := status, state := if x.state = 2 then 1 else x.state }

/-- The outstanding gathers of a version. -/
def JobSt.outOf (j : JobSt) (v : TideNo) : Nat := ((j.outstanding.find? (fun e => e.1 == v)).map (fun e => e.2)).getD 0

def JobSt.setOut (j : JobSt) (v : TideNo) (n : Nat) : JobSt :=
  let rest := j.outstanding.filter (fun e => e.1 != v)
  { j with outstanding := if n = 0 then rest else rest ++ [(v, n)] }

/-- A gather of a version is accepted; its last packet has been read, or it is refused after all. -/
def State.gatherUp (s : State) (job : Nat) (v : TideNo) : State := s.modJob job (fun j => j.setOut v (j.outOf v + 1))
def State.gatherDown (s : State) (job : Nat) (v : TideNo) : State := s.modJob job (fun j => j.setOut v (j.outOf v - 1))

/-- Join a range of addresses to a list of ranges that do not touch. -/
def joinRange (l : List (Nat × Nat)) (a n : Nat) : List (Nat × Nat) :=
  let touch := l.filter (fun r => decide (r.1 ≤ a + n ∧ a ≤ r.1 + r.2))
  let lo := touch.foldl (fun m r => min m r.1) a
  let hi := touch.foldl (fun m r => max m (r.1 + r.2)) (a + n)
  (lo, hi - lo) :: l.filter (fun r => !decide (r.1 ≤ a + n ∧ a ≤ r.1 + r.2))

/-- The host has written a range of a job's Hold: its POISONED shards note it (07 R204). -/
def State.noteRewrite (s : State) (job addr n : Nat) : State :=
  { s with shards := Tab.mapV s.shards (fun _ x =>
      if x.state = 3 ∧ bitsOf x.cfg.ctl.toNat 24 6 = job then { x with rewritten := joinRange x.rewritten addr n } else x) }

/-! ## Quay allocations (12 R447) -/

/-- A job's allocation in a half, base and size, as the latest QUAY_ALLOC accepted leaves it: commands that name addresses of it
take effect no earlier (log entry 39). A pending size of 0 removes it. -/
def JobSt.quayOf (j : JobSt) (h : Half) : Option (Nat × Nat) :=
  let (cur, next) : Option (Nat × Nat) × Option (Nat × Nat) := match h with
    | .east => (j.quayE, j.pQuayE)
    | .west => (j.quayW, j.pQuayW)
  match next with
  | some (b, n) => if n = 0 then none else some (b, n)
  | none => cur

/-- Do n bytes from an offset lie in a job's allocation of a half? -/
def JobSt.inQuay (j : JobSt) (h : Half) (off n : Nat) : Bool :=
  match j.quayOf h with
  | some (base, size) => decide (base ≤ off ∧ off + n ≤ base + size)
  | none => false

/-- Do n bytes from a Quay address lie in a job's allocation? -/
def JobSt.inQuayAt (j : JobSt) (addr n : Nat) : Bool :=
  decide (addr < 2 ^ 34 ∧ bitsOf addr 0 33 + n ≤ 2 ^ 33) && j.inQuay (Half.ofNum (bitsOf addr 33 1)) (bitsOf addr 0 33) n

/-! ## Commands that wait (12 R324) -/

/-- What a command was waiting for has come: its reply is posted with a body. -/
def State.finishWait (s : State) (w : Await) (body : List Byte) : State :=
  match s.mbox.waiting.find? (fun x => x.what == w) with
  | none => s
  | some x => (s.modMbox (fun m => { m with waiting := m.waiting.filter (fun y => y.what != w) })).pushReply
      { x.reply with body := body }

/-- A command that waits is refused after all. Log entry 72. -/
def State.failWait (s : State) (w : Await) (status : Nat) : State :=
  (s.modMbox (fun m => { m with waiting := m.waiting.map (fun x =>
    if x.what = w then { x with reply := { x.reply with status := BitVec.ofNat 16 status, effect := none } } else x) })).finishWait w []

/-! ## Tile access (01 R20, 04 R115) -/

/-- Has a logical tile a live stream: does one that is LIVE hold windows on it? -/
def State.tileLive (s : State) (k : Nat) : Bool :=
  s.streams.any (fun e => e.2.state == .live && e.2.cfg.any (fun m => decide (k ∈ m.windowTiles)))

/-- A transfer of tile windows read by a command completes: its reply holds the raw words as they stand, without the range test of a
readout (log entry 80). A tile whose stream has gone LIVE meanwhile is not read (status STATE; log entry 81). -/
def State.finishTileRead (s : State) (id : Nat) : State :=
  match Tab.get? s.mbox.xfers id with
  | some (.tileRead k first count) =>
    let body := (rangeFrom first count).flatMap (fun i => leBytes 16 (Tab.get {} (s.tile k).windows i).image.toNat)
    let t := s.modMbox (fun m => { m with xfers := Tab.erase m.xfers id })
    if s.tileLive k then t.failWait (.transfer id) stState else t.finishWait (.transfer id) body
  | _ => s

end Sys2Proof.Machine
end

