-- ==== Sys2Proof/Machine/Engines.lean ====
section
/-! DEFINITION. The work of tiles: admission, placement, the fixed tree, spills, conversion, drains and overruns (02 R48 to
R52, 04). Readings: log entries 30, 66 and 68. -/

namespace Sys2Proof

/-- The key of a chunk's slot on a tile: its chunk slot, or beyond 15 where an engine's tile 0 only passes partials on. -/
def ManifestCfg.slotKey (m : ManifestCfg) (sid tile c : Nat) : Nat :=
  if tile ∈ m.slotTiles then m.slotOf c else 16 + 16 * sid + m.slotOf c

/-- The encoding of a carry partial: elements, 64-bit words or exact value words (04 R101, R102, R105). -/
def ManifestCfg.carryEnc (m : ManifestCfg) : Nat :=
  if m.isExact then 2 else match m.outFmt.carry with
    | some _ => 0
    | none => 1

/-- The format code of a carry partial's elements (04 Table 4-7). -/
def ManifestCfg.carryCode (m : ManifestCfg) : Nat :=
  if m.carryEnc ≠ 0 then 0 else if m.outFmt.carry = some .bf16 then 7 else 9

/-- The COARSE of a carry partial (04 R101, 08 R214). -/
def ManifestCfg.carryCoarse (m : ManifestCfg) : Nat := if m.isExact then 0x3F80 else ((m.cexp + 127) * 128).toNat

/-- The byte offset, in the Quay of a leaf tile's half, of the spill store of a chunk on it (05 R119: 64 KiB per leaf tile per chunk
slot); none for a tile without one. Log entry 78. -/
def ManifestCfg.storeAt (m : ManifestCfg) (k c : Nat) : Option Nat :=
  if m.spillAddr = 0 ∨ k ∉ m.leaves then none
  else some (m.spillAddr.toNat + 65536 * ((m.leavesOf (Machine.tileHalf k)).idxOf k * m.slotCount + c % m.slotCount))

/-- The local members of a leaf tile. -/
def ManifestCfg.membersAt (m : ManifestCfg) (k : Nat) : List Nat := (List.range m.nMembers).filter (fun r => m.leafOf r == k)

end Sys2Proof

namespace Sys2Proof.Machine

/-! ## Streams and chunks -/

def StreamSt.chunk (x : StreamSt) (c : Nat) : ChunkSt := Tab.get {} x.chunks c

def State.modChunk (s : State) (n c : Nat) (f : ChunkSt → ChunkSt) : State :=
  s.modStream n (fun x => { x with chunks := Tab.upd {} x.chunks c f })

def State.modStat (s : State) (n : Nat) (h : Half) (f : StreamStat → StreamStat) : State :=
  s.modStream n (fun x => match h with
    | .east => { x with statE := f x.statE }
    | .west => { x with statW := f x.statW })

/-- The status that a stream's home half keeps (05 R144). -/
def StreamSt.homeStat (x : StreamSt) : StreamStat :=
  match x.home with
  | .east => x.statE
  | .west => x.statW

/-- Ask for an abort or a poisoning at the next boundary: the lower status wins (05 R142). -/
def State.askAbort (s : State) (n : Nat) (r : AbortReq) : State :=
  s.modStream n (fun x => match x.pAbort with
    | some q => if r.status < q.status then { x with pAbort := some r } else x
    | none => { x with pAbort := some r })

/-- A fault met in a window of a chunk: the engine's line is raised, and the chunk is poisoned, so that no value of its windows is
released or carried (04 R92, 05 R137, 13 Table 13-7). -/
def State.tileFault (s : State) (k n c window : Nat) (residue : Bool) : State :=
  let s := s.raiseWith (tileHalf k) (s.physEng (tileHalf k) (tileEng k))
    (engineDetail (s.tile k).phys (if residue then 2 else 1) (window % 65536) n)
  if (s.stream n).state = .live then
    (s.modChunk n c (fun ch => { ch with bad := true })).askAbort n ⟨2, BitVec.ofNat 16 c, 0xFF, false, none⟩
  else s

/-- The fault that work on a chunk met, if any; j is the tile below, for a combine. -/
def State.workFault (s : State) (k j n : Nat) (m : ManifestCfg) (c : Nat) (err : Option TileFault) : State :=
  match err with
  | none => s
  | some f =>
    let t := if f.below then j else k
    s.tileFault t n c (4096 * m.slotKey n t c + f.elem.toNat) f.residue

/-- The packet of a number, with its half. -/
def State.findPkt (s : State) (pid : Nat) : Option (Half × Pkt) :=
  match s.east.pkt? pid with
  | some p => some (.east, p)
  | none => (s.west.pkt? pid).map (fun p => (.west, p))

/-- The header of a cell's packet. -/
def State.cellHdr (s : State) (w : CellWork) : Hdr := Hdr.ofBytes (((s.findPkt w.pid).map (fun e => e.2.payload)).getD [])

/-- The switch has taken a packet addressed to itself: its copy there ends (09 R256). -/
def State.consume (s : State) (h : Half) (pid : Nat) : State :=
  match ((s.half h).pkt? pid).bind (fun p => p.copies.find? (fun c => c.dest == Dest.self)) with
  | some c => s.dropCopy h pid c.order
  | none => s

/-- The cells of a packet are discarded wherever they wait. -/
def State.dropCells (s : State) (pid : Nat) : State :=
  { s with tiles := Tab.mapV s.tiles (fun _ t => { t with cells := t.cells.filter (fun w => w.pid != pid) }),
           streams := Tab.mapV s.streams (fun _ x => { x with parkedCells := x.parkedCells.filter (fun w => w.pid != pid) }) }

/-! ## Inputs and slots -/

/-- Rows of a chunk of n elements, at row length d. -/
def rowsOf (n d : Nat) : Nat := (n + d - 1) / d

/-- Has every block of an input arrived (05 R129)? The row statistics of an LSE input are a second range. -/
def State.inputFull (s : State) (n : Nat) (m : ManifestCfg) (c rank : Nat) : Bool :=
  let ch := (s.stream n).chunk c
  let has := fun (k w : Nat) => (Tab.get 0 ch.masks k).toNat == 2 ^ w - 1
  has rank ((m.chunkLen c + 31) / 32)
    && (!m.isLse || (ch.rowLen != 0 && has (rank + 256) ((2 * rowsOf (m.chunkLen c) ch.rowLen + 31) / 32)))

/-- Is every element of an input placed on its tile? -/
def State.placed (s : State) (n : Nat) (m : ManifestCfg) (c k rank : Nat) : Bool :=
  s.inputFull n m c rank && (s.tile k).cells.all (fun w =>
    !(w.sid == n && (s.cellHdr w).chunk == c && (s.cellHdr w).rank == rank))

/-- The slot that a chunk holds on a tile. -/
def State.slot? (s : State) (n : Nat) (m : ManifestCfg) (c k : Nat) : Option ChunkSlot :=
  (Tab.get? (s.tile k).slots (m.slotKey n k c)).filter (fun sl => sl.sid == n && sl.chunk == c)

def State.modSlot (s : State) (n : Nat) (m : ManifestCfg) (c k : Nat) (f : ChunkSlot → ChunkSlot) : State :=
  s.modTile k (fun t => match Tab.get? t.slots (m.slotKey n k c) with
    | some sl => { t with slots := Tab.set t.slots (m.slotKey n k c) (f sl) }
    | none => t)

/-- Are a tile's own members placed and its children combined (04 R98)? -/
def State.treeDone (s : State) (n : Nat) (m : ManifestCfg) (c k : Nat) : Bool :=
  match s.slot? n m c k with
  | none => false
  | some sl => (m.membersAt k).all (fun r => s.placed n m c k r) && (m.kids k).all (fun j => j ∈ sl.combined)

/-- Copy a slot's entries to another slot's keys. -/
def Tab.moveKey {α : Type} (l : Tab α) (sk dk : Nat) (into : Tab α) : Tab α :=
  (l.filter (fun e => e.1 / 4096 == sk)).foldl (fun w e => Tab.set w (4096 * dk + e.1 % 4096) e.2) into

/-- The entries of every slot but one. -/
def Tab.dropKey {α : Type} (l : Tab α) (key : Nat) : Tab α := l.filter (fun e => e.1 / 4096 != key)

/-- Remove a slot's windows, words and rows from a tile. -/
def TileSt.clearKey (t : TileSt) (key : Nat) : TileSt :=
  { t with windows := Tab.dropKey t.windows key, exact := Tab.dropKey t.exact key, rows := Tab.dropKey t.rows key }

/-- Free a chunk's slots (05 R132). Their windows read 0 from then on, not only once allocated anew (log entry 82). -/
def State.freeSlots (s : State) (n : Nat) (m : ManifestCfg) (c : Nat) : State :=
  m.windowTiles.foldl (fun s k =>
    match s.slot? n m c k with
    | none => s
    | some _ => s.modTile k (fun t => { t.clearKey (m.slotKey n k c) with slots := Tab.erase t.slots (m.slotKey n k c) })) s

/-- Allocate a chunk's slots: windows and spill store read 0 (04 R87, R94, 05 R127); accepted cells that waited move to
their tile. Log entry 63. -/
def State.allocSlots (s : State) (n : Nat) (m : ManifestCfg) (c : Nat) : State :=
  let s := m.windowTiles.foldl (fun s k => s.modTile k (fun t =>
    { t.clearKey (m.slotKey n k c) with slots := Tab.set t.slots (m.slotKey n k c) { sid := n, chunk := c } })) s
  let s := m.leaves.foldl (fun s k => match m.storeAt k c with
    | some a => s.modQuay (tileHalf k) (fun q => q.zeroRange a 65536)
    | none => s) s
  let (go, stay) := (s.stream n).parkedCells.partition (fun w => (s.cellHdr w).chunk == c)
  let s := s.modStream n (fun x => { x with parkedCells := stay })
  go.foldl (fun s w => s.modTile (m.tileOf (s.cellHdr w).rank) (fun t => { t with cells := t.cells ++ [w] })) s

/-! ## Admission (02 R48, R49) -/

/-- The work region: its first cycle and the cycle after its last. -/
def TideSt.regionStart (t : TideSt) : Nat := if t.relockTide then 96 else 96 + t.len - 4000
def TideSt.regionEnd (t : TideSt) : Nat := if t.relockTide then 4000 else t.len

/-- Can work of a cost start on a tile at a cycle? -/
def State.fits (s : State) (k cyc cost : Nat) : Bool :=
  s.tide.running && decide (s.tide.regionStart ≤ cyc ∧ cyc + cost ≤ s.tide.regionEnd ∧ cost ≤ (s.tile k).budget)

/-- Admit a unit of work on a tile. -/
def State.charge (s : State) (k cost : Nat) (unit : TileWork) : State :=
  s.modTile k (fun t => { t with budget := t.budget - cost, busy := t.busy + cost, running := some unit })

def costCombine : Nat := 16
def costConvert : Nat := 40
def costDrain : Nat := 18
def costSpill : Nat := 32

/-- Is an output conversion ready: every input of the chunk placed and combined, and the fused operand loaded? -/
def State.convReady (s : State) (n : Nat) (m : ManifestCfg) (c : Nat) : Bool :=
  let x := s.stream n
  let ch := x.chunk c
  x.state == .live && !ch.converted && !ch.bad && s.treeDone n m c m.root
    && ((s.inputs n m c).filter (fun r => 0xF0 ≤ r)).all (fun r => s.placed n m c m.root r)
    && (m.fuse == 0 || ch.fuseLoaded || s.role n m c != .release)

/-- The tree child that a tile combines next, once its partial is whole (04 R98). -/
def State.nextKid (s : State) (n : Nat) (m : ManifestCfg) (c k : Nat) : Option Nat :=
  match s.slot? n m c k with
  | none => none
  | some sl =>
    match (m.kids k).find? (fun j => j ∉ sl.combined) with
    | none => none
    | some j =>
      if (s.stream n).state == .live && s.treeDone n m c j
          && (!m.isLse || (m.membersAt k).all (fun r => s.placed n m c k r)) then some j else none

/-- Would combining a partial take a window above K (04 R93)? -/
def State.combineOver (s : State) (n : Nat) (m : ManifestCfg) (c k j : Nat) : Bool :=
  match s.slot? n m c k, s.slot? n m c j with
  | some d, some p => m.op == 1 && !p.spilled && p.counts.any (fun e => decide (m.k < Tab.get 0 d.counts e.1 + e.2))
  | _, _ => false

/-- The cost of a combine: that of a spill for a partial that has spilled (04 R95). -/
def State.combineCost (s : State) (n : Nat) (m : ManifestCfg) (c j : Nat) : Nat :=
  if (s.slot? n m c j).any (fun p => p.spilled) then costSpill else costCombine

/-- The elements of a packet whose last bit lies in body cell i. -/
def Hdr.cellElems (hd : Hdr) (i : Nat) : List Nat :=
  let w := ((Fmt.ofCode hd.fmt).map Fmt.width).getD 1
  (List.range hd.elems).filter (fun j => match hd.enc with
    | 0 => (w * (j + 1) - 1) / 512 + 1 == i
    | 1 => j / 8 + 1 == i
    | 2 => j / 5 + 1 == i
    | _ => false)

/-- Would a cell's placements take a window above K (04 R93)? -/
def State.cellOver (s : State) (n : Nat) (m : ManifestCfg) (hd : Hdr) (k i : Nat) : Bool :=
  match s.slot? n m hd.chunk k with
  | none => false
  | some sl => m.op == 1 && (hd.cellElems i).any (fun j => decide (m.k ≤ Tab.get 0 sl.counts (hd.off + j)))

/-- Is a waiting cell of the current run? -/
def State.cellFresh (s : State) (w : CellWork) : Bool :=
  (s.stream w.sid).state == .live && (s.stream w.sid).gen == w.gen

/-- Has a cell's turn come on its tile: a ring or child cell's after the root's own combines (04 R98), and a child's after the children
below it (06 R163)? -/
def State.cellTurn (s : State) (n : Nat) (m : ManifestCfg) (hd : Hdr) (k : Nat) : Bool :=
  decide (hd.rank < 0xF0) || (s.treeDone n m hd.chunk k
    && (hd.rank == 0xF8 || (rangeFrom 0xF0 (hd.rank - 0xF0)).all (fun r => s.placed n m hd.chunk k r)))

/-- Can a waiting cell be admitted: in its turn, and no cell that needs a spill first? A cell of an ended run is admitted to be dropped. -/
def State.cellReady (s : State) (k : Nat) (w : CellWork) : Bool :=
  if !s.cellFresh w then true
  else
    match s.mfst w.sid with
    | none => true
    | some m =>
      let hd := s.cellHdr w
      s.cellTurn w.sid m hd k && !s.cellOver w.sid m hd k w.idx

/-- The first admissible cell of a tile, in arrival order. -/
def State.nextCell (s : State) (k : Nat) : Option CellWork := (s.tile k).cells.find? (fun w => s.cellReady k w)

/-- Must work of a rank (1 conversions, 2 combines, 3 cells, 4 recipe operations) wait for work that comes before it? Log entry 66. -/
def State.blocked (s : State) (k cyc rank : Nat) : Bool :=
  let t := s.tile k
  let mine := s.streams.filterMap (fun e => e.2.cfg.map (fun m => (e.1, m, e.2)))
  t.draining.isSome || (!t.drainsWaiting.isEmpty && s.fits k cyc costDrain)
    || (decide (2 ≤ rank) && s.fits k cyc costConvert && mine.any (fun e => e.2.1.root == k
      && e.2.2.chunks.any (fun c => s.convReady e.1 e.2.1 c.1)))
    || (decide (3 ≤ rank) && mine.any (fun e => decide (k ∈ e.2.1.windowTiles) && e.2.2.chunks.any (fun c =>
      (s.nextKid e.1 e.2.1 c.1 k).any (fun j => !s.combineOver e.1 e.2.1 c.1 k j
        && s.fits k cyc (s.combineCost e.1 e.2.1 c.1 j)))))
    || (decide (4 ≤ rank) && s.fits k cyc 1 && (s.nextCell k).isSome)

/-! ## Contribution cells (04 R88, R104, R107, 07 R198 to R200) -/

/-- The exact value of element j of a contribution or carry packet (04 R88, R102). -/
def Pkt.value (p : Pkt) (m : ManifestCfg) (j : Nat) : Val :=
  let hd := p.hdr
  let body := p.payload.drop 64
  if hd.enc = 1 then word64Val m.cexp (field body (8 * j) 8)
  else
    let f := (Fmt.ofCode hd.fmt).getD .fp32
    let w := f.width
    let bits := bitsOf (field body (w * j / 8) 5) (w * j % 8) w
    inputValue f bits (field p.payload (64 * (1 + hd.body) + j / 32) 1) hd.coarse

/-- The exact value word of element j: of a member with its index, or as carried (04 R104, R105). -/
def Pkt.exactValue (p : Pkt) (m : ManifestCfg) (jobRank j : Nat) : ExactVal :=
  let hd := p.hdr
  if hd.enc = 2 then ExactVal.ofBytes ((p.payload.drop (64 + 64 * (j / 5) + 12 * (j % 5))).take 12)
  else
    let v := p.value m j
    ExactVal.ofVal (if m.op = 4 then v.abs else v)
      (BitVec.ofNat 32 (jobRank * m.indexStride.toNat + 4096 * hd.chunk + hd.off + j)) (some jobRank)

/-- Is a block or chunk selected by its draw: the low k bits of bits [31:16] all 0 (07 R198, R200)? -/
def State.selected (s : State) (job key index k : Nat) : Bool :=
  (cbDraw (s.job job).seed (s.job job).step key index).toNat / 65536 % 2 ^ k == 0

/-- The tasted blocks among a stream's elements lo to lo + n - 1, by their first element. -/
def State.tasted (s : State) (n : Nat) (m : ManifestCfg) (blocks : List Nat) : List Nat :=
  let k := (s.job m.job).tasteK
  if k = 0 ∨ m.isLse then [] else blocks.filter (fun b => s.selected m.job n (32 * b) k)

/-- Is a chunk sampled for the noise statistics (07 R200)? -/
def State.noisy (s : State) (n : Nat) (m : ManifestCfg) (c : Nat) : Bool :=
  match (s.stream n).noise with
  | some (j, key) => m.op == 1 && s.selected m.job key.toNat (4096 * c) j
  | none => false

/-- Add the square of an exact value to a sum; a special value makes the sum special (03 R65). -/
def addSquare (a : ExactVal) (v : Val) : ExactVal :=
  let q := a.val.add (v.mul v)
  { special := q.special, sig := q.sig, exp := q.e }

/-- Merge the members that a leaf tile holds, once all are there (04 R109). -/
def ChunkSlot.leafTriples (sl : ChunkSlot) (len d : Nat) (ranks : List Nat) : List Triple :=
  ranks.map (fun r =>
    let o := sl.lseO.filter (fun e => e.1 == r)
    let st := sl.lseS.filter (fun e => e.1 == r)
    let stat := fun i => ((st.find? (fun e => e.2.1 == i)).map (fun e => e.2.2)).getD 0
    { o := (List.range len).map (fun n => ((o.find? (fun e => e.2.1 == n)).map (fun e => e.2.2.val)).getD {}),
      m := (List.range (rowsOf len d)).map (fun i => stat (2 * i)),
      l := (List.range (rowsOf len d)).map (fun i => fp32Val (stat (2 * i + 1)).toNat) })

/-- Store a merged partial in a slot's windows and rows. -/
def TileSt.putPartial (t : TileSt) (key : Nat) (r : List Window × List U32 × List Window) : TileSt :=
  let t := t.clearKey key
  { t with windows := (List.range r.1.length).foldl (fun w i => Tab.set w (4096 * key + i) (r.1.getD i {})) t.windows,
           rows := (List.range r.2.1.length).foldl (fun w i =>
             Tab.set w (4096 * key + i) ⟨r.2.1.getD i 0, r.2.2.getD i {}⟩) t.rows }

/-- Read a partial from a slot's windows and rows, and whether any was clamped. -/
def TileSt.readPartial (t : TileSt) (key len d : Nat) (cexp : Int) : Triple × Bool :=
  let o := (List.range len).map (fun i => (Tab.get {} t.windows (4096 * key + i)).read 0 cexp)
  let rw := (List.range (rowsOf len d)).map (fun i => Tab.get {} t.rows (4096 * key + i))
  let l := rw.map (fun x => x.l.read 0 24)
  (⟨o.map (fun x => x.1), rw.map (fun x => x.m), l.map (fun x => x.1)⟩, (o ++ l).any (fun x => x.2))

/-- The leaf's merge when its last member is placed. -/
def State.mergeLeaf (s : State) (n : Nat) (m : ManifestCfg) (c k : Nat) : State :=
  match s.slot? n m c k with
  | none => s
  | some sl =>
    let ranks := m.membersAt k
    if sl.merged || ranks.isEmpty || !ranks.all (fun r => s.placed n m c k r) then s
    else
      let d := ((s.stream n).chunk c).rowLen
      let r := lseMerge d m.cexp (sl.leafTriples (m.chunkLen c) d ranks)
      let s := s.modTile k (fun t => t.putPartial (m.slotKey n k c) r)
      s.modSlot n m c k (fun sl => { sl with merged := true, lseO := sl.lseO.filter (fun e => decide (0xF0 ≤ e.1)),
                                             lseS := sl.lseS.filter (fun e => decide (0xF0 ≤ e.1)) })

/-- Place one element of a packet on a tile. -/
def State.placeElem (s : State) (n : Nat) (m : ManifestCfg) (p : Pkt) (jobRank k j : Nat) : State :=
  let hd := p.hdr
  let c := hd.chunk
  let i := hd.off + j
  let at_ := 4096 * m.slotKey n k c + i
  if m.isExact then
    let v := p.exactValue m jobRank j
    s.modTile k (fun t => { t with exact := Tab.set t.exact at_ (match Tab.get? t.exact at_ with
      | some o => ExactVal.win (m.op == 3) o v
      | none => v) })
  else if m.isLse then
    let v := p.value m j
    if hd.seg = 2 then
      s.modSlot n m c k (fun sl => { sl with lseS := sl.lseS ++ [(hd.rank, i, BitVec.ofNat 32 (toFp32 0 0 v))] })
    else s.modSlot n m c k (fun sl => { sl with lseO := sl.lseO ++ [(hd.rank, i, { special := v.special, sig := v.sig, exp := v.e })] })
  else
    let v := p.value m j
    let s := s.modTile k (fun t => { t with windows := Tab.upd {} t.windows at_ (fun w => w.place v m.cexp) })
    let s := s.modSlot n m c k (fun sl => { sl with counts := Tab.upd 0 sl.counts i (fun x => x + 1) })
    if hd.rank < 0xF0 && s.noisy n m c then s.modStream n (fun x => { x with noiseS := addSquare x.noiseS v }) else s

/-- A packet's cell leaves its tile's queue: every 16 cells, and with the last, its pallets are freed (05 R124). -/
def State.cellTaken (s : State) (k : Nat) (w : CellWork) : State :=
  let s := s.modTile k (fun t => { t with cells := t.cells.erase w })
  match s.findPkt w.pid with
  | none => s
  | some (h, p) =>
    if w.idx + 1 = p.cells then s.consume h w.pid
    else if (w.idx + 1) % 16 = 0 then
      match p.copies.find? (fun c => c.dest == Dest.self) with
      | some c =>
        ((s.dropRefs h ((p.heldBy c).take 1)).modPkt h w.pid (fun q => { q with copies := q.copies.map (fun d =>
          if d.order = c.order then { d with left := d.left - 16 } else d) })).settle h w.pid
      | none => s
    else s

/-- The extra cycles of a cell: 2 for each tasted block, 1 for a body cell of a sampled chunk (07 R199, R200). -/
def State.cellExtra (s : State) (w : CellWork) : Nat :=
  match s.mfst w.sid with
  | none => 0
  | some m =>
    let hd := s.cellHdr w
    let blocks := ((hd.cellElems w.idx).map (fun j => (4096 * hd.chunk + hd.off + j) / 32)).foldl (fun l b => insertNew b l) []
    2 * (s.tasted w.sid m blocks).length
      + (if 1 ≤ w.idx ∧ w.idx ≤ hd.body ∧ hd.rank < 0xF0 ∧ s.noisy w.sid m hd.chunk then 1 else 0)

/-- CONTRIBUTION_CELL: the first admissible cell of a tile is admitted; its GEN is checked again, and its elements are
placed (05 R124, 04 R88). -/
def execContributionCell (h : Half) (eng : Fin 20) (tile : Fin 8) (cyc : Nat) (err : Option TileFault) (s : State) :
    Host.Outcome State Fault Refusal :=
  let k := tileKey h eng.val tile.val
  if s.blocked k cyc 3 then .next s
  else
    match s.nextCell k with
    | none => .next s
    | some w =>
      let cost := 1 + (if s.cellFresh w then s.cellExtra w else 0)
      if !s.fits k cyc cost then .next s
      else
        match s.mfst w.sid, s.findPkt w.pid with
        | some m, some (ph, p) =>
          if s.cellFresh w then
            let hd := p.hdr
            let jr := (s.rankEntry h m hd.rank).2
            let s := s.charge k cost (.chunk w.sid hd.chunk)
            let s := (hd.cellElems w.idx).foldl (fun s j => s.placeElem w.sid m p jr k j) s
            let s := s.cellTaken k w
            let s := if m.isLse then s.mergeLeaf w.sid m hd.chunk k else s
            .next (s.workFault k k w.sid m hd.chunk err)
          else
            let s := (s.charge k cost .other).modStat w.sid ph (fun x => { x with stale := satAdd 32 x.stale 1 })
            .next ((s.dropCells w.pid).consume ph w.pid)
        | _, _ => .next (s.modTile k (fun t => { t with cells := t.cells.erase w }))

/-! ## Spills (04 R93, R94) -/

/-- The spill store word of an element of a chunk slot on a tile (04 Table 4-6). -/
def State.storeWord (s : State) (m : ManifestCfg) (sl : ChunkSlot) (k i : Nat) : SpillWord :=
  match m.storeAt k sl.chunk with
  | some a => SpillWord.ofBytes ((s.quay (tileHalf k)).readBytes (a + 16 * i) 16)
  | none => Tab.get {} sl.store i

/-- Write a spill store word. -/
def State.putWord (s : State) (n : Nat) (m : ManifestCfg) (c k i : Nat) (w : SpillWord) : State :=
  match m.storeAt k c with
  | some a => s.modQuay (tileHalf k) (fun q => q.writeBytes (a + 16 * i) w.bytes)
  | none => s.modSlot n m c k (fun sl => { sl with store := Tab.set sl.store i w })

/-- What the windows of a slot add to a store. -/
def TileSt.spillAdds (t : TileSt) (key : Nat) : List (Nat × SpillAdd) :=
  (t.windows.filter (fun e => e.1 / 4096 == key)).map (fun e => (e.1 % 4096, e.2.spillAdd))

/-- What a partial that has spilled adds to a store: for each element its store word and its window together (04 R95). -/
def State.partialAdds (s : State) (n : Nat) (m : ManifestCfg) (c k : Nat) (sl : ChunkSlot) : List (Nat × SpillAdd) :=
  (List.range (m.chunkLen c)).map (fun i =>
    (i, (s.storeWord m sl k i).spillAdd.join (Tab.get {} (s.tile k).windows (4096 * m.slotKey n k c + i)).spillAdd))

/-- A spill of a chunk on a tile is counted. -/
def State.noteSpill (s : State) (n : Nat) (m : ManifestCfg) (c k : Nat) : State :=
  (s.modSlot n m c k (fun sl => { sl with spilled := true, spills := sl.spills + 1 })).modStat n (tileHalf k)
    (fun x => { x with spills := satAdd 32 x.spills 1 })

/-- An addition into a chunk's spill store, with the limits of R94, tested on the whole of each element's addition. -/
def State.intoStore (s : State) (n : Nat) (m : ManifestCfg) (c k : Nat) (adds : List (Nat × SpillAdd)) (after : State → State) : State :=
  match s.slot? n m c k with
  | none => s
  | some sl =>
    if sl.spills < 2 ^ 20 && adds.all (fun e => (s.storeWord m sl k e.1).fits e.2) then
      after ((adds.foldl (fun (s : State) e => s.putWord n m c k e.1 ((s.storeWord m sl k e.1).add e.2)) s).noteSpill n m c k)
    else s.askAbort n ⟨5, BitVec.ofNat 16 c, 0xFF, false, none⟩

/-- Spill a chunk's windows on a tile (04 R93). -/
def State.spillSlot (s : State) (n : Nat) (m : ManifestCfg) (c k : Nat) : State :=
  let key := m.slotKey n k c
  s.intoStore n m c k ((s.tile k).spillAdds key) (fun s =>
    (s.modTile k (fun t => { t with windows := t.windows.filter (fun e => e.1 / 4096 != key) })).modSlot n m c k
      (fun sl => { sl with counts := [] }))

/-- Spill and resume a chunk whose words are no sums: MAX, MIN, AMAX and LSE (04 R100; Table 4-6 gives them no store word, log entry
83). It counts against the limit of R94, and no word changes. -/
def State.respill (s : State) (n : Nat) (m : ManifestCfg) (c k : Nat) : State :=
  match s.slot? n m c k with
  | none => s
  | some sl =>
    if sl.spills < 2 ^ 20 then
      (s.modSlot n m c k (fun sl => { sl with spills := sl.spills + 1 })).modStat n (tileHalf k) (fun x => { x with spills := satAdd 32 x.spills 1 })
    else s.askAbort n ⟨5, BitVec.ofNat 16 c, 0xFF, false, none⟩

/-- Does some waiting cell or combine of a slot's chunk need a spill first? -/
def State.needsSpill (s : State) (m : ManifestCfg) (sl : ChunkSlot) (k : Nat) : Bool :=
  (s.tile k).cells.any (fun w => w.sid == sl.sid && s.cellFresh w && (s.cellHdr w).chunk == sl.chunk
      && s.cellTurn sl.sid m (s.cellHdr w) k && s.cellOver sl.sid m (s.cellHdr w) k w.idx)
    || (s.nextKid sl.sid m sl.chunk k).any (fun j => s.combineOver sl.sid m sl.chunk k j)

/-- SPILL: a chunk whose next placement or combine would take a leaf count above K is spilled. -/
def execSpill (h : Half) (eng : Fin 20) (tile : Fin 8) (slot : Fin 16) (cyc : Nat) (err : Option TileFault) (s : State) :
    Host.Outcome State Fault Refusal :=
  let k := tileKey h eng.val tile.val
  if s.blocked k cyc 2 || !s.fits k cyc costSpill then .next s
  else
    match (s.tile k).slots.find? (fun e => e.1 % 16 == slot.val
        && (s.mfst e.2.sid).any (fun m => (s.stream e.2.sid).state == .live && s.needsSpill m e.2 k)) with
    | none => .next s
    | some (_, sl) =>
      match s.mfst sl.sid with
      | none => .next s
      | some m => .next (((s.charge k costSpill (.chunk sl.sid sl.chunk)).spillSlot sl.sid m sl.chunk k).workFault k k sl.sid m sl.chunk err)

/-! ## The fixed tree (04 R98, R95, R109) -/

/-- Add the partial of tile j into tile k. -/
def State.combinePartial (s : State) (n : Nat) (m : ManifestCfg) (c k j : Nat) : State :=
  let dk := m.slotKey n k c
  let sk := m.slotKey n j c
  let src := s.tile j
  let note := fun (s : State) => s.modSlot n m c k (fun sl => { sl with combined := sl.combined ++ [j] })
  match s.slot? n m c j, s.slot? n m c k with
  | some p, some d =>
    if m.isExact then
      let join := fun (x : Tab ExactVal) => (src.exact.filter (fun e => e.1 / 4096 == sk)).foldl (fun w e =>
        let a := 4096 * dk + e.1 % 4096
        Tab.set w a (match Tab.get? w a with
          | some o => ExactVal.win (m.op == 3) o e.2
          | none => e.2)) x
      note (s.modTile k (fun t => { t with exact := join t.exact }))
    else if m.isLse then
      let len := m.chunkLen c
      let rl := ((s.stream n).chunk c).rowLen
      let (b, satB) := src.readPartial sk len rl m.cexp
      if d.merged then
        let (a, satA) := (s.tile k).readPartial dk len rl m.cexp
        let s := s.modTile k (fun t => t.putPartial dk (lseMerge rl m.cexp [a, b]))
        note (if satA || satB then s.modStat n m.home (fun x => { x with sat := true }) else s)
      else
        let s := s.modTile k (fun t =>
          { t with windows := Tab.moveKey src.windows sk dk t.windows, rows := Tab.moveKey src.rows sk dk t.rows })
        note (s.modSlot n m c k (fun sl => { sl with merged := p.merged }))
    else if p.spilled then
      s.intoStore n m c k (s.partialAdds n m c j p) note
    else
      let join := fun (x : Tab Window) => (src.windows.filter (fun e => e.1 / 4096 == sk)).foldl (fun w e =>
        Tab.upd {} w (4096 * dk + e.1 % 4096) (fun x => x.combine e.2)) x
      let sum := fun (x : Tab Nat) => p.counts.foldl (fun t e => Tab.upd 0 t e.1 (fun v => v + e.2)) x
      let s := s.modTile k (fun t => { t with windows := join t.windows })
      note (s.modSlot n m c k (fun sl => { sl with counts := sum sl.counts }))
  | _, _ => s

/-- TREE_COMBINE: the partial of a tile is combined into the tile above it, in the fixed tree's order. -/
def execTreeCombine (sid : Sid) (chunk : U16) (srcHalf : Half) (srcEng : Fin 20) (srcTile : Fin 8) (cyc : Nat)
    (err : Option TileFault) (s : State) :
    Host.Outcome State Fault Refusal :=
  let n := sid.toNat
  let c := chunk.toNat
  let j := tileKey srcHalf srcEng.val srcTile.val
  match s.mfst n with
  | none => .next s
  | some m =>
    match m.windowTiles.find? (fun k => s.nextKid n m c k == some j) with
    | none => .next s
    | some k =>
      let cost := s.combineCost n m c j
      if s.blocked k cyc 2 || s.combineOver n m c k j || !s.fits k cyc cost then .next s
      else .next (((s.charge k cost (.chunk n c)).combinePartial n m c k j).workFault k j n m c err)

/-! ## Output conversion (04 R101 to R113) -/

/-- Cut elements into packets of at most `per`, from element off0 of the chunk. -/
def outPkts (base : Hdr) (off0 per : Nat) (pack : List Nat → List Byte) (fine : List Nat) (xs : List Nat) : List OutPkt :=
  (chunksOf per xs.length xs).zipIdx.map (fun y =>
    let off := off0 + per * y.2
    let bytes := pack y.1
    let nb := (bytes.length + 63) / 64
    let fs := (fine.drop (per * y.2 / 32)).take (y.1.length / 32)
    let ns := (fs.length + 63) / 64
    let hd := { base with off := off, elems := y.1.length, body := nb, scales := ns }
    ⟨off, base.seg, hd.bytes ++ padTo (64 * nb) bytes ++ padTo (64 * ns) (fs.map (fun x => BitVec.ofNat 8 x))⟩)

/-- Elements of a width in the largest packet, a multiple of 32 (08 R213, Table 8-2). -/
def perPacket (w : Nat) : Nat := min 4096 (64 * 512 / w / 32 * 32)

/-- Exact value words packed five to a cell (04 R105). -/
def packExact (xs : List Nat) : List Byte :=
  (chunksOf 5 xs.length xs).flatMap (fun ys => padTo 64 (ys.flatMap (fun x => leBytes 12 x)))

/-- The header that a stream's packets of a chunk share. -/
def State.baseHdr (s : State) (n : Nat) (m : ManifestCfg) (c : Nat) (kind fmt enc seg coarse : Nat) : Hdr :=
  let d := ((s.stream n).chunk c).rowLen
  { dst := 0, src := s.own, kind := kind, fmt := fmt, enc := enc, seg := seg, body := 0, scales := 0, mcast := false,
    job := m.job, sid := n, gen := (s.stream n).gen.toNat, chunk := c, off := 0, elems := 0, rank := 0, coarse := coarse,
    xfer := if m.isLse then Nat.log2 d else 0, flow := 0, birth := 0, param := 0 }

/-- The root's whole partial of an LSE chunk: its tree's, then the ring's and the children's in order (04 R109, 06 R163). -/
def State.lseRoot (s : State) (n : Nat) (m : ManifestCfg) (c : Nat) : Triple × Bool :=
  let key := m.slotKey n m.root c
  let d := ((s.stream n).chunk c).rowLen
  let len := m.chunkLen c
  match s.slot? n m c m.root with
  | none => (⟨[], [], []⟩, false)
  | some sl =>
    let ranks := (s.inputs n m c).filter (fun r => 0xF0 ≤ r)
    let ranks := ranks.filter (fun r => r == 0xF8) ++ ranks.filter (fun r => r != 0xF8)
    let ts := sl.leafTriples len d ranks
    let first := if sl.merged then [(s.tile m.root).readPartial key len d m.cexp] else []
    let merge := fun (a : Option (Triple × Bool)) (b : Triple) =>
      let (w, mx, l) := lseMerge d m.cexp (((a.map (fun x => [x.1])).getD []) ++ [b])
      let o := w.map (fun x => x.read 0 m.cexp)
      let lr := l.map (fun x => x.read 0 24)
      some ((⟨o.map (fun x => x.1), mx, lr.map (fun x => x.1)⟩ : Triple),
        (a.map (fun x => x.2)).getD false || (o ++ lr).any (fun x => x.2))
    (ts.foldl merge first.head?).getD (⟨[], [], []⟩, false)

/-- The readouts of a chunk at the root: values, whether any was clamped, winner indices, and the rows' m and l. -/
structure Readout where
  vals : List Val
  sat : Bool
  idx : List Nat
  ms : List U32
  ls : List Val
deriving DecidableEq, Repr

def State.readout (s : State) (n : Nat) (m : ManifestCfg) (c : Nat) : Readout :=
  let t := s.tile m.root
  let key := m.slotKey n m.root c
  let ixs := (List.range (m.chunkLen c)).map (fun i => 4096 * key + i)
  if m.isExact then
    let xs := ixs.map (fun a => Tab.get {} t.exact a)
    ⟨xs.map (fun x => x.val), false, xs.map (fun x => x.index.toNat), [], []⟩
  else if m.isLse then
    let (p, sat) := s.lseRoot n m c
    ⟨p.o, sat, [], p.m, p.l⟩
  else
    let sl := s.slot? n m c m.root
    let rs := ixs.map (fun a =>
      let p := (sl.map (fun sl => s.storeWord m sl m.root (a % 4096))).getD {}
      ((Tab.get {} t.windows a).orFlags p).read p.value.toInt m.cexp)
    ⟨rs.map (fun r => r.1), rs.any (fun r => r.2), [], [], []⟩

/-- The row statistics of a chunk as FP32 elements, l rounded by a mode. -/
def Readout.stats (r : Readout) (mode : Nat) : List Nat :=
  (r.ms.zip r.ls).flatMap (fun x => [x.1.toNat, toFp32 mode 0 x.2])

/-- The carry packets of a chunk (04 R101, R102, R105); l is carried by round to odd (log entry 18). -/
def State.carryPkts (s : State) (n : Nat) (m : ManifestCfg) (c : Nat) (r : Readout) (rank : Nat) : List OutPkt :=
  let base := { s.baseHdr n m c 1 m.carryCode m.carryEnc 0 m.carryCoarse with rank := rank }
  if m.isExact then
    outPkts base 0 320 packExact [] ((r.vals.zip r.idx).map (fun x => leNat (ExactVal.ofVal x.1 (BitVec.ofNat 32 x.2) none).bytes))
  else
    let vs :=
      match m.outFmt.carry with
      | some f => outPkts base 0 (perPacket f.width) (packBytes f.width) [] (r.vals.map (fun v => carryBits f m.cexp v))
      | none => outPkts base 0 512 (packBytes 64) [] (r.vals.map (fun v => carry64 m.cexp v))
    let base := { s.baseHdr n m c 1 9 0 2 0x3F80 with rank := rank }
    vs ++ (if m.isLse then outPkts base 0 1024 (packBytes 32) [] (r.stats 3) else [])

/-- The fused element i of a chunk (04 R112). -/
def fusedElem (m : ManifestCfg) (bytes : List Byte) (len i : Nat) : Val :=
  let f := (Fmt.ofCode (bitsOf m.fuseDesc.toNat 0 4)).getD .fp32
  let w := f.width
  inputValue f (bitsOf (field bytes (w * i / 8) 5) (w * i % 8) w) (field bytes ((w * len + 7) / 8 + i / 32) 1)
    (bitsOf m.fuseDesc.toNat 16 16)

/-- What a conversion to the result format gives. -/
structure Converted where
  pkts : List OutPkt
  sat : Bool
  special : Bool
  lost : Nat
  mass : Nat
deriving DecidableEq, Repr

/-- Convert a chunk to the result format (04 R106, R110, R111, R113). In a row whose l is 0 every element that is not special divides
to a free value (log entry 16); a special l makes its row's elements special (03 R65). The heads of normalised packets give the
coarse scale 1.0 (log entry 84). -/
def State.resultPkts (s : State) (n : Nat) (m : ManifestCfg) (c : Nat) (r : Readout) : Converted :=
  let x := s.stream n
  let len := m.chunkLen c
  let fmt := m.outFmt
  let g : OutCfg := ⟨m.outMult.toNat, m.fuse, m.bias.toNat,
    if m.clipEn then some (m.clipLo.toNat, m.clipHi.toNat) else none⟩
  let fb := ((x.chunk c).fuse).getD []
  let draw := fun i => if m.rmode = 2 then (cbDraw (s.job m.job).seed (s.job m.job).step n (4096 * c + i)).toNat % 65536 else 0
  let vs := r.vals.zipIdx.map (fun v => (outputStage g v.1 (if m.fuse = 0 then {} else fusedElem m fb len v.2), draw v.2))
  let d := (x.chunk c).rowLen
  let rowL := fun (i : Nat) => fp32Val (toFp32 0 0 (r.ls.getD i {}))
  let noL := fun (l : Val) => decide (l.mag = 0) && !l.special
  let rows : List (List (Val × Nat) × Val) := if !(m.isLse && m.norm) then [] else
    (chunksOf d len vs).zipIdx.map (fun row =>
      let l := rowL row.2
      (row.1.zipIdx.map (fun e =>
        if noL l then (if e.1.1.special then e.1.1 else fp32Val (Config.freeWord (s.freeCtr + d * row.2 + e.2)).toNat, e.1.2)
        else ({ e.1.1 with neg := e.1.1.neg != l.neg, special := e.1.1.special || l.special }, e.1.2)), l))
  let vs := if m.isLse && m.norm then rows.flatMap (fun q => q.1) else vs
  let cv : List Nat × List Nat × Bool × List Bool :=
    if m.isLse && m.norm then
      let cs := rows.map (fun q => if noL q.2 then convertRun fmt m.rmode 0x3F80 q.1 else convertRunBy fmt m.rmode q.2.mag q.2.e q.1)
      (cs.flatMap (fun q => q.1), cs.flatMap (fun q => q.2.1), cs.any (fun q => q.2.2.1), cs.flatMap (fun q => q.2.2.2))
    else convertRun fmt m.rmode x.cOut.toNat vs
  let base := s.baseHdr n m c 2 m.outCode 0 0 (if m.isLse && m.norm then 0x3F80 else x.cOut.toNat)
  let vp := outPkts base 0 (perPacket fmt.width) (packBytes fmt.width) cv.2.1 cv.1
  let pkts :=
    if m.isExact then vp.flatMap (fun p => p :: outPkts { base with fmt := 10, seg := 1, coarse := 0x3F80 } p.elemOff 1024
      (packBytes 32) [] ((r.idx.drop p.elemOff).take (perPacket fmt.width)))
    else if m.isLse then
      vp ++ outPkts { base with fmt := 9, seg := 2, coarse := 0x3F80 } 0 1024 (packBytes 32) [] (r.stats 0)
    else vp
  let lost := (vs.zip cv.2.2.2).filter (fun e => e.2)
  ⟨pkts, cv.2.2.1, vs.any (fun v => v.1.special), lost.length, (lost.map (fun e => massOf m.cexp e.1.1)).sum⟩

/-- Convert a chunk at its home root: to the result format where it is released here, else to its carry, which frees its
slots (05 R132, 06 R158, R163). -/
def State.convert (s : State) (n : Nat) (m : ManifestCfg) (c : Nat) : State :=
  let r := s.readout n m c
  let role := s.role n m c
  let put := fun (s : State) (ps : List OutPkt) => s.modChunk n c (fun ch => { ch with converted := true, convTide := s.now, out := ps })
  let flags := fun (s : State) (sat sp : Bool) (lost mass : Nat) => s.modStat n m.home (fun x =>
    { x with sat := x.sat || sat, special := x.special || sp, lostElem := satAdd 32 x.lostElem lost,
             lostMass := satAdd 128 x.lostMass mass })
  let blocks := s.tasted n m (rangeFrom (128 * c) ((m.chunkLen c + 31) / 32))
  let s := s.modStream n (fun x => { x with
    tasteBlock := if x.tasteBlocks = 0 then BitVec.ofNat 32 (blocks.headD 0) else x.tasteBlock,
    tasteBlocks := x.tasteBlocks + blocks.length,
    noiseChunks := if s.noisy n m c then x.noiseChunks + 1 else x.noiseChunks })
  if role = .release then
    let v := s.resultPkts n m c r
    let s := if m.isLse && m.norm then { s with freeCtr := s.freeCtr + 4096 } else s
    flags (put s v.pkts) (r.sat || v.sat) v.special v.lost v.mass
  else
    let rank := if role = .down then 0xF8 else 0xF0 + (Config.childIndex n).toNat
    let sp := r.vals.any (fun v => v.special)
    (flags (put s (s.carryPkts n m c r rank)) r.sat sp 0 0).freeSlots n m c

/-- Load the fused operand of a chunk (04 R112). -/
def State.loadFuse (s : State) (n : Nat) (m : ManifestCfg) (c : Nat) : State :=
  let f := (Fmt.ofCode (bitsOf m.fuseDesc.toNat 0 4)).getD .fp32
  let base := m.fuseAddr.toNat
  let read := fun off len =>
    if bitOf m.fuseDesc.toNat 4 then s.holdRead m.job (base + off) len else (s.quay m.home).readBytes (base + off) len
  let len := m.chunkLen c
  let els := read (f.width * 4096 * c / 8) ((f.width * len + 7) / 8)
  let sc := if f.fine then read ((m.elems * f.width + 7) / 8 + 128 * c) ((len + 31) / 32) else []
  s.modChunk n c (fun ch => { ch with fuse := some (els ++ sc), fuseLoaded := true })

/-- FUSE_OPERAND_LOAD: the fused operand of a chunk arrives in the tile's input buffer (04 R112, 02 R48). -/
def execFuseOperandLoad (sid : Sid) (chunk : U16) (s : State) : Host.Outcome State Fault Refusal :=
  let n := sid.toNat
  let c := chunk.toNat
  match s.mfst n with
  | none => .next s
  | some m =>
    if m.fuse = 0 ∨ (s.stream n).state ≠ .live ∨ m.chunkCount ≤ c ∨ ((s.stream n).chunk c).fuseLoaded then .next s
    else .next (s.loadFuse n m c)

/-! ## Drains (04 R96, R97) -/

/-- Ask for a drain of every tile of a physical engine that holds chunks (04 R96). -/
def State.drainEngine (s : State) (h : Half) (phys : Nat) (why : DrainFor) : State :=
  { s with tiles := Tab.mapV s.tiles (fun k t =>
      if tileHalf k = h ∧ s.physEng h (tileEng k) = phys ∧ !t.slots.isEmpty ∧ why ∉ t.drainsWaiting then
        { t with drainsWaiting := t.drainsWaiting ++ [why] }
      else t) }

/-- DRAIN: the first waiting drain of a tile is admitted. -/
def execDrain (h : Half) (eng : Fin 20) (tile : Fin 8) (cyc : Nat) (s : State) : Host.Outcome State Fault Refusal :=
  let k := tileKey h eng.val tile.val
  let t := s.tile k
  match t.drainsWaiting, t.draining with
  | d :: rest, none =>
    if s.fits k cyc costDrain then
      .next ((s.charge k costDrain .other).modTile k (fun t => { t with drainsWaiting := rest, draining := some d }))
    else .next s
  | _, _ => .next s

/-- Spill every live slot of a tile, at the cost of a spill each, and go on in its spare (04 R100, 02 Table 2-3). -/
def State.substitute (s : State) (k phys : Nat) : State :=
  let s := (s.tile k).slots.foldl (fun s e => match s.mfst e.2.sid with
    | some m =>
      if (s.stream e.2.sid).state = .live then
        let s := s.charge k costSpill (.chunk e.2.sid e.2.chunk)
        if m.op = 1 then s.spillSlot e.2.sid m e.2.chunk k else s.respill e.2.sid m e.2.chunk k
      else s
    | none => s) s
  let h := tileHalf k
  let eng := s.physEng h (tileEng k)
  let out := (s.tile k).phys
  let s := (s.modTile k (fun t => { t with phys := phys })).modHalf h (fun x => { x with badTiles := insertNew (physTile eng out) x.badTiles })
  ((s.raisePkg 27).logRepair 2 (h.num * 20 + eng) out 0 (BitVec.ofNat 16 (srcHalf h eng))).withdrawDone (srcHalf h eng)

/-- DRAIN_DONE: the marker has left the tree, and the requested read, clear or substitution follows. The windows that an
abort clears were cleared at its boundary. -/
def execDrainDone (h : Half) (eng : Fin 20) (tile : Fin 8) (s : State) : Host.Outcome State Fault Refusal :=
  let k := tileKey h eng.val tile.val
  match (s.tile k).draining with
  | none => .next s
  | some d =>
    let s := s.modTile k (fun t => { t with draining := none })
    .next (match d with
      | .read id => s.finishTileRead id
      | .substitution p => s.substitute k p
      | _ => s)

/-! ## Overruns (02 R52) -/

/-- DETAIL of a tile overrun: the stream whose chunk the unit served, all ones for other work (13 Table 13-7). -/
def TileWork.sid : TileWork → Nat
  | .chunk n _ => n
  | .shard _ _ => 0xFFFFF
  | .other => 0xFFFFF

/-- TIDE_OVERRUN: the work admitted last on a tile has not finished when its work region ends. It is counted, whatever it served: its
stream stops, its shard's step ends with OVERRUN (07 Table 7-9), and a drain under way is asked for again. Log entry 30. -/
def execTideOverrun (h : Half) (eng : Fin 20) (tile : Fin 8) (s : State) : Host.Outcome State Fault Refusal :=
  let k := tileKey h eng.val tile.val
  match (s.tile k).running with
  | none => .next s
  | some u =>
    let phys := s.physEng h eng.val
    let s := (s.modTile k (fun t => { t with running := none })).raiseWith h phys (engineDetail (s.tile k).phys 3 0xFFFF u.sid)
    let s := s.modTide (fun t => { t with overrun := true, overruns := satAdd 32 t.overruns 1 })
    .next (match u with
      | .chunk n c => if (s.stream n).state = .live then s.askAbort n ⟨4, BitVec.ofNat 16 c, 0xFF, false, none⟩ else s
      | .shard key _ => s.modShard key (fun y => y.endStep 3)
      | .other => s.modTile k (fun t => match t.draining with
        | some d => { t with drainsWaiting := d :: t.drainsWaiting, draining := none }
        | none => t))

end Sys2Proof.Machine
end

