-- ==== Sys2Proof/Machine/Streams.lean ====
section
/-! DEFINITION. Reduction streams: contributions, control cells, forwarding between switches, runs, aborts and teardowns (05,
06 R154 to R168). Readings: log entries 19, 61, 62 and 67. -/

namespace Sys2Proof.Machine

/-! ## The Manifest cache (05 R145) -/

/-- Look a Manifest up in a half's cache: a hit becomes the most recently used. -/
def State.cacheHit (s : State) (h : Half) (n : Nat) : State × Bool :=
  let c := (s.half h).mcache
  if n ∈ c.pinned then (s, true)
  else if n ∈ c.held then (s.modHalf h (fun x => { x with mcache := { c with held := c.held.erase n ++ [n] } }), true)
  else (s, false)

/-- A fetch completes: the least recently used unpinned Manifest leaves a full cache. -/
def MCache.fill (c : MCache) (n : Nat) : MCache :=
  let held := if n ∈ c.held ∨ n ∈ c.pinned then c.held else c.held ++ [n]
  { c with held := held.drop (held.length + c.pinned.length - 16384), fetching := c.fetching.filter (fun i => i != n) }

/-! ## Contributions (05 R124, R125) -/

/-- The address that an input must come from: of a local member, a child or the ring. -/
def State.inputAddr (s : State) (h : Half) (m : ManifestCfg) (rank : Nat) : Option Nat :=
  if rank < m.nMembers then some (s.rankEntry h m rank).1
  else if rank = 0xF8 then some m.upAddr.toNat
  else if 0xF0 ≤ rank ∧ rank < 0xF0 + m.children then ((s.childAddrs m)[rank - 0xF0]?).map (fun a => a.toNat)
  else none

/-- Do a carry's words keep R102 and R105? -/
def Pkt.wordsOk (p : Pkt) : Bool :=
  let hd := p.hdr
  let body := p.payload.drop 64
  match hd.enc with
  | 1 => (List.range hd.elems).all (fun j => word64Ok (field body (8 * j) 8))
  | 2 => (List.range hd.elems).all (fun j => exactOk ((body.drop (64 * (j / 5) + 12 * (j % 5))).take 12))
      && (List.range hd.body).all (fun i => field body (64 * i + 60) 4 == 0)
  | _ => true

/-- Does a contribution packet keep check 3 of R124? An LSE packet names a row length of 2^5 to 2^12, the same for all the
packets of a chunk (08 R214; log entry 18). -/
def State.contributionOk (s : State) (h : Half) (n : Nat) (m : ManifestCfg) (p : Pkt) : Bool :=
  let hd := p.hdr
  let c := hd.chunk
  let member := decide (hd.rank < m.nMembers)
  let d := 2 ^ (hd.xfer % 16)
  let seen := ((s.stream n).chunk c).rowLen
  let len := if hd.seg = 2 then 2 * rowsOf (m.chunkLen c) d else m.chunkLen c
  let stats := hd.seg == 2
  hd.job == m.job && decide (hd.rank ∈ s.inputs n m c) && s.inputAddr h m hd.rank == some hd.src
    && decide (c < m.chunkCount) && decide (hd.off + hd.elems ≤ len) && hd.off % 32 == 0
    && ((hd.off + hd.elems) % 32 == 0 || hd.off + hd.elems == len)
    && (if m.isLse then (hd.seg == 0 || stats) && decide (5 ≤ hd.xfer % 16 ∧ hd.xfer % 16 ≤ 12) && (seen == 0 || seen == d)
          && hd.coarse % 128 == 0
        else hd.seg == 0)
    && (if stats then hd.enc == 0 && hd.fmt == 9 && (member || hd.coarse == 0x3F80)
        else if member then hd.enc == 0 && hd.fmt == m.inCode
        else hd.enc == m.carryEnc && hd.fmt == m.carryCode && hd.coarse == m.carryCoarse)
    && p.wordsOk

/-- A packet with no Manifest to count against (05 R125). -/
def State.jobDrop (s : State) (job : Nat) : State := s.modJob job (fun j => { j with drops := satAdd 32 j.drops 1 })

/-- An accepted packet: its blocks are set, and its cells wait at its tile, or for its chunk slot (05 R127, R129). -/
def State.acceptContribution (s : State) (h : Half) (n : Nat) (m : ManifestCfg) (p : Pkt) : State :=
  let hd := p.hdr
  let key := hd.rank + if hd.seg = 2 then 256 else 0
  let bits := BitVec.ofNat 128 (2 ^ ((hd.off + hd.elems + 31) / 32) - 2 ^ (hd.off / 32))
  let s := s.modChunk n hd.chunk (fun ch => { ch with
    masks := Tab.upd 0 ch.masks key (fun b => b ||| bits), last := some s.now,
    rowLen := if m.isLse then 2 ^ (hd.xfer % 16) else 0 })
  let s := s.modStat n h (fun x => { x with accepted := satAdd 32 x.accepted 1 })
  let cells := (List.range p.cells).map (fun i => (⟨n, (s.stream n).gen, p.id, i⟩ : CellWork))
  let k := m.tileOf hd.rank
  if (s.slot? n m hd.chunk k).isSome then s.modTile k (fun t => { t with cells := t.cells ++ cells })
  else s.modStream n (fun x => { x with parkedCells := x.parkedCells ++ cells })

/-- The four checks of R124 on a contribution packet. -/
def State.contribution (s : State) (h : Half) (p : Pkt) : State :=
  let hd := p.hdr
  let n := hd.sid
  match s.mfst n with
  | none => (s.jobDrop hd.job).consume h p.id
  | some m =>
    if m.nMembers = 0 ∧ hd.rank < 0xF0 then (s.jobDrop hd.job).consume h p.id
    else
      let (s, hit) := s.cacheHit h n
      if !hit then
        let s := if p.missed then s else s.modStat n h (fun x => { x with misses := satAdd 32 x.misses 1 })
        (s.modPkt h p.id (fun q => { q with missed := true })).modHalf h (fun x =>
          { x with mcache := { x.mcache with fetching := insertNew n x.mcache.fetching } })
      else
        let x := s.stream n
        let key := hd.rank + if hd.seg = 2 then 256 else 0
        let bits := 2 ^ ((hd.off + hd.elems + 31) / 32) - 2 ^ (hd.off / 32)
        if x.state ≠ .live ∨ x.gen.toNat ≠ hd.gen then
          (s.modStat n h (fun y => { y with stale := satAdd 32 y.stale 1 })).consume h p.id
        else if !s.contributionOk h n m p then
          (s.modStat n h (fun y => { y with bad := satAdd 32 y.bad 1 })).consume h p.id
        else if (Tab.get 0 (x.chunk hd.chunk).masks key).toNat &&& bits ≠ 0 then
          (s.modStat n h (fun y => { y with dup := satAdd 32 y.dup 1 })).consume h p.id
        else s.acceptContribution h n m p

/-- Do cells of a packet wait at a tile or for a slot? -/
def State.queuedPkt (s : State) (pid : Nat) : Bool :=
  s.tiles.any (fun e => e.2.cells.any (fun w => w.pid == pid))
    || s.streams.any (fun e => e.2.parkedCells.any (fun w => w.pid == pid))

/-- Is a packet here whole, for this switch, and not yet taken? -/
def State.readyPkt (s : State) (h : Half) (pid kind : Nat) : Option Pkt :=
  ((s.half h).pkt? pid).filter (fun p => p.whole && p.crcOk && p.toSelf && !p.pallets.isEmpty && p.hdr.kind == kind)

/-- CONTRIBUTION_PACKET. -/
def execContributionPacket (h : Half) (pid : Nat) (s : State) : Host.Outcome State Fault Refusal :=
  match s.readyPkt h pid 1 with
  | some p => if s.queuedPkt pid then .next s else .next (s.contribution h p)
  | none => .next s

/-- MANIFEST_FETCH: a fetch completes, and the contributions that waited for it proceed to their checks. -/
def execManifestFetch (h : Half) (sid : Sid) (s : State) : Host.Outcome State Fault Refusal :=
  let n := sid.toNat
  if n ∉ (s.half h).mcache.fetching then .next s
  else
    let s := s.modHalf h (fun x => { x with mcache := x.mcache.fill n })
    let wait := (s.half h).pkts.filter (fun p => p.missed && p.toSelf && p.hdr.sid == n && p.hdr.kind == 1
      && !s.queuedPkt p.id)
    .next (wait.foldl (fun s p => s.contribution h p) s)

/-! ## Sending between switches (06 R154 to R163) -/

/-- An outgoing packet with its destination. -/
def OutPkt.hdr (p : OutPkt) (dst : Nat) (mcast : Bool) (src : Nat) : Hdr :=
  { Hdr.ofBytes (p.payload.take 64) with dst := dst, mcast := mcast, src := src }

/-- Send a packet of a stream from its home root tile (09 R236); one that is held waits in its pallets for the start cell of its run (06
R154). -/
def State.sendOut (s : State) (m : ManifestCfg) (held : Option (Nat × Byte)) (p : OutPkt) (dst : Nat) (mcast : Bool) : State :=
  s.injectAs m.home (s.enginePort m.root) false held (p.hdr dst mcast s.own) (p.payload.drop 64) false

/-- Has the start cell of DOWN_ADDR's stream come for this run (06 R154)? -/
def StreamSt.downStarted (x : StreamSt) : Bool := x.startSeen == some x.gen

/-- Send a chunk's carry where it goes: to PARENT_ADDR (log entry 19), or to DOWN_ADDR, held until its start cell has come. -/
def State.sendCarry (s : State) (n : Nat) (m : ManifestCfg) (c : Nat) : State :=
  let x := s.stream n
  let ch := x.chunk c
  let role := s.role n m c
  if x.state ≠ .live ∨ !ch.converted ∨ ch.sent ∨ role = .release then s
  else
    let dst := (if role = .parent then m.parentAddr else m.downAddr).toNat
    let held := if role = .down ∧ !x.downStarted then some (n, x.gen) else none
    let s := ch.out.foldl (fun s p => s.sendOut m held p dst false) s
    s.modChunk n c (fun ch => { ch with sent := true, out := [] })

/-- Does this position pass a chunk's result packets to DOWN_ADDR (06 R159)? -/
def State.passesDown (s : State) (n : Nat) (m : ManifestCfg) (c : Nat) : Bool :=
  decide (1 < m.ringN) && m.releaser && s.streamKind n == 2 && (m.ringPos + 1) % m.ringN != c % m.ringN

/-- Forward the result packets that a chunk holds: to DOWN_ADDR, held until its start cell has come, from an owner once it has released the
chunk; from an intermediate switch to its children (06 R159, R163). -/
def State.forwardResults (s : State) (n : Nat) (m : ManifestCfg) (c : Nat) : State :=
  let x := s.stream n
  let ch := x.chunk c
  let ps := if ch.released then ch.out else ch.rx
  let waitOwn := s.isOwner n m c && !ch.released
  if m.parent && !m.releaser then
    let s := (ps.drop ch.fwd).foldl (fun s p => s.sendOut m none p m.mcastGroup.toNat true) s
    s.modChunk n c (fun ch => { ch with fwd := ps.length })
  else if !s.passesDown n m c || waitOwn then s
  else
    let held := if x.downStarted then none else some (n, x.gen)
    let s := (ps.drop ch.fwd).foldl (fun s p => s.sendOut m held p m.downAddr.toNat false) s
    s.modChunk n c (fun ch => { ch with fwd := ps.length })

/-- Start the packets that waited for a start cell of a run. -/
def State.flushStream (s : State) (n : Nat) (gen : Byte) : State :=
  [Half.east, Half.west].foldl (fun s h =>
    ((s.half h).pkts.filter (fun p => p.held == some (n, gen))).foldl (fun s p => s.unhold h p.id) s) s

/-- OUTPUT_CONVERSION: a chunk whose inputs are placed and combined is converted; a carry leaves at once (05 R132, 06
R158); one that meets a fault in the windows converts and sends nothing (04 R92). -/
def execOutputConversion (sid : Sid) (chunk : U16) (cyc : Nat) (err : Option TileFault) (s : State) : Host.Outcome State Fault Refusal :=
  let n := sid.toNat
  let c := chunk.toNat
  match s.mfst n with
  | none => .next s
  | some m =>
    let cost := costConvert
    if !s.convReady n m c || s.blocked m.root cyc 1 || !s.fits m.root cyc cost then .next s
    else
      let s := s.charge m.root cost (.chunk n c)
      .next (if err.isSome then s.workFault m.root m.root n m c err else (s.convert n m c).sendCarry n m c)

/-! ## Result packets (06 R159, R163) -/

/-- Are all the packets of a chunk's result here? -/
def ChunkSt.resultWhole (ch : ChunkSt) (m : ManifestCfg) (c : Nat) : Bool :=
  let have_ := fun sg => ((ch.rx.filter (fun p => p.seg == sg)).map (fun p => (Hdr.ofBytes (p.payload.take 64)).elems)).sum
  have_ 0 == m.chunkLen c && (!m.isExact || have_ 1 == m.chunkLen c)
    && (!m.isLse || have_ 2 == 2 * rowsOf (m.chunkLen c) ch.rowLen)

/-- The checks and the forwarding of a result packet. -/
def State.resultIn (s : State) (h : Half) (p : Pkt) : State :=
  let hd := p.hdr
  let n := hd.sid
  let c := hd.chunk
  match s.mfst n with
  | none => (s.jobDrop hd.job).consume h p.id
  | some m =>
    let x := s.stream n
    let src := if s.role n m c = .parent then m.parentAddr.toNat else m.upAddr.toNat
    let drop := fun (f : StreamStat → StreamStat) => (s.modStat n m.home f).consume h p.id
    if hd.job ≠ m.job ∨ m.chunkCount ≤ c ∨ !s.expectsResult n m c ∨ hd.src ≠ src then
      drop (fun y => { y with bad := satAdd 32 y.bad 1 })
    else if x.gen.toNat ≠ hd.gen ∨ (x.state ≠ .live ∧ x.state ≠ .retaining) then
      drop (fun y => { y with stale := satAdd 32 y.stale 1 })
    else if ((x.chunk c).rx ++ (x.chunk c).out).any (fun q => q.elemOff == hd.off && q.seg == hd.seg) || (x.chunk c).rxDone then
      drop (fun y => { y with dup := satAdd 32 y.dup 1 })
    else
      let s := s.modChunk n c (fun ch =>
        { ch with rx := ch.rx ++ [⟨hd.off, hd.seg, p.payload⟩], rowLen := if m.isLse then 2 ^ (hd.xfer % 16) else 0 })
      let s := s.modChunk n c (fun ch => if ch.resultWhole m c then { ch with rxDone := true, convTide := s.now } else ch)
      (s.consume h p.id).forwardResults n m c

/-- RESULT_PACKET. -/
def execResultPacket (h : Half) (pid : Nat) (s : State) : Host.Outcome State Fault Refusal :=
  match s.readyPkt h pid 2 with
  | some p => .next (s.resultIn h p)
  | none => .next s

/-! ## Control cells of streams -/

/-- STREAM_START (06 R154). -/
def execStreamStart (c : Ctrl) (sid : Sid) (gen : Byte) (s : State) : Host.Outcome State Fault Refusal :=
  let (s, me) := s.ctrlIn c (.streamStart sid gen)
  let n := sid.toNat
  match me, s.mfst n with
  | true, some m =>
    if !m.hasDown || c.src ≠ m.downAddr then .next s
    else
      let s := s.modStream n (fun x => { x with startSeen := some gen })
      .next (s.flushStream n gen)
  | _, _ => .next s

/-- The stream's BAD_DROPS, in its home half. -/
def State.badCell (s : State) (n : Nat) (m : ManifestCfg) : State :=
  s.modStat n m.home (fun x => { x with bad := satAdd 32 x.bad 1 })

/-- STREAM_ABORT_CELL (05 R140): from a switch that the stream does not name, it is counted; a reserved status, and a cell of another
run, are ignored. -/
def execStreamAbortCell (c : Ctrl) (sid : Sid) (gen : Byte) (failChunk : U16) (status : BitVec 4) (s : State) :
    Host.Outcome State Fault Refusal :=
  let (s, me) := s.ctrlIn c (.streamAbort sid gen failChunk status)
  let n := sid.toNat
  match me, s.mfst n with
  | true, some m =>
    let x := s.stream n
    if c.src ∉ s.peersOf m then .next (s.badCell n m)
    else if x.gen ≠ gen ∨ x.state ≠ .live ∨ status < 2 ∨ 8 < status then .next s
    else .next (s.askAbort n ⟨status, failChunk, 0xFF, true, some c.src⟩)
  | _, _ => .next s

/-- POISON (05 R137): from UP_ADDR or a child only; one of another run is ignored. -/
def execPoison (c : Ctrl) (sid : Sid) (gen : Byte) (failChunk : U16) (s : State) : Host.Outcome State Fault Refusal :=
  let (s, me) := s.ctrlIn c (.poison sid gen failChunk)
  let n := sid.toNat
  match me, s.mfst n with
  | true, some m =>
    let x := s.stream n
    if (m.ringN ≤ 1 ∨ c.src ≠ m.upAddr) ∧ c.src ∉ s.childAddrs m then .next (s.badCell n m)
    else if x.gen ≠ gen ∨ (x.state ≠ .live ∧ x.state ≠ .retaining) then .next s
    else .next (s.askAbort n ⟨2, failChunk, 0xFF, true, none⟩)
  | _, _ => .next s

/-- Free the retained copy of a chunk that every consumer has acknowledged (05 R133). -/
def State.freeAcked (s : State) (n : Nat) (m : ManifestCfg) (c : Nat) : State :=
  let ch := (s.stream n).chunk c
  if ch.released && !ch.freed && (s.consumers m).all (fun a => a.toNat ∈ ch.acks) && (m.consumer < 2 || ch.recipeAck) then
    s.modChunk n c (fun ch => { ch with freed := true })
  else s

/-- RESULT_ACK (05 R133). -/
def execResultAck (c : Ctrl) (sid : Sid) (gen : Byte) (chunk count : U16) (s : State) : Host.Outcome State Fault Refusal :=
  let (s, me) := s.ctrlIn c (.resultAck sid gen chunk count)
  let n := sid.toNat
  match me, s.mfst n with
  | true, some m =>
    let x := s.stream n
    if x.gen ≠ gen then .next s
    else if count = 0 ∨ c.src ∉ s.consumers m then .next (s.badCell n m)
    else
      let cs := rangeFrom chunk.toNat count.toNat
      let good := fun i => (x.chunk i).released && !(x.chunk i).freed
      let s := if cs.all good then s else s.badCell n m
      .next ((cs.filter good).foldl (fun s i => (s.modChunk n i (fun ch =>
        { ch with acks := insertNew c.src.toNat ch.acks })).freeAcked n m i) s)
  | _, _ => .next s

/-- The members and switches that poison cells go to (05 R137), and with UP_ADDR and the children those of an abort (05
R140). -/
def State.poisonDests (s : State) (m : ManifestCfg) : List U32 :=
  s.memberAddrs m ++ s.consumers m ++ (if m.hasDown then [m.downAddr] else []) ++ (if m.parent then [m.parentAddr] else [])

/-- The packets of a chunk in the retention area: those released, or, of a chunk that comes by the gather pass, those received so far (05
R133, 06 R159, R161). -/
def ChunkSt.retained (ch : ChunkSt) : List OutPkt := if ch.released then ch.out else ch.rx

/-- RESEND_REQ (05 R135, R138): a request that can be served waits for the next boundary; one whose retained copy has an
uncorrectable error poisons the chunk and is answered with the poison cell; any other is refused and counted. -/
def execResendReq (c : Ctrl) (sid : Sid) (gen : Byte) (chunk : U16) (elemOff : BitVec 12) (seg : BitVec 2)
    (ue : Option (BitVec 33)) (s : State) : Host.Outcome State Fault Refusal :=
  let (s, me) := s.ctrlIn c (.resendReq sid gen chunk elemOff seg)
  let n := sid.toNat
  if !me then .next s
  else
    let x := s.stream n
    let ch := x.chunk chunk.toNat
    let refuse := fun (s : State) => s.sendCtrl c.src c.job.toNat (.resendRefused sid gen chunk elemOff seg)
    match x.cfg with
    | none => .next (refuse s)
    | some m =>
      if (x.state = .live ∨ x.state = .retaining) ∧ x.gen = gen ∧ m.releaser ∧ !ch.freed
          ∧ ch.retained.any (fun p => p.elemOff == elemOff.toNat && p.seg == seg.toNat) then
        match ue with
        | some addr =>
          let s := s.raiseWith m.home 36 (accessDetail (m.home.num * 2 ^ 33 + addr.toNat))
          let s := if c.src ∈ s.poisonDests m then s else s.sendCtrl c.src m.job (.poison sid gen chunk)
          .next (s.askAbort n ⟨2, chunk, 0xFF, false, none⟩)
        | none => .next (s.modStream n (fun x => { x with
          resends := x.resends ++ [⟨c.src, chunk.toNat, elemOff.toNat, seg.toNat⟩] }))
      else .next ((refuse s).badCell n m)

/-! ## Patience and peers (05 R139, 06 R168) -/

/-- Is every input of a chunk here? -/
def State.chunkHere (s : State) (n : Nat) (m : ManifestCfg) (c : Nat) : Bool :=
  (s.inputs n m c).all (fun r => s.inputFull n m c r)

/-- The lowest input whose blocks are not all here (05 R139). -/
def State.lateRank (s : State) (n : Nat) (m : ManifestCfg) (c : Nat) : Nat :=
  ((s.inputs n m c).find? (fun r => !s.inputFull n m c r)).getD 0xFF

/-- The abort that the boundary owes to patience: of the lowest chunk whose patience has run out and which is still not here, with its
lowest late input as it is then (05 R139). -/
def State.lateAbort (s : State) (n : Nat) (m : ManifestCfg) : Option AbortReq :=
  ((s.stream n).chunks.find? (fun e => e.2.expired && !s.chunkHere n m e.1)).map (fun e =>
    ⟨3, BitVec.ofNat 16 e.1, BitVec.ofNat 8 (s.lateRank n m e.1), false, none⟩)

/-- PATIENCE_EXPIRY: the boundary PATIENCE tides after a chunk's clock started comes next, or has been reached; whether the chunk is
here by then is looked at there. Log entry 8. -/
def execPatienceExpiry (sid : Sid) (chunk : U16) (s : State) : Host.Outcome State Fault Refusal :=
  let n := sid.toNat
  let c := chunk.toNat
  match s.mfst n, ((s.stream n).chunk c).clock with
  | some m, some t =>
    if (s.stream n).state = .live ∧ tideReached (s.now + 1) (t + BitVec.ofNat 48 m.patience) ∧ !s.chunkHere n m c then
      .next (s.modChunk n c (fun ch => { ch with expired := true }))
    else .next s
  | _, _ => .next s

/-- The berths that face a peer. -/
def State.facing (s : State) (addr : Nat) : List Nat := (s.active.bundles.filter (fun e => e.2.faces addr)).flatMap (fun e => e.2.berths)

/-- Does the active Chart route to a switch, its berths' own state apart (06 R168)? -/
def State.hasRoute (s : State) (addr : Nat) : Bool :=
  let up := { s with berths := (List.range 260).map (fun b => (b, { s.berth b with up := true, outcome := 0, farLoop := false })) }
  up.nextHop s.active addr 0 0 0 false none != .drop

/-- Is a peer lost at the next boundary: every berth that faces it down, or receiving BREAKWATER, for 4 tides, or no route to it? -/
def State.peerGone (s : State) (addr : Nat) : Bool :=
  let bs := s.facing addr
  (!bs.isEmpty && bs.all (fun b => s.downFour b)) || !s.hasRoute addr

/-- Has a chunk done all that it does here: released, sent, or its result forwarded (05 R132, 06 R163)? -/
def State.chunkDone (s : State) (n : Nat) (m : ManifestCfg) (c : Nat) : Bool :=
  let ch := (s.stream n).chunk c
  match s.role n m c with
  | .release => ch.released
  | _ => if !s.expectsResult n m c then ch.sent else if m.releaser then ch.released else ch.rxDone

/-- The lowest chunk not yet released on this switch (06 R168); of one that this switch only passes on, not yet passed on. -/
def State.lowestOpen (s : State) (n : Nat) (m : ManifestCfg) : Nat :=
  ((List.range m.chunkCount).find? (fun c => !s.chunkDone n m c)).getD 0xFFFF

/-- PEER_LOST (06 R168): the LIVE streams that name the peer abort with RING_BROKEN at the next boundary. Log entry 8. -/
def execPeerLost (addr : U32) (s : State) : Host.Outcome State Fault Refusal :=
  if !s.peerGone addr.toNat then .next s
  else
    let s := { s with lost := Tab.set s.lost addr.toNat s.now }
    .next (s.streams.foldl (fun s e => match e.2.cfg with
      | some m =>
        if e.2.state = .live ∧ addr ∈ s.peersOf m then
          s.askAbort e.1 ⟨6, BitVec.ofNat 16 (s.lowestOpen e.1 m), 0xFF, false, none⟩
        else s
      | none => s) s)

/-! ## Runs at a boundary (05 R121, R140, R146) -/

/-- Cells of a stream that wait: at tiles and for slots, and carries and results held under R154. -/
def State.waitingCells (s : State) (n : Nat) (h : Half) : Nat :=
  let x := s.stream n
  let atTiles := (s.tiles.map (fun e => if tileHalf e.1 = h then e.2.cells.countP (fun w => w.sid == n) else 0)).sum
  let parked := x.parkedCells.countP (fun w => (s.findPkt w.pid).any (fun e => e.1 == h))
  let held := (((s.half h).pkts.filter (fun p => p.held.any (fun r => r.1 == n))).map (fun p => p.cells)).sum
  atTiles + parked + held

/-- Stop a run's work: its tiles are drained and their slots cleared, and cells not yet placed are discarded and counted
(05 R140, R146). -/
def State.discardRun (s : State) (n : Nat) (m : ManifestCfg) : State :=
  let s1 := [Half.east, Half.west].foldl (fun s' h => s'.modStat n h (fun x =>
    { x with discarded := satAdd 32 x.discarded (s.waitingCells n h) })) s
  let pids := ((s1.tiles.flatMap (fun e => e.2.cells)) ++ (s1.stream n).parkedCells).filter (fun w => w.sid == n)
  let pids := pids.foldl (fun l w => insertNew w.pid l) []
  let s1 := pids.foldl (fun s pid => match s.findPkt pid with
    | some (h, _) => (s.dropCells pid).consume h pid
    | none => s.dropCells pid) s1
  let s1 := [Half.east, Half.west].foldl (fun s h => ((s.half h).pkts.filter (fun p => p.held.any (fun r => r.1 == n))).foldl
    (fun s p => s.dropPkt h p.id) s) s1
  let s1 := m.windowTiles.foldl (fun s k =>
    if (s.tile k).slots.any (fun e => e.2.sid == n) then
      s.modTile k (fun t => { t with drainsWaiting := t.drainsWaiting ++ [.abort n] })
    else s) s1
  let s1 := (s1.stream n).chunks.foldl (fun s e => s.freeSlots n m e.1) s1
  s1.modStream n (fun x => { x with chunks := Tab.mapV x.chunks (fun _ ch =>
    if ch.released then { ch with fwd := ch.out.length } else { ch with out := [], rx := [], sent := true }) })

/-- Refuse the resends that wait: they can no longer be served (05 R135, R146). Log entry 62. -/
def State.refuseResends (s : State) (n : Nat) (m : ManifestCfg) : State :=
  let x := s.stream n
  let s := x.resends.foldl (fun s r => (s.sendCtrl r.dest m.job (.resendRefused (BitVec.ofNat 20 n) x.gen (BitVec.ofNat 16 r.chunk)
    (BitVec.ofNat 12 r.elemOff) (BitVec.ofNat 2 r.seg))).badCell n m) s
  s.modStream n (fun x => { x with resends := [] })

/-- A stream stops with a status at this boundary (05 R137, R140, R142). -/
def State.stopStream (s : State) (n : Nat) (m : ManifestCfg) (r : AbortReq) (cells : Bool) : State :=
  let x := s.stream n
  if !(x.state = .live ∨ (r.status = 2 ∧ x.state = .retaining)) then s
  else
    let wasLive := x.state == .live
    let s := s.refuseResends n m
    let s := if wasLive then s.discardRun n m else s
    let s := s.modStat n m.home (fun y => { y with
      status := r.status, failChunk := r.failChunk, lateRank := r.lateRank,
      remote := y.remote || r.remote, doneTide := if wasLive then s.now else y.doneTide })
    let s := s.modStream n (fun x => { x with
      state := .stopped,
      genEnds := (x.gen, s.now) :: x.genEnds.filter (fun e => e.1 != x.gen) })
    if !cells then s
    else if r.status = 2 then
      s.sendCtrls (s.poisonDests m) m.job (.poison (BitVec.ofNat 20 n) x.gen r.failChunk)
    else
      let ds := s.poisonDests m ++ (if m.ringN > 1 then [m.upAddr] else []) ++ s.childAddrs m
      s.sendCtrls (ds.filter (fun d => some d != r.from_)) m.job (.streamAbort (BitVec.ofNat 20 n) x.gen r.failChunk r.status)

/-- A run goes LIVE (05 R121). -/
def State.goLive (s : State) (n : Nat) (m : ManifestCfg) (armC : U16) : State :=
  let fresh := fun (y : StreamStat) => { y with
    lateRank := 0xFF, failChunk := 0xFFFF, special := false, sat := false, resent := false, remote := false, status := 0,
    lostElem := 0, lostMass := 0, armTide := s.now, released := 0, accepted := 0, stale := 0, dup := 0, bad := 0,
    discarded := 0, resends := 0, spills := 0, misses := 0 }
  let s := s.modStream n (fun x => { x with
    state := .live, gen := x.gen + 1, cOut := if m.csp = 1 then armC else m.cOut, statE := fresh x.statE, statW := fresh x.statW,
    chunks := [], resends := [], startSeen := if x.startSeen = some (x.gen + 1) then x.startSeen else none,
    noiseS := {}, noiseA := {}, noiseChunks := 0, tasteDiv := 0, tasteBlock := 0, tasteBlocks := 0 })
  let s := (List.range (min m.slotCount m.chunkCount)).foldl (fun s c => (s.modChunk n c id).allocSlots n m c) s
  let ds := s.memberAddrs m ++ (if m.ringN > 1 then [m.upAddr] else []) ++ s.childAddrs m
  s.sendCtrls ds m.job (.streamStart (BitVec.ofNat 20 n) (s.stream n).gen)

/-- Does the half's switch hold a packet of the stream (05 R146)? -/
def Pkt.ofStream (p : Pkt) (n : Nat) : Bool := p.hdr.sid == n && (p.hdr.kind == 1 || p.hdr.kind == 2)

/-- STREAM_FENCE_EMPTY: no pallet holds a packet of the stream, its drains are done, and no resend is in flight. -/
def execStreamFenceEmpty (sid : Sid) (s : State) : Host.Outcome State Fault Refusal :=
  let n := sid.toNat
  let held := (s.east.pkts ++ s.west.pkts).any (fun p => p.ofStream n)
  let drains := s.tiles.any (fun e => e.2.draining == some (.abort n) || e.2.drainsWaiting.contains (.abort n))
  if (s.stream n).state = .fencing ∧ !held ∧ !drains ∧ (s.stream n).resends.isEmpty then
    .next (s.modStream n (fun x => { x with fenceEmpty := true }))
  else .next s

/-- TEARDOWN_DEADLINE: packets still held 64 tides after the teardown are dropped and counted. -/
def execTeardownDeadline (sid : Sid) (s : State) : Host.Outcome State Fault Refusal :=
  let n := sid.toNat
  match (s.stream n).state, (s.stream n).torn with
  | .fencing, some t =>
    if !tideReached s.now (t + 64) then .next s
    else .next ([Half.east, Half.west].foldl (fun s h =>
      ((s.half h).pkts.filter (fun p => p.ofStream n)).foldl (fun s p =>
        (s.modStat n h (fun x => { x with discarded := satAdd 32 x.discarded p.cells })).dropPkt h p.id) s) s)
  | _, _ => .next s

end Sys2Proof.Machine
end

