-- ==== Sys2Proof/Machine/Recipe.lean ====
section
/-! DEFINITION. Shards, their planes, and recipes: the operations of Table 7-6, the built-in images, a shard's step and
RECIPE_OPERATION (07 R173 to R199, R204, R205). -/

namespace Sys2Proof.Machine

/-! ## Shard records (07 Tables 7-1, 7-2) -/

def ShardSt.job (x : ShardSt) : Nat := bitsOf x.cfg.ctl.toNat 24 6
def ShardSt.image (x : ShardSt) : Nat := bitsOf x.cfg.ctl.toNat 16 8
def ShardSt.tensor (x : ShardSt) : Nat := bitsOf x.cfg.tensor.toNat 0 20
def ShardSt.gradSid (x : ShardSt) : Nat := bitsOf x.cfg.grad.toNat 0 20
def ShardSt.amaxSid (x : ShardSt) : Nat := bitsOf x.cfg.amaxSid.toNat 0 20
def ShardSt.chunkBase (x : ShardSt) : Nat := bitsOf x.cfg.chunks.toNat 0 16
def ShardSt.stride (x : ShardSt) : Nat := bitsOf x.cfg.chunks.toNat 16 16
def ShardSt.elems (x : ShardSt) : Nat := x.cfg.elems.toNat
def ShardSt.block (x : ShardSt) : Nat := bitsOf x.cfg.params.toNat 0 8
def ShardSt.lrExp (x : ShardSt) : Int := sext 8 (bitsOf x.cfg.exps.toNat 8 8)
def ShardSt.cexp (x : ShardSt) : Int := sext 8 x.mexp.toNat
def ShardSt.masterMode (x : ShardSt) : Nat := bitsOf x.cfg.fmts.toNat 16 2
def ShardSt.copyMode (x : ShardSt) : Nat := bitsOf x.cfg.fmts.toNat 14 2
def ShardSt.momFmt (x : ShardSt) : Fmt := (Fmt.ofCode (bitsOf x.cfg.fmts.toNat 8 4)).getD .fp32
def ShardSt.copyCode (x : ShardSt) : Nat := bitsOf x.cfg.fmts.toNat 0 4
def ShardSt.copyFmt (x : ShardSt) : Fmt := (Fmt.ofCode x.copyCode).getD .e4m3
def ShardSt.chunks (x : ShardSt) : Nat := (x.elems + 4095) / 4096
def ShardSt.chunkLen (x : ShardSt) (j : Nat) : Nat := min 4096 (x.elems - 4096 * j)

/-- The shard chunk that a stream or tensor chunk is (07 R176). -/
def ShardSt.chunkOf (x : ShardSt) (c : Nat) : Option Nat :=
  if x.stride ≠ 0 ∧ x.chunkBase ≤ c ∧ (c - x.chunkBase) % x.stride = 0 ∧ (c - x.chunkBase) / x.stride < x.chunks then
    some ((c - x.chunkBase) / x.stride)
  else none

/-- The tensor chunk of a shard chunk, and the tensor element index of an element of it (07 R176). -/
def ShardSt.tensorChunk (x : ShardSt) (j : Nat) : Nat := x.chunkBase + j * x.stride
def ShardSt.tensorElem (x : ShardSt) (j i : Nat) : Nat := 4096 * x.tensorChunk j + i

/-- The copy slot of a version: its number, the version it holds and its coarse scale (07 R177, R181). -/
def ShardSt.verOf (x : ShardSt) (v : Nat) : TideNo := if v % 2 = 0 then x.ver0 else x.ver1
def ShardSt.copyScale (x : ShardSt) (v : Nat) : U16 := if v % 2 = 0 then x.cCopy0 else x.cCopy1

/-! ## Operation words (07 Table 7-5) -/

def opOpc (w : U64) : Nat := bitsOf w.toNat 56 8
def opD (w : U64) : Nat := bitsOf w.toNat 52 4
def opA (w : U64) : Nat := bitsOf w.toNat 48 4
def opB (w : U64) : Nat := bitsOf w.toNat 44 4
def opC (w : U64) : Nat := bitsOf w.toNat 40 4
def opS (w : U64) : Nat := bitsOf w.toNat 34 6
def opBS (w : U64) : Bool := bitOf w.toNat 33
def opLR (w : U64) : Bool := bitOf w.toNat 32
def opRM (w : U64) : Nat := bitsOf w.toNat 30 2
def opFmt (w : U64) : Nat := bitsOf w.toNat 24 4
def opN (w : U64) : Nat := bitsOf w.toNat 16 8
def opPlane (w : U64) : Nat := bitsOf w.toNat 0 4

/-- An operation word. -/
def mkOp (opc d a b c : Nat) (s : Option Nat) (lr : Bool) (plane : Nat) : U64 :=
  BitVec.ofNat 64 (opc * 2 ^ 56 + d * 2 ^ 52 + a * 2 ^ 48 + b * 2 ^ 44 + c * 2 ^ 40 + s.getD 0 * 2 ^ 34
    + bitNat s.isSome * 2 ^ 33 + bitNat lr * 2 ^ 32 + plane)

def opLoad (d plane : Nat) : U64 := mkOp 1 d 0 0 0 none false plane
def opStore (a plane : Nat) : U64 := mkOp 2 0 a 0 0 none false plane
/-- D := A * S + C. -/
def opFmaS (d a s c : Nat) : U64 := mkOp 3 d a 0 c (some s) false 0
/-- D := A * B + C. -/
def opFma (d a b c : Nat) : U64 := mkOp 3 d a b c none false 0
def opWfmaS (a s : Nat) (lr : Bool) : U64 := mkOp 4 8 a 0 0 (some s) lr 0
def opWread (d : Nat) : U64 := mkOp 5 d 8 0 0 none false 0

/-- The end of every built-in UPDATE: p := wread(p + S5 * 2^LR_EXP * u + S6 * 2^LR_EXP * p), its store and its AMAX. -/
def masterTail (u : Nat) : List U64 :=
  [opWfmaS u 5 true, opWfmaS 2 6 true, opWread 2, opStore 2 0, mkOp 0x0C 0 2 0 0 none false 0]

/-- The QUANT of every built-in recipe (07 R187). -/
def builtinQuant : List U64 := [opLoad 0 1, opStore 0 4, mkOp 0x10 0 0 0 0 none false 0]

/-- m := round(S0 * m + round(S1 * g), MOM_FMT, RNE). -/
def firstMoment : List U64 := [opFmaS 3 9 1 10, opFmaS 0 0 0 3, opStore 0 2]

/-- The built-in recipes, V0 the first moment, V1 the second, V2 the master (07 R187); their costs are those of Table 7-7. -/
def builtinRecipe : Nat → Option Recipe
  | 0xF0 => some ⟨[opLoad 0 2, opLoad 1 3, opLoad 2 0, opLoad 8 0] ++ firstMoment
      ++ [opFmaS 4 9 3 10, opFma 4 4 9 10, opFmaS 1 1 2 4, opStore 1 3, mkOp 6 5 1 0 0 (some 4) false 0,
          mkOp 7 5 5 0 0 none false 0, opFma 6 0 5 10] ++ masterTail 6, builtinQuant⟩
  | 0xF1 => some ⟨[opLoad 0 2, opLoad 2 0, opLoad 8 0, opFmaS 0 0 0 9, opStore 0 2] ++ masterTail 0, builtinQuant⟩
  | 0xF2 => some ⟨[opLoad 0 2, opLoad 2 0, opLoad 8 0, opFmaS 3 9 1 10, opFmaS 4 0 0 3, mkOp 0x0B 4 4 0 0 none false 0,
      opFmaS 3 9 3 10, opFmaS 0 0 2 3, opStore 0 2] ++ masterTail 4, builtinQuant⟩
  | 0xF3 => some ⟨[opLoad 0 2, opLoad 2 0, opLoad 8 0, opLoad 5 6] ++ firstMoment
      ++ [mkOp 0x0F 6 0 0 0 none false 6] ++ masterTail 6, builtinQuant⟩
  | _ => none

/-- The image of a shard: built-in, or of its job; none that is loaded leaves its planes unsized (log entry 89). -/
def State.imageOf (s : State) (x : ShardSt) : Option Recipe :=
  match builtinRecipe x.image with
  | some r => some r
  | none => Tab.get? (s.job x.job).images x.image

/-! ## Planes (07 R173, R174) -/

def align4k (n : Nat) : Nat := (n + 4095) / 4096 * 4096

/-- The plane codes that an image uses: those of its LOADs and STOREs, PRE by MATMUL and the copies by EMIT. -/
def Recipe.planes (r : Recipe) : List Nat :=
  (r.update ++ r.quant).filterMap (fun w =>
    if opOpc w = 1 ∨ opOpc w = 2 then some (opPlane w) else if opOpc w = 0x0F then some 6 else if opOpc w = 0x10 then some 4 else none)

/-- The storage planes in order with their sizes: 0 HI, 1 LO, 2 M1, 3 M2, 4 and 5 the copy slots, 6 and 7 their scales, 8
PRE; a plane that the recipe does not use takes no space (07 Table 7-1). -/
def ShardSt.planeSizes (x : ShardSt) (used : List Nat) : List (Nat × Nat) :=
  let mst := decide (0 ∈ used) || decide (1 ∈ used)
  let cp := decide (4 ∈ used) || decide (5 ∈ used)
  let n := x.elems
  let mom := x.momFmt.width / 8
  [(0, if mst then 3 * n else 0), (1, if mst then n else 0), (2, if 2 ∈ used then mom * n else 0),
   (3, if 3 ∈ used then mom * n else 0), (4, if cp then n * x.copyFmt.width / 8 else 0),
   (5, if cp then n * x.copyFmt.width / 8 else 0), (6, if cp && x.copyFmt.fine then n / 32 else 0),
   (7, if cp && x.copyFmt.fine then n / 32 else 0), (8, if 6 ∈ used then 512 * x.chunks else 0)]

/-- The Hold address of a storage plane. -/
def ShardSt.planeAddr (x : ShardSt) (used : List Nat) (p : Nat) : Nat :=
  ((x.planeSizes used).filter (fun e => decide (e.1 < p))).foldl (fun a e => a + align4k e.2) x.cfg.holdBase.toNat

/-- The bytes that a shard's planes take. -/
def ShardSt.planeBytes (x : ShardSt) (used : List Nat) : Nat := ((x.planeSizes used).map (fun e => align4k e.2)).sum

/-- The Hold ranges of shard chunk j that a plane code reaches: address and length (07 Table 7-1, R174). -/
def ShardSt.ranges (x : ShardSt) (used : List Nat) (step j code : Nat) : List (Nat × Nat) :=
  let e := 4096 * j
  let n := x.chunkLen j
  let at_ := fun p => x.planeAddr used p
  let mom := x.momFmt.width / 8
  let slot := if code = 4 then (step + 1) % 2 else step % 2
  match code with
  | 0 => [(at_ 0 + 3 * e, 3 * n), (at_ 1 + e, n)]
  | 1 => [(at_ 0 + 3 * e, 3 * n)]
  | 2 => [(at_ 2 + mom * e, mom * n)]
  | 3 => [(at_ 3 + mom * e, mom * n)]
  | 4 | 5 => (at_ (4 + slot) + e * x.copyFmt.width / 8, n * x.copyFmt.width / 8)
      :: (if x.copyFmt.fine then [(at_ (6 + slot) + e / 32, n / 32)] else [])
  | 6 => [(at_ 8 + 512 * j, 512)]
  | _ => []

/-- The bits of element i of bytes packed at width w. -/
def packedElem (bytes : List Byte) (w i : Nat) : Nat := bitsOf (field bytes (w * i / 8) 5) (w * i % 8) w

/-- An exact value as an FP32 register holds it. -/
def regOf (v : Val) : U32 := BitVec.ofNat 32 (toFp32 0 0 v)
def regVal (b : U32) : Val := fp32Val b.toNat

/-- The masters of a shard chunk with their low bytes replaced by a tail, if one is given (07 R190). -/
def State.masters (s : State) (x : ShardSt) (used : List Nat) (j : Nat) (tail : Option Nat) : List U32 :=
  let n := x.chunkLen j
  let hi := s.holdRead x.job (x.planeAddr used 0 + 3 * 4096 * j) (3 * n)
  let lo := match tail with
    | some t => List.replicate n (BitVec.ofNat 8 t)
    | none => s.holdRead x.job (x.planeAddr used 1 + 4096 * j) n
  (List.range n).map (fun i => BitVec.ofNat 32 (field hi (3 * i) 3 * 256 + (lo.getD i 0).toNat))

/-- The values that a LOAD of a plane gives, as FP32; the PRE matrix fills the first 256 elements. -/
def State.loadPlane (s : State) (x : ShardSt) (used : List Nat) (step j code : Nat) : List U32 :=
  let n := x.chunkLen j
  let rs := (x.ranges used step j code).map (fun r => s.holdRead x.job r.1 r.2)
  let b0 := rs.headD []
  match code with
  | 0 => (s.masters x used j none).map (fun b => regOf (regVal b))
  | 1 => (s.masters x used j (some 0)).map (fun b => regOf (regVal b))
  | 2 | 3 => (List.range n).map (fun i => regOf (decodeElement x.momFmt (packedElem b0 x.momFmt.width i)))
  | 4 | 5 =>
    let c := (x.copyScale (if code = 4 then step + 1 else step)).toNat
    let sc := rs.getD 1 []
    (List.range n).map (fun i => regOf (inputValue x.copyFmt (packedElem b0 x.copyFmt.width i) (field sc (i / 32) 1) c))
  | 6 => (List.range n).map (fun i => if i < 256 then regOf (bf16Val (field b0 (2 * i) 2)) else 0)
  | _ => List.replicate n 0

/-! ## Costs (07 R185, Table 7-6) -/

/-- p of an operand register: 1 for at most 12 significant bits, 2 otherwise. -/
def RecChunk.pReg (rc : RecChunk) (gNarrow : Bool) (r : Nat) : Nat :=
  if r = 9 then (if gNarrow then 1 else 2) else if r = 10 ∨ r ∈ rc.narrow then 1 else 2

/-- p of operand B, or of the scalar that stands for it. -/
def RecChunk.pB (rc : RecChunk) (gNarrow : Bool) (scalars : List U32) (w : U64) : Nat :=
  if opBS w then (if (scalars.getD (opS w) 0).toNat % 4096 = 0 then 1 else 2) else rc.pReg gNarrow (opB w)

/-- The cost of an operation (07 Table 7-6). It gives none for a STORE to planes 5 and 6: that of plane 4 and that of planes 2 and 3 (log
entry 43). -/
def opCost (rc : RecChunk) (gNarrow : Bool) (scalars : List U32) (w : U64) : Nat :=
  let pa := rc.pReg gNarrow (opA w)
  let pb := rc.pB gNarrow scalars w
  match opOpc w with
  | 1 | 0x10 => 8
  | 2 => if opPlane w = 0 then 8 else if opPlane w = 4 ∨ opPlane w = 5 then 40 else 16
  | 3 | 4 | 0x0D => 16 * pa * pb
  | 5 => 40
  | 6 | 0x0A | 0x0B | 0x0C => 16
  | 7 | 8 | 9 => 256
  | 0x0E => 16 * pa * opN w
  | 0x0F => 272
  | _ => 0

/-! ## Operations on the values of a chunk -/

/-- What one operation sees: the shard and its chunk, the step, the scalars, the gradient, the planes in use. -/
structure RecCtx where
  x : ShardSt
  used : List Nat
  step : Nat
  seed : U64
  j : Nat
  n : Nat
  scalars : List U32
  g : List Val
  free : Nat

/-- The values of an operand register. -/
def RecCtx.reg (cx : RecCtx) (v : Tab (List U32)) (w : List Val) (r : Nat) : List Val :=
  if r < 8 then (Tab.get (List.replicate cx.n 0) v r).map regVal
  else if r = 8 then w else if r = 9 then cx.g else List.replicate cx.n {}

/-- The values of operand B: a register, or a scalar, scaled by 2^LR_EXP where LR asks for it. -/
def RecCtx.opndB (cx : RecCtx) (v : Tab (List U32)) (w : List Val) (op : U64) : List Val :=
  if opBS op then
    let q := regVal (cx.scalars.getD (opS op) 0)
    List.replicate cx.n (if opLR op then { q with e := q.e + cx.x.lrExp } else q)
  else cx.reg v w (opB op)

/-- Element i of a list of values. -/
def vAt (l : List Val) (i : Nat) : Val := l.getD i {}

/-- The draw of an operation's SR at element i (07 R193): WREAD's with the keys of 07 Table 7-8; for FMA, ADD and STORE the table names no
stream key and no index, and they are free (log entry 25). -/
def RecCtx.draw (cx : RecCtx) (op : U64) (i : Nat) : Nat :=
  let e := cx.x.tensorElem cx.j i
  let key := Config.srKey op.toNat cx.x.tensor e
  let d := if opOpc op = 5 then cbDraw cx.seed (BitVec.ofNat 48 cx.step) cx.x.tensor (e + 2 ^ 31)
    else cbDraw cx.seed (BitVec.ofNat 48 cx.step) (key / 2 ^ 32 % 2 ^ 20) (key % 2 ^ 32)
  d.toNat % 65536

/-- Exact products summed in a window with the operation's coarse exponent and read out: the sum, and whether it was clamped (04 R88, R91,
R114; log entry 94). -/
def windowSum (opc : Nat) (ps : List Val) : Val × Bool :=
  let cexp := max (-126) (sext 8 (Config.opCexp opc).toNat)
  (ps.foldl (fun (w : Window) p => w.place p cexp) {}).read 0 cexp

/-- Element i of the product of the PRE matrix and block i / 256 of A. A short last chunk has zeros for the elements that it lacks (log
entry 95). -/
def matmulElem (pre : List Val) (a : List Val) (i : Nat) : Val × Bool :=
  let k := i / 256
  let row := i % 256 / 16
  let col := i % 16
  windowSum 0x0F ((List.range 16).map (fun t => (vAt pre (16 * row + t)).mul (vAt a (256 * k + 16 * t + col))))

/-- The exact element values that an arithmetic operation gives before its one rounding; none for an operation of another
kind. What CMPSEL and SIGN give for a special operand the spec does not state: a free choice and a free value (log entry 25). -/
def RecCtx.arith (cx : RecCtx) (v : Tab (List U32)) (w : List Val) (op : U64) : Option (List Val) :=
  let a := cx.reg v w (opA op)
  let b := cx.opndB v w op
  let c := cx.reg v w (opC op)
  let d := cx.reg v w (opD op)
  let each := fun (f : Nat → Val) => some ((List.range cx.n).map f)
  match opOpc op with
  | 3 => each (fun i => ((vAt a i).mul (vAt b i)).add (vAt c i))
  | 6 => each (fun i => (vAt a i).add (vAt b i))
  | 7 => each (fun i => regVal (rsqrt (regOf (vAt a i))))
  | 8 => each (fun i => regVal (recip (regOf (vAt a i))))
  | 9 => each (fun i => regVal (exp2 (regOf (vAt a i))))
  | 0x0A => each (fun i =>
      let x := vAt a i
      let y := vAt b i
      let take := if x.special || y.special then bitOf (Config.freeWord (cx.free + i)).toNat 0
        else if opN op = 0 then !x.lt y else y.lt x
      if take then vAt c i else vAt d i)
  | 0x0B => each (fun i =>
      let x := vAt a i
      if x.special then regVal (Config.freeWord (cx.free + i)) else { x with mag := if x.mag = 0 then 0 else 1, e := 0 })
  | _ => none

/-- The rounding mode of an arithmetic operation's result. -/
def arithMode (op : U64) : Nat := if opOpc op = 3 ∨ opOpc op = 6 then opRM op else 0

/-- W read out. -/
def RecCtx.readW (cx : RecCtx) (ws : List Window) : List (Val × Bool) := ws.map (fun w => w.read 0 cx.x.cexp)

/-- Set a register from an exact list, each element rounded to FP32; W takes the values in its windows, and a write to G or ZERO, which are
read only, changes nothing (log entry 43). -/
def RecCtx.setV (cx : RecCtx) (rc : RecChunk) (op : U64) (d mode : Nat) (narrow hi : Bool) (vs : List Val) : RecChunk :=
  let bits := vs.zipIdx.map (fun e => BitVec.ofNat 32 (toFp32 mode (if mode = 2 then cx.draw op e.2 else 0) e.1))
  let mark := fun (on : Bool) (l : List Nat) => if on then insertNew d l else l.filter (fun r => r != d)
  if 8 < d then rc
  else
    let rc := { rc with narrow := mark (narrow && d != 8) rc.narrow, hi := mark hi rc.hi, exact := [] }
    if d = 8 then { rc with w := bits.map (fun b => ({} : Window).place (regVal b) cx.x.cexp) } else { rc with v := Tab.set rc.v d bits }

/-- The format that a STORE converts to: FP32 for the master, BF16 for PRE, FMT for a moment; the built-in images name MOM_FMT there (07
R184, R187). -/
def RecCtx.storeFmt (cx : RecCtx) (op : U64) : Fmt :=
  match opPlane op with
  | 0 => .fp32
  | 6 => .bf16
  | _ => (Fmt.ofCode (opFmt op)).getD cx.x.momFmt

/-- The bits of a moment element whose value has been converted to FMT: those of MOM_FMT that stand for it. A value that MOM_FMT does not
hold leaves a free element (log entry 43). -/
def RecCtx.momBits (cx : RecCtx) (v : Val) (i : Nat) : Nat :=
  let f := cx.x.momFmt
  let b := (convertRun f 0 0x3F80 [(v, 0)]).1.headD 0
  let w := decodeElement f b
  if w.special == v.special && (v.special || (w.sub v).mag == 0) then b else (Config.freeWord (cx.free + i)).toNat % 2 ^ f.width

/-- What a STORE to plane 0, 2, 3 or 6 leaves: the values that A takes, the bytes of each range of the plane, and whether an element was
saturated or special. Elements that such a STORE loses are not counted (03 R80; log entry 93). -/
def RecCtx.storeVals (cx : RecCtx) (op : U64) (a : List Val) : List U32 × List (List Byte) × Bool × Bool :=
  let f := cx.storeFmt op
  let mode := opRM op
  let r := convertRun f mode 0x3F80 (a.zipIdx.map (fun e => (e.1, if mode = 2 then cx.draw op e.2 else 0)))
  let vals := r.1.zipIdx.map (fun e => if f.fine then inputValue f e.1 (r.2.1.getD (e.2 / 32) 0) 0x3F80 else decodeElement f e.1)
  let mom := vals.zipIdx.map (fun e => cx.momBits e.1 e.2)
  let sp := a.any (fun v => v.special)
  match opPlane op with
  | 0 => (vals.map regOf, [r.1.flatMap (fun b => leBytes 3 (b / 256)), r.1.flatMap (fun b => leBytes 1 b)], r.2.2.1, sp)
  | 6 => (vals.map regOf, [packBytes 16 (r.1.take 256)], r.2.2.1, sp)
  | _ => (mom.map (fun b => regOf (decodeElement cx.x.momFmt b)), [packBytes cx.x.momFmt.width mom], r.2.2.1, sp)

/-- The coarse scale of a new copy from the tensor amax (07 R189). -/
def copyCoarse (f : Fmt) (amax : U32) : U16 :=
  let v := regVal amax
  if v.special ∨ v.mag = 0 then 0x3F80
  else
    let e := Int.ofNat (bitLen v.mag) - 1 + v.e - (if f = .fp16 then 14 else 0)
    BitVec.ofNat 16 ((max (-126) (min 127 e) + 127).toNat * 128)

/-- A shard's exponent MEXP from its amax: of a special amax a free value (07 R188; log entry 25). -/
def mexpOf (amax : U32) (free : Nat) : Byte :=
  let v := regVal amax
  if v.special then (Config.freeWord free).setWidth 8
  else if v.mag = 0 then 0 else BitVec.ofInt 8 (max (-126) (min 127 (Int.ofNat (bitLen v.mag) + v.e)))

/-- Convert 32 values as block b of a copy. -/
def RecCtx.convBlock (cx : RecCtx) (b : Nat) (amaxSp : Bool) (coarse : Nat) (vs : List Val) : Block :=
  let mode := cx.x.copyMode
  let r := fun i => if mode = 2 then (cbDraw cx.seed (BitVec.ofNat 48 cx.step) cx.x.tensor (cx.x.tensorElem cx.j (32 * b + i))).toNat % 65536 else 0
  convertBlock cx.x.copyFmt mode coarse (vs.zipIdx.map (fun e => ({ e.1 with special := e.1.special || amaxSp }, r e.2)))

/-- The masters of block b with their low bytes replaced by a tail, if one is given. -/
def State.blockMasters (s : State) (cx : RecCtx) (b : Nat) (tail : Option Nat) : List Val :=
  (((s.masters cx.x cx.used cx.j tail).drop (32 * b)).take 32).map regVal

/-- Does the high part of a block's masters leave its conversion open, so that the LO plane is read (07 R190)? -/
def State.blockOpen (s : State) (cx : RecCtx) (b : Nat) (amaxSp : Bool) (coarse : Nat) : Bool :=
  let conv := fun t => cx.convBlock b amaxSp coarse (s.blockMasters cx b (some t))
  !(conv 0 == conv 1 && conv 0 == conv 255)

/-- Convert one 32-element block of a copy: from masters of which only the high part was loaded, the bits of converting the exact masters
(07 R190). Answers the block and the exact values it stands for. -/
def State.copyBlock (s : State) (cx : RecCtx) (b : Nat) (src : List Val) (hiOnly : Bool) (amaxSp : Bool) (coarse : Nat) :
    Block × List Val :=
  let v := if hiOnly then s.blockMasters cx b none else (src.drop (32 * b)).take 32
  let from_ := if hiOnly && !s.blockOpen cx b amaxSp coarse then s.blockMasters cx b (some 0) else v
  (cx.convBlock b amaxSp coarse from_, v)

/-- The coarse scale that a STORE to a copy plane converts with, and whether it makes the elements special: of the new copy by the tensor
amax (07 R189), of the current one the scale it has (log entry 43). -/
def RecCtx.storeScale (cx : RecCtx) (op : U64) : Nat × Bool :=
  let amax := cx.x.tensorAmax.getD 0
  if opPlane op = 4 then ((copyCoarse cx.x.copyFmt amax).toNat, (regVal amax).special) else ((cx.x.copyScale cx.step).toNat, false)

/-- The blocks of a STORE to a copy plane for which the LO plane is read. -/
def State.openBlocks (s : State) (cx : RecCtx) (rc : RecChunk) (op : U64) : List Nat :=
  if opOpc op = 2 ∧ (opPlane op = 4 ∨ opPlane op = 5) ∧ opA op ∈ rc.hi then
    let (coarse, sp) := cx.storeScale op
    (List.range ((cx.n + 31) / 32)).filter (fun b => s.blockOpen cx b sp coarse)
  else []

/-! ## The step of a shard -/

/-- A shard's step begins with the first gradient chunk of a run that is released to it (07 R205). -/
def ShardSt.beginStep (x : ShardSt) : ShardSt :=
  if x.state = 1 then
    { x with state := 2, status := 0, sat := false, special := false, lostElem := 0, lostMass := 0, running := {}, q := [],
             tensorAmax := none, grads := [], work := [], updCount := 0, quantCount := 0, tasteDiv := 0, tasteBlock := 0,
             tasteBlocks := 0 }
  else x

/-- A gradient chunk of a run goes to a shard. A step that has ended takes no more chunks of its run (07 Table 7-9). -/
def ShardSt.takeChunk (x : ShardSt) (run : TideNo) (j : Nat) (ps : List OutPkt) : ShardSt :=
  if x.state = 1 ∧ x.stepRun = some run then x
  else
    let x := { x.beginStep with stepRun := some run }
    let old := Tab.get? x.work j
    { x with grads := Tab.set x.grads j ps, work := Tab.erase x.work j,
             updCount := x.updCount - bitNat (old.any (fun r => r.updDone)),
             quantCount := x.quantCount - bitNat (old.any (fun r => r.quantDone)) }

/-- Give a released chunk to the shards that consume it: gradients by GRAD_SID, the tensor amax by AMAX_SID; one that no
shard consumes is counted (07 R176, R189). -/
def State.deliver (s : State) (n : Nat) (m : ManifestCfg) (c : Nat) (ps : List OutPkt) : State :=
  let takes := fun (x : ShardSt) => x.job == m.job && x.gradSid == n && (x.state == 1 || x.state == 2)
  let amaxOf := fun (x : ShardSt) => x.job == m.job && x.amaxSid == n && x.state == 2
  let amax := match ps with
    | p :: _ =>
      let hd := Hdr.ofBytes (p.payload.take 64)
      let f := (Fmt.ofCode hd.fmt).getD .fp32
      regOf (inputValue f (packedElem (p.payload.drop 64) f.width 0) (field p.payload (64 * (1 + hd.body)) 1) hd.coarse)
    | [] => 0
  let hit := s.shards.any (fun e => (takes e.2 && (e.2.chunkOf c).isSome) || amaxOf e.2)
  let run := (s.stream n).homeStat.armTide
  let s1 := { s with shards := Tab.mapV s.shards (fun _ x =>
    if amaxOf x then { x with tensorAmax := some amax }
    else if takes x then
      match x.chunkOf c with
      | none => x
      | some j => x.takeChunk run j ps
    else x) }
  let s1 := if s.shards.any (fun e => amaxOf e.2) then (s1.modChunk n c (fun ch => { ch with recipeAck := true })).freeAcked n m c
    else s1
  if hit then s1 else s1.jobDrop m.job

/-- The decoded gradient of a shard chunk: the value packets of its released chunk. -/
def gradVals (n : Nat) (ps : List OutPkt) : List Val :=
  (List.range n).map (fun i =>
    match ps.find? (fun p => p.seg == 0 && decide (p.elemOff ≤ i)
        && decide (i < p.elemOff + (Hdr.ofBytes (p.payload.take 64)).elems)) with
    | none => {}
    | some p =>
      let hd := Hdr.ofBytes (p.payload.take 64)
      let f := (Fmt.ofCode hd.fmt).getD .fp32
      let k := i - p.elemOff
      inputValue f (packedElem (p.payload.drop 64) f.width k) (field p.payload (64 * (1 + hd.body) + k / 32) 1) hd.coarse)

/-- Send elements of a copy as COPY packets, from the mover of the shard's stack (07 R177, 08 Table 8-5, 09 R236). -/
def State.sendCopy (s : State) (x : ShardSt) (j version : Nat) (coarse : Nat) (bits fine : List Nat) (dst : Nat) (mcast : Bool)
    (h : Half) : State :=
  let f := x.copyFmt
  let tc := x.tensorChunk j
  let base : Hdr := {
    dst := dst, src := s.own, kind := 4, fmt := x.copyCode, enc := 0, seg := 0, body := 0, scales := 0,
    mcast := mcast, job := x.job, sid := x.tensor, gen := 0, chunk := tc % 65536, off := 0, elems := 0, rank := 0,
    coarse := coarse, xfer := 0, flow := 0, birth := 0, param := tc / 65536 * 2 ^ 48 + version }
  (outPkts base 0 (perPacket f.width) (packBytes f.width) fine bits).foldl (fun s p =>
    s.inject h ((s.half h).stackPort (holdStack x.cfg.holdBase.toNat)) (Hdr.ofBytes (p.payload.take 64)) (p.payload.drop 64) false) s

/-- The elements and fine scales of a shard chunk's copy in a slot. -/
def State.copyBits (s : State) (x : ShardSt) (used : List Nat) (j slot : Nat) : List Nat × List Nat :=
  let rs := (x.ranges used slot j 5).map (fun r => s.holdRead x.job r.1 r.2)
  let n := x.chunkLen j
  ((List.range n).map (fun i => packedElem (rs.headD []) x.copyFmt.width i),
   if x.copyFmt.fine then (rs.getD 1 []).map (fun b => b.toNat) else [])

/-- The divergence of a tasted block (07 R198). -/
def divergence (a b : List Val) : U32 :=
  let mx := fun (l : List Val) => l.foldl (fun m v => m.maxV v.abs) ({} : Val)
  let num := mx ((a.zip b).map (fun p => p.1.sub p.2))
  let den := mx b
  if den.mag = 0 then (if (mx a).mag = 0 then 0 else 0x7F800000)
  else
    let q := rtoQuotientBy num.mag num.e den.mag den.e
    BitVec.ofNat 32 (convertElement .fp32 0 false q.1 q.2 0 0).1

/-- Record the tasting of a chunk's blocks against the wide lanes' values (07 R198, R199). -/
def State.tasteChunk (s : State) (key : Nat) (blocks : List Nat) (a b : List Val) (first : Nat) : State :=
  match s.shard? key with
  | none => s
  | some x0 =>
    blocks.foldl (fun s k =>
      let cut := fun (l : List Val) => (l.drop (32 * k)).take 32
      let d := divergence (cut a) (cut b)
      let s := s.modShard key (fun x =>
        let more := x.tasteBlocks = 0 ∨ x.tasteDiv < d
        { x with tasteBlocks := x.tasteBlocks + 1, tasteDiv := if more then d else x.tasteDiv,
                 tasteBlock := if more then BitVec.ofNat 32 (first / 32 + k) else x.tasteBlock })
      if (regVal (s.job x0.job).tasteTh).lt (regVal d) || d == 0x7F800000 then s.raisePkg 23 else s) s

/-- The larger magnitude, exact; a special value makes the maximum special (07 Table 7-6, 03 R65). -/
def ExactVal.maxAbs (a : ExactVal) (v : Val) : ExactVal :=
  if a.special || v.special then { special := true } else if a.val.lt v.abs then { sig := v.abs.sig, exp := v.e } else a

/-- Add a sum to an exact scalar accumulator. -/
def ExactVal.plus (a : ExactVal) (v : Val) : ExactVal :=
  let r := a.val.add v
  { special := r.special, sig := r.sig, exp := r.e }

/-- Note that values were saturated or special in a shard's step. -/
def ShardSt.flag (y : ShardSt) (sat sp : Bool) : ShardSt := { y with sat := y.sat || sat, special := y.special || sp }

/-- The wide lanes' copy of a register, kept while blocks of the chunk are tasted (07 R198). -/
def RecChunk.setWide (rc : RecChunk) (tasted : Bool) (d : Nat) (vs : List Val) : RecChunk :=
  if !tasted ∨ 8 < d then rc
  else if d = 8 then { rc with wideW := vs.map regOf } else { rc with wideV := Tab.set rc.wideV d (vs.map regOf) }

/-- A STORE to a copy plane: the new copy's (4), or the current one's (5) (07 R189 to R191). -/
def State.storeCopy (s : State) (key : Nat) (cx : RecCtx) (rc : RecChunk) (op : U64) (a wide : List Val) (blocks : List Nat) :
    State × RecChunk :=
  let x := cx.x
  let (coarse, sp) := cx.storeScale op
  let bs := (List.range ((cx.n + 31) / 32)).map (fun b => s.copyBlock cx b a (decide (opA op ∈ rc.hi)) sp coarse)
  let bits := bs.flatMap (fun b => b.1.bits)
  let fine := bs.map (fun b => b.1.fine)
  let lost := bs.flatMap (fun b => (b.2.zip b.1.lost).filter (fun e => e.2))
  let unit := bf16Val coarse
  let cexp := Int.ofNat (bitLen unit.mag) - 1 + unit.e
  let rs := x.ranges cx.used cx.step cx.j (opPlane op)
  let s := s.holdWrite x.job (rs.headD (0, 0)).1 (packBytes x.copyFmt.width bits)
  let s := if x.copyFmt.fine then s.holdWrite x.job (rs.getD 1 (0, 0)).1 (fine.map (fun b => BitVec.ofNat 8 b)) else s
  let s := s.modShard key (fun y => { y.flag (bs.any (fun b => b.1.sat)) (sp || bs.any (fun b => b.2.any (fun v => v.special))) with
    lostElem := satAdd 32 y.lostElem lost.length
    lostMass := satAdd 128 y.lostMass ((lost.map (fun e => massOf cexp e.1)).sum) })
  let back := (List.range cx.n).map (fun i => inputValue x.copyFmt (bits.getD i 0) (fine.getD (i / 32) 0) coarse)
  let rc := cx.setV rc op (opA op) 0 true false back
  if opPlane op ≠ 4 then (s, rc)
  else
    let s := s.tasteChunk key blocks back wide (x.tensorElem cx.j 0)
    (s.modShard key (fun y => { y with pVer := some (BitVec.ofNat 48 (cx.step + 1), BitVec.ofNat 16 coarse) }), rc)

/-- EMIT: a gather of the new version to the shard's copy group. It waits, as any gather, until the slot has that version (07 R177, R180,
R181); the limit of waiting gathers does not refuse it (log entry 90). -/
def State.emitCopy (s : State) (key : Nat) (cx : RecCtx) : State :=
  let (id, s) := s.fresh
  let v : TideNo := BitVec.ofNat 48 (cx.step + 1)
  let g : Gather := {
    id := id, job := cx.x.job, shard := key, tensor := cx.x.tensor, first := cx.x.tensorChunk cx.j, count := 1, version := v,
    dest := (Config.copyGroup key).setWidth 32, mcast := true, asked := s.now, waiting := true, requester := none }
  { s with gathers := s.gathers ++ [g] }.gatherUp cx.x.job v

/-- The effect of one operation on a chunk of a shard; `keep` says that the next operation stores its result, which is then not rounded
first (07 R187). Answers the machine and the chunk after it. -/
def State.recipeOp (s : State) (key : Nat) (cx : RecCtx) (rc : RecChunk) (op : U64) (blocks : List Nat) (keep : Bool) : State × RecChunk :=
  let x := cx.x
  let wv := (cx.readW rc.w).map (fun e => e.1)
  let a := cx.reg rc.v wv (opA op)
  let d := opD op
  -- the wide lanes' copy of the registers, for tasting
  let ww := rc.wideW.map regVal
  let tasted := !blocks.isEmpty
  let wa := cx.reg rc.wideV ww (opA op)
  let mod := fun (s : State) (f : ShardSt → ShardSt) => s.modShard key f
  match opOpc op with
  | 1 =>
    let p := opPlane op
    let vs := s.loadPlane x cx.used cx.step cx.j p
    let wvs := Tab.get vs rc.wideP (if p = 1 then 0 else p)
    let rc := { rc with loaded := insertNew p rc.loaded }
    let narrow := decide (4 ≤ p) || (decide (2 ≤ p) && x.momFmt == .bf16)
    (s, (cx.setV rc op d 0 narrow (p == 1) (vs.map regVal)).setWide tasted d (wvs.map regVal))
  | 2 =>
    if opPlane op = 4 ∨ opPlane op = 5 then s.storeCopy key cx rc op a wa blocks
    else
      let (regs, bytes, sat, sp) := cx.storeVals op (if rc.exact.isEmpty then a else rc.exact.map (fun e => e.val))
      let rs := x.ranges cx.used cx.step cx.j (opPlane op)
      let s := (rs.zip bytes).foldl (fun s e => s.holdWrite x.job e.1.1 e.2) s
      let rc := cx.setV rc op (opA op) 0 (opPlane op == 6 || (opPlane op != 0 && x.momFmt == .bf16)) false (regs.map regVal)
      (mod s (fun y => y.flag sat sp), if tasted then { rc with wideP := Tab.set rc.wideP (opPlane op) (wa.map regOf) } else rc)
  | 4 =>
    let b := cx.opndB rc.v wv op
    let ws := (List.range cx.n).map (fun i => (rc.w.getD i {}).place ((vAt a i).mul (vAt b i)) x.cexp)
    let wb := cx.opndB rc.wideV ww op
    let wide := (List.range cx.n).map (fun i => (vAt ww i).add ((vAt wa i).mul (vAt wb i)))
    (s, { rc with w := ws, hi := rc.hi.filter (fun r => r != 8) }.setWide tasted 8 wide)
  | 5 =>
    let rd := cx.readW rc.w
    (mod s (fun y => y.flag (rd.any (fun e => e.2)) false),
     (cx.setV rc op d x.masterMode false false (rd.map (fun e => e.1))).setWide tasted d ww)
  | 0x0C => (mod s (fun y => { y with running := a.foldl ExactVal.maxAbs y.running }), rc)
  | 0x0D =>
    let b := cx.opndB rc.v wv op
    let (sum, sat) := windowSum 0x0D ((List.range cx.n).map (fun i => (vAt a i).mul (vAt b i)))
    (mod s (fun y => { y.flag sat false with q := Tab.upd {} y.q d (fun q => q.plus sum) }), rc)
  | 0x0E =>
    let sums := (List.range (opN op)).map (fun i => windowSum 0x0E ((List.range cx.n).map (fun n =>
      let draw := (cbDraw cx.seed (BitVec.ofNat 48 cx.step) x.tensor (x.tensorElem cx.j n)).toNat
      if bitOf draw (16 + i) then (vAt a n).negV else vAt a n)))
    let add := fun (q0 : Tab ExactVal) => sums.zipIdx.foldl (fun q e =>
      if d + e.2 < 16 then Tab.upd {} q (d + e.2) (fun v => v.plus e.1.1) else q) q0
    (mod s (fun y => { y.flag (sums.any (fun e => e.2)) false with q := add y.q }), rc)
  | 0x0F =>
    let pre := (s.loadPlane x cx.used cx.step cx.j 6).map regVal
    let vs := (List.range cx.n).map (fun i => matmulElem pre a i)
    let narrow := decide (1 ≤ opFmt op ∧ opFmt op ≤ 8)
    (mod s (fun y => y.flag (vs.any (fun e => e.2)) false),
     (cx.setV rc op d 0 narrow false (vs.map (fun e => e.1))).setWide tasted d ((List.range cx.n).map (fun i => (matmulElem pre wa i).1)))
  | 0x10 => (s.emitCopy key cx, rc)
  | _ =>
    match cx.arith rc.v wv op with
    | none => (s, rc)
    | some vs =>
      let rc := (cx.setV rc op d (arithMode op) (opOpc op == 0x0B) false vs).setWide tasted d ((cx.arith rc.wideV ww op).getD [])
      (s, if keep then { rc with exact := vs.map (fun v => { special := v.special, sig := v.sig, exp := v.e }) } else rc)

/-- Inject the shard amax into its amax stream: one FP32 element of rank 0 (07 R188). -/
def State.injectAmax (s : State) (x : ShardSt) (amax : U32) (h : Half) (port : Nat) : State :=
  let hd : Hdr := {
    dst := s.own, src := s.own, kind := 1, fmt := 9, enc := 0, seg := 0, body := 1, scales := 0, mcast := false,
    job := x.job, sid := x.amaxSid, gen := (s.stream x.amaxSid).gen.toNat, chunk := 0, off := 0, elems := 1, rank := 0,
    coarse := 0x3F80, xfer := 0, flow := 0, birth := 0, param := 0 }
  s.inject h port hd (leBytes 4 amax.toNat) false

/-- Acknowledge a gradient chunk to its stream (05 R133, 07 R185). -/
def State.ackGrad (s : State) (x : ShardSt) (j : Nat) : State :=
  match s.mfst x.gradSid with
  | some m =>
    let c := x.tensorChunk j
    if ((s.stream x.gradSid).chunk c).released then
      (s.modChunk x.gradSid c (fun ch => { ch with recipeAck := true })).freeAcked x.gradSid m c
    else s
  | none => s

/-- A chunk's UPDATE is done: its stamp is set, and after the last one the shard's amax and MEXP (07 R188, R196). -/
def State.updateDone (s : State) (key j step : Nat) (rc : RecChunk) (port : Nat) : State :=
  let s := s.modShard key (fun x => { x with
    stamps := Tab.set x.stamps j (BitVec.ofNat 17 (65536 + step % 65536)), updCount := x.updCount + 1,
    work := Tab.set x.work j { rc with updDone := true, pc := 0, undo := [], v := [], w := [], loaded := [], narrow := [], hi := [],
                                       exact := [], wideV := [], wideW := [] } })
  match s.shard? key with
  | none => s
  | some x =>
    if x.updCount < x.chunks then s
    else
      let s := { s with freeCtr := s.freeCtr + 1 }
      let amax := regOf x.running.val
      (s.modShard key (fun y => { y with amax := amax, mexp := mexpOf amax (s.freeCtr - 1) })).injectAmax x amax x.half port

/-- May a section of a shard begin: no safe state or fence on its way (13 R352, R355)? -/
def State.sectionOk (s : State) (x : ShardSt) (eng : Nat) : Bool :=
  !s.halfSafe x.half && !(s.job x.job).fenced && !s.fault.fences.any (fun f => f.active && f.obj == .engine x.half
    ⟨s.physEng x.half eng % 20, Nat.mod_lt _ (by decide)⟩)

/-- Chunks of recipe work in flight on a tile. -/
def State.inFlight (s : State) (h : Half) (eng tile : Nat) : Nat :=
  (s.shards.map (fun e => if e.2.half = h then
    e.2.work.countP (fun r => r.2.eng == eng && r.2.tile == tile && r.2.pc != 0) else 0)).sum

/-- Can a tile take one more chunk of recipe work: at most four, each in four of the 16 chunk slots, which streams hold too (04 R83, 07
R183; log entry 91)? -/
def State.recipeRoom (s : State) (h : Half) (eng tile : Nat) : Bool :=
  let n := s.inFlight h eng tile
  decide (n < 4 ∧ 4 * (n + 1) + (s.tile (tileKey h eng tile)).slots.countP (fun e => decide (e.1 < 16)) ≤ 16)

/-- A read of the Hold met an uncorrectable error: the chunk's section leaves nothing written, the step ends POISONED, and the shard
goes to POISONED at the next boundary (07 R204; log entry 73). -/
def State.loadError (s : State) (key : Nat) (rc : RecChunk) (a : Nat) : State :=
  ((s.holdRestore rc.undo).holdError a (accessDetail a)).modShard key (fun y => { y.endStep 2 with pPoison := true })

/-- Does a built-in image round an operation's result only when the next operation stores it (07 R187)? -/
def keepsExact (x : ShardSt) (ops : List U64) (pc : Nat) (op : U64) : Bool :=
  decide (0xF0 ≤ x.image) && opOpc op == 3 && (ops[pc + 1]?).any (fun w => opOpc w == 2 && opA w == opD op)

/-- An operation takes effect on its chunk, and what follows it: the next operation, or the end of its section.
A STORE notes what it overwrites. -/
def State.stepRecipe (s : State) (key : Nat) (cx : RecCtx) (rc : RecChunk) (ops : List U64) (op : U64) (blocks : List Nat) (k : Nat) : State :=
  let j := cx.j
  let rc := if opOpc op = 2 then { rc with undo := s.holdSaved (cx.x.ranges cx.used cx.step j (opPlane op)) ++ rc.undo } else rc
  let (s, rc) := s.recipeOp key cx rc op blocks (keepsExact cx.x ops rc.pc op)
  let s := { s with freeCtr := s.freeCtr + 4096 }
  let rc := { rc with pc := rc.pc + 1 }
  if rc.pc < ops.length then s.modShard key (fun y => { y with work := Tab.set y.work j rc })
  else if rc.quant then
    s.modShard key (fun y => { y with work := Tab.set y.work j { rc with quantDone := true, pc := 0, undo := [] },
                                      quantCount := y.quantCount + 1 })
  else s.updateDone key j cx.step rc (s.enginePort k)

/-- The Hold ranges that an operation reads: a LOAD and MATMUL a plane that the chunk has not loaded yet (07 R185), a STORE to a copy the LO
plane where the high part leaves a block open. -/
def State.opReadsAt (s : State) (cx : RecCtx) (rc : RecChunk) (op : U64) : List (Nat × Nat) :=
  let plane := fun (p : Nat) => if p ∈ rc.loaded then [] else cx.x.ranges cx.used cx.step cx.j p
  match opOpc op with
  | 1 => plane (opPlane op)
  | 0x0F => plane 6
  | 2 => if (s.openBlocks cx rc op).isEmpty then [] else (cx.x.ranges cx.used cx.step cx.j 0).drop 1
  | _ => []

/-- The Hold ranges of the plane that an operation writes, or sends. -/
def RecCtx.opWritesAt (cx : RecCtx) (op : U64) : List (Nat × Nat) :=
  match opOpc op with
  | 2 => cx.x.ranges cx.used cx.step cx.j (opPlane op)
  | 0x10 => cx.x.ranges cx.used cx.step cx.j 4
  | _ => []

/-- One operation on a chunk: the Hold ranges that it reaches are checked against the job's granules first (07 R172), and a read may meet an
uncorrectable error. -/
def State.runRecipe (s : State) (key : Nat) (x : ShardSt) (r : Recipe) (j : Nat) (rc : RecChunk) (k cyc : Nat)
    (ue : Option (BitVec 41)) : State :=
  let job := s.job x.job
  let n := x.chunkLen j
  let scalars := Tab.get [] job.params x.block
  let ps := Tab.get [] x.grads j
  let gFmt := (ps.head?.bind (fun p => Fmt.ofCode (Hdr.ofBytes (p.payload.take 64)).fmt)).getD .fp32
  let ops := if rc.quant then r.quant else r.update
  match ops[rc.pc]? with
  | none => s
  | some op =>
    let blocks := if job.tasteK = 0 then [] else
      (List.range ((n + 31) / 32)).filter (fun b => s.selected x.job x.tensor (x.tensorElem j (32 * b)) job.tasteK)
    let cost := opCost rc (!gFmt.wide) scalars op + 2 * blocks.length
    if !s.fits k cyc cost then s
    else
      let s := s.charge k cost (.shard key j)
      let cx : RecCtx := ⟨x, r.planes, job.step.toNat, job.seed, j, n, scalars, gradVals n ps, s.freeCtr⟩
      let reads := s.opReadsAt cx rc op
      if !(reads ++ cx.opWritesAt op).all (fun g => job.inHold g.1 g.2) then s.modShard key (fun y => y.endStep 4)
      else
        let s := if rc.pc = 0 ∧ !rc.quant then s.ackGrad x j else s
        match (if reads.isEmpty then none else ue) with
        | some a => s.loadError key rc a.toNat
        | none => s.stepRecipe key cx rc ops op blocks k

/-- The chunk's record for its next operation: an UPDATE begins in chunk order once the gradient is released; a QUANT once
the tensor amax is released and RETIRED has reached s - 1 (07 R181, R185, R189). -/
def State.nextSection (s : State) (x : ShardSt) (j eng tile : Nat) : Option RecChunk :=
  match Tab.get? x.work j with
  | some rc =>
    if !rc.updDone then (if rc.eng = eng ∧ rc.tile = tile then some rc else none)
    else if rc.quantDone then none
    else if rc.quant then (if rc.eng = eng ∧ rc.tile = tile then some rc else none)
    else
      let first := (List.range j).all (fun i => (Tab.get? x.work i).any (fun r => r.quant))
      let ret := match (s.job x.job).retired with
        | some t => decide ((s.job x.job).step.toNat ≤ (t + 1).toNat)
        | none => false
      if x.tensorAmax.isSome && x.updCount == x.chunks && first && ret && s.sectionOk x eng && s.recipeRoom x.half eng tile then
        some { rc with quant := true, pc := 0, eng := eng, tile := tile }
      else none
  | none =>
    let first := (List.range j).all (fun i => (Tab.get? x.work i).isSome)
    if (Tab.get? x.grads j).isSome && first && s.sectionOk x eng && s.recipeRoom x.half eng tile then
      some { eng := eng, tile := tile }
    else none

/-- The cost of a chunk whose UPDATE is skipped: a LOAD of plane 0 and an AMAX (07 R196; log entry 92). -/
def costStamped : Nat := 24

/-- A chunk already stamped with the step only has its master's AMAX taken (07 R196). -/
def State.skipUpdate (s : State) (key : Nat) (x : ShardSt) (r : Recipe) (j : Nat) (rc : RecChunk) (k cyc : Nat) (ue : Option (BitVec 41)) : State :=
  let step := (s.job x.job).step.toNat
  if !s.fits k cyc costStamped then s
  else
    let s := s.charge k costStamped (.shard key j)
    if !(x.ranges r.planes step j 0).all (fun g => (s.job x.job).inHold g.1 g.2) then s.modShard key (fun y => y.endStep 4)
    else
      let s := s.ackGrad x j
      match ue with
      | some a => s.loadError key rc a.toNat
      | none =>
        let am := (s.masters x r.planes j none).foldl (fun m b => m.maxAbs (regVal b)) x.running
        (s.modShard key (fun y => { y with running := am })).updateDone key j step rc (s.enginePort k)

/-- Is a chunk's apply stamp valid and that of a step (07 R196)? -/
def ShardSt.stamped (x : ShardSt) (j step : Nat) : Bool := Tab.get 0 x.stamps j == BitVec.ofNat 17 (65536 + step % 65536)

/-- RECIPE_OPERATION: the next operation of a shard's chunk is admitted on a tile; an image with a scrub error ends the step POISONED (13
Table 13-14). -/
def execRecipeOperation (h : Half) (index : BitVec 20) (chunk : U16) (eng : Fin 20) (tile : Fin 8) (cyc : Nat)
    (ue : Option (BitVec 41)) (s : State) : Host.Outcome State Fault Refusal :=
  let key := shardKey h index.toNat
  let k := tileKey h eng.val tile.val
  let j := chunk.toNat
  match s.shard? key with
  | none => .next s
  | some x =>
    if x.state ≠ 2 ∨ s.blocked k cyc 4 then .next s
    else if x.image ∈ (s.job x.job).imageBad then .next (s.modShard key (fun y => y.endStep 2))
    else
      match s.imageOf x, s.nextSection x j eng.val tile.val with
      | some r, some rc =>
        .next (if !rc.quant && rc.pc == 0 && x.stamped j (s.job x.job).step.toNat then s.skipUpdate key x r j rc k cyc ue
          else s.runRecipe key x r j rc k cyc ue)
      | _, _ => .next s

end Sys2Proof.Machine
end

