-- ==== Sys2Proof/Machine/Collect.lean ====
section
/-! DEFINITION. RESHARD rounds, gathers, prefetches and the patrol scrub (06 R165, 07 R177 to R180, R203, R204, 13 R359). -/

namespace Sys2Proof.Machine

/-! ## Reshard (06 R165) -/

/-- The running round of a job, and of a record. -/
def State.reshardOf (s : State) (job : Nat) : Option (Nat × CollSt × ReshardSt) :=
  s.colls.findSome? (fun e => if e.2.job = job ∧ e.2.state = 3 then e.2.reshard.map (fun r => (e.1, e.2, r)) else none)

def State.modReshard (s : State) (cid : Nat) (f : ReshardSt → ReshardSt) : State :=
  s.modColl cid (fun c => { c with reshard := c.reshard.map f })

/-- A round ends: the record becomes DONE (4) or, abandoned, BROKEN (5), and its staging goes. -/
def State.endReshard (s : State) (cid : Nat) (st : BitVec 4) : State :=
  s.modColl cid (fun c => { c with state := st, reshard := none })

/-- Put received bytes into the job's staging area. -/
def State.stage (s : State) (cid addr : Nat) (bs : List Byte) : State :=
  s.modReshard cid (fun r => { r with staging := Tab.set r.staging addr bs })

/-- RESHARD_PACKET: a packet without a running round of its job is counted against the job. A source of packets is one of the sources
whose end cells the round waits for (log entry 26). -/
def execReshardPacket (h : Half) (pid : Nat) (s : State) : Host.Outcome State Fault Refusal :=
  match s.readyPkt h pid 5 with
  | none => .next s
  | some p =>
    let hd := p.hdr
    match s.reshardOf hd.job with
    | none => .next ((s.jobDrop hd.job).consume h pid)
    | some (cid, _, r) =>
      if r.writing then .next ((s.jobDrop hd.job).consume h pid)
      else
        let s := s.stage cid (bitsOf hd.param 0 41) ((p.payload.drop 64).take hd.elems)
        .next ((s.modReshard cid (fun r => { r with sources := insertNew (addrSwitch hd.src) r.sources })).consume h pid)

/-- RESHARD_END: one source has sent all it has for this round. -/
def execReshardEnd (c : Ctrl) (round : U32) (s : State) : Host.Outcome State Fault Refusal :=
  let (s, me) := s.ctrlIn c (.reshardEnd round)
  match me, s.reshardOf c.job.toNat with
  | true, some (cid, _, r) =>
    if r.round = round then
      .next (s.modReshard cid (fun r => { r with ends := insertNew (addrSwitch c.src.toNat) r.ends }))
    else .next s
  | _, _ => .next s

/-- The header of a RESHARD packet (08 Table 8-5), with the tag and the generation of its record (06 R150). -/
def State.reshardHdr (s : State) (c : CollSt) (dst : U32) (addr n : Nat) : Hdr := {
  dst := dst.toNat, src := s.own, kind := 5, fmt := 0, enc := 3, seg := 0, body := (n + 63) / 64, scales := 0, mcast := false,
  job := c.job, sid := bitsOf c.ctl.toNat 0 20, gen := c.gen.toNat, chunk := 0, off := 0, elems := n, rank := 0, coarse := 0, xfer := 0, flow := 0, birth := 0,
  param := addr }

/-- RESHARD_READ_DONE: an entry's range has been read; its packets leave, or go to staging if it stays here, and after the
last packet to a destination its end cell follows. A range outside the job's granules is not read (07 R172). -/
def execReshardReadDone (cid : BitVec 12) (entry : Nat) (s : State) : Host.Outcome State Fault Refusal :=
  let n := cid.toNat
  let rec_ := s.coll n
  match rec_.reshard with
  | none => .next s
  | some r =>
    match r.entries[entry]? with
    | none => .next s
    | some e =>
      if e.sent || r.writing || rec_.state != 3 then .next s
      else
        let self := addrSwitch e.dstSwitch.toNat == addrSwitch s.own
        let ok := (s.job rec_.job).inHold e.srcAddr e.length
        let parts := if ok then (List.range (e.length / 4096)).map (fun i => 4096 * i) else []
        let h := holdHalf e.srcAddr
        let s := parts.foldl (fun s o =>
          let bs := s.holdRead rec_.job (e.srcAddr + o) 4096
          if self then s.stage n (e.dstAddr + o) bs
          else s.inject h ((s.half h).stackPort (holdStack e.srcAddr)) (s.reshardHdr rec_ e.dstSwitch (e.dstAddr + o) 4096) bs false) s
        let s := s.modReshard n (fun r => { r with entries := setAt r.entries entry { e with sent := true } })
        let left := r.entries.zipIdx.any (fun x => x.2 != entry && x.1.dstSwitch == e.dstSwitch && !x.1.sent)
        if self || left then .next s else .next (s.sendCtrlAt h e.dstSwitch rec_.job (.reshardEnd r.round))

/-- May a round write: everything sent, and an end cell from every source? -/
def ReshardSt.ready (r : ReshardSt) : Bool := r.entries.all (fun e => e.sent) && r.sources.all (fun a => decide (a ∈ r.ends))

/-- RESHARD_WRITE_PHASE. -/
def execReshardWritePhase (cid : BitVec 12) (s : State) : Host.Outcome State Fault Refusal :=
  let c := s.coll cid.toNat
  match c.reshard with
  | some r =>
    if c.state = 3 ∧ r.ready ∧ !r.writing then .next (s.modReshard cid.toNat (fun r => { r with writing := true })) else .next s
  | none => .next s

/-- RESHARD_WRITE_DONE: staging is in the Hold; what lies outside the job's granules is not written, and a half in the safe
state discards it (07 R172, 13 R352). -/
def execReshardWriteDone (cid : BitVec 12) (s : State) : Host.Outcome State Fault Refusal :=
  let c := s.coll cid.toNat
  match c.reshard with
  | some r =>
    if c.state = 3 ∧ r.writing then
      .next ((r.staging.foldl (fun s e =>
        if (s.job c.job).inHold e.1 e.2.length && !s.halfSafe (holdHalf e.1) then s.holdWrite c.job e.1 e.2 else s) s).endReshard
          cid.toNat 4)
    else .next s
  | none => .next s

/-- RESHARD_TIMEOUT: 65,536 tides after the command, not yet writing. -/
def execReshardTimeout (cid : BitVec 12) (s : State) : Host.Outcome State Fault Refusal :=
  let c := s.coll cid.toNat
  match c.reshard with
  | some r => if !r.writing ∧ tideReached s.now r.deadline then .next (s.endReshard cid.toNat 5) else .next s
  | none => .next s

/-! ## Gathers (07 R177 to R180) -/

/-- The shard of a job that holds a tensor's chunks, with its key. -/
def State.shardOf (s : State) (job tensor first count : Nat) : Option (Nat × ShardSt) :=
  s.shards.find? (fun e => e.2.state != 0 && e.2.job == job && e.2.tensor == tensor
    && (rangeFrom first count).all (fun c => (e.2.chunkOf c).isSome))

/-- Is a version closed, now or from the next boundary? Only what has taken effect counts (07 R178). -/
def JobSt.isClosed (j : JobSt) (v : TideNo) : Bool := j.closed.any (fun c => c == v)

/-- Why a gather is refused as it arrives: the lowest code of Table 7-3 that holds. RETIRED of a job seeded with version 0 is -1. -/
def State.gatherReason (s : State) (job tensor first count : Nat) (v : TideNo) : Option Byte :=
  let j := s.job job
  match j.retired with
  | none => some 4
  | some r =>
    let sh := s.shardOf job tensor first count
    let waits := sh.any (fun e => e.2.verOf v.toNat != v)
    let causes : List (Byte × Bool) := [
      (1, decide (v.toNat < (r + 1).toNat)),
      (2, j.isClosed v),
      (3, decide ((r + 1).toNat + 1 < v.toNat)),
      (4, sh.isNone),
      (5, sh.any (fun e => e.2.state == 3)),
      (6, waits && s.sec.power == 1),
      (7, waits && decide (1024 ≤ s.gathers.countP (fun g => g.job == job && g.waiting))),
      (8, j.fenced)]
    (causes.find? (fun c => c.2)).map (fun c => c.1)

/-- A refused gather is counted (07 R179). -/
def State.countRefused (s : State) (job : Nat) : State :=
  s.modJob job (fun j => { j with gatherRefused := satAdd 32 j.gatherRefused 1 })

/-- Refuse a gather, to the one who asked by a cell: from the mover of the stack that holds the shard named or, if none is, from the control
mover of the half that the request came to (09 R236). -/
def State.refuseGather (s : State) (g : Gather) (reason : Byte) : State :=
  let s := s.countRefused g.job
  match g.requester with
  | some a =>
    let (h, port) := match s.shardOf g.job g.tensor g.first g.count with
      | some (_, x) => (x.half, (s.half x.half).stackPort (holdStack x.cfg.holdBase.toNat))
      | none => (g.via, (s.half g.via).ctrlPort)
    s.sendCtrlFrom h port a g.job
      (.gatherRefused (BitVec.ofNat 20 g.tensor) (BitVec.ofNat 20 g.first) (BitVec.ofNat 16 g.count) g.version reason)
  | none => s

/-- An accepted gather is refused after all. -/
def State.dropGather (s : State) (g : Gather) (reason : Byte) : State :=
  (({ s with gathers := s.gathers.filter (fun x => x.id != g.id) }).gatherDown g.job g.version).refuseGather g reason

/-- GATHER_REQ. -/
def execGatherReq (c : Ctrl) (tensor first : BitVec 20) (count : U16) (version : TideNo) (dest : U32) (mcast : Bool) (s : State) :
    Host.Outcome State Fault Refusal :=
  let (s, me) := s.ctrlIn c (.gatherReq tensor first count version dest mcast)
  if !me then .next s
  else
    let job := c.job.toNat
    let (id, s) := s.fresh
    let g : Gather := {
      id := id, job := job, shard := 0, tensor := tensor.toNat, first := first.toNat, count := count.toNat, version := version,
      dest := dest, mcast := mcast, asked := s.now, waiting := false, requester := some c.src,
      via := berthHalf c.berth.val }
    match s.gatherReason job tensor.toNat first.toNat count.toNat version with
    | some r => .next (s.refuseGather g r)
    | none =>
      match s.shardOf job tensor.toNat first.toNat count.toNat with
      | none => .next s
      | some (k, x) =>
        let s := s.gatherUp job version
        .next { s with gathers := s.gathers ++ [{ g with shard := k, waiting := decide (x.verOf version.toNat ≠ version) }] }

/-- The planes that a shard's image uses. -/
def State.usedPlanes (s : State) (x : ShardSt) : List Nat := ((s.imageOf x).map (fun r => r.planes)).getD []

/-- Send the chunks of a range from the slot of a version (07 R177). -/
def State.serveRange (s : State) (x : ShardSt) (first count : Nat) (v : TideNo) (dst : Nat) (mcast : Bool) : State :=
  let coarse := (x.copyScale v.toNat).toNat
  (rangeFrom first count).foldl (fun s c => match x.chunkOf c with
    | none => s
    | some j =>
      let (bits, fine) := s.copyBits x (s.usedPlanes x) j (v.toNat % 2)
      s.sendCopy x j v.toNat coarse bits fine dst mcast x.half) s

/-- GATHER_READ_DONE: the read of a served gather completes and its packets leave; an uncorrectable error refuses it with
POISONED and poisons the shard (07 R204). -/
def execGatherReadDone (gid : Nat) (ue : Option (BitVec 41)) (s : State) : Host.Outcome State Fault Refusal :=
  match s.gathers.find? (fun g => g.id == gid && !g.waiting) with
  | none => .next s
  | some g =>
    match s.shard? g.shard with
    | none => .next (s.dropGather g 4)
    | some x =>
      match ue with
      | some a => .next (((s.holdError a.toNat (accessDetail a.toNat)).dropGather g 5).modShard g.shard (fun y => { y with pPoison := true }))
      | none =>
        let s := { s with gathers := s.gathers.filter (fun y => y.id != gid) }
        .next ((s.serveRange x g.first g.count g.version g.dest.toNat g.mcast).gatherDown g.job g.version)

/-- GATHER_TIMEOUT: a gather has waited 65,536 tides. -/
def execGatherTimeout (gid : Nat) (s : State) : Host.Outcome State Fault Refusal :=
  match s.gathers.find? (fun g => g.id == gid && g.waiting) with
  | none => .next s
  | some g => if tideReached s.now (g.asked + 65536) then .next (s.dropGather g 6) else .next s

/-! ## Prefetch (07 R203) -/

/-- One range of a prefetch served at its version, or refused with POISONED where its shard is, or where the read met an uncorrectable error in
it (07 R179, R204). -/
def State.servePrefetch (s : State) (p : Prefetch) (bad : List Nat) (r : Nat × Nat × Nat) : State :=
  let s := s.gatherDown p.job p.version
  match s.shardOf p.job r.1 r.2.1 r.2.2 with
  | some (k, x) =>
    if x.state ≠ 3 ∧ x.verOf p.version.toNat = p.version ∧ k ∉ bad then s.serveRange x r.2.1 r.2.2 p.version p.group.toNat true
    else s.countRefused p.job
  | none => s.countRefused p.job

/-- The shards whose planes hold an address. -/
def State.shardsAt (s : State) (addr : Nat) : List Nat :=
  (s.shards.filter (fun e => e.2.state != 0 && decide (e.2.cfg.holdBase.toNat ≤ addr)
    && decide (addr < e.2.cfg.holdBase.toNat + e.2.planeBytes (s.usedPlanes e.2)))).map (fun e => e.1)

/-- The shards at an address are poisoned at the next boundary. -/
def State.poisonAt (s : State) (addr : Nat) : State :=
  (s.shardsAt addr).foldl (fun s k => s.modShard k (fun x => { x with pPoison := true })) s

/-- PREFETCH_READ_DONE: each range that was read is pushed to the group as one gather; one whose copy is not there is counted as a gather
refused. An uncorrectable error poisons its shard. -/
def execPrefetchReadDone (read : PrefetchRead) (s : State) : Host.Outcome State Fault Refusal :=
  match s.prefetches.find? (fun p => p.id == read.id) with
  | none => .next s
  | some p =>
    let s := { s with prefetches := s.prefetches.filter (fun q => q.id != read.id) }
    let bad := (read.ue.map (fun a => s.shardsAt a.toNat)).getD []
    let s := match read.ue with
      | some a => (s.holdError a.toNat (accessDetail a.toNat)).poisonAt a.toNat
      | none => s
    .next (p.ranges.foldl (fun s r => s.servePrefetch p bad r) s)

/-! ## The patrol scrub (13 R359) -/

/-- DETAIL of a Hold or Quay error found by scrub (13 Table 13-7). -/
def scrubDetail (addr : Nat) : U64 := BitVec.ofNat 64 (addr + 2 * 2 ^ 48)

/-- A run whose Manifest is damaged completes with POISONED. -/
def State.poisonRun (s : State) (n : Nat) (fail : U16) : State :=
  if (s.stream n).state = .live ∨ (s.stream n).state = .retaining then s.askAbort n ⟨2, fail, 0xFF, false, none⟩ else s

/-- The consequences by area of Table 13-14. -/
def State.quayError (s : State) (h : Half) (off : Nat) : QuayArea → State
  | .manifestConfig sid => (s.poisonRun sid.toNat 0xFFFF).modStream sid.toNat (fun x => { x with damaged := true })
  | .manifestStatus sid => s.poisonRun sid.toNat 0xFFFF
  | .retained sid c =>
    -- a copy that some consumer has not acknowledged yet (05 R137)
    let ch := (s.stream sid.toNat).chunk c.toNat
    if !ch.retained.isEmpty && !ch.freed then s.poisonRun sid.toNat c else s
  | .spillStore sid c =>
    -- the store of a chunk that still holds its slot: not yet released (05 R137)
    match s.mfst sid.toNat with
    | some m => if (s.slot? sid.toNat m c.toNat m.root).isSome then s.poisonRun sid.toNat c else s
    | none => s
  | .shardRecord i => s.modShard (shardKey h i.toNat) (fun x => { x with pPoison := true })
  | .recipeMemory j i => s.modJob j.toNat (fun x => { x with imageBad := insertNew i.toNat x.imageBad })
  | .freeRing =>
    -- the entry is out of range: its fetch discards it (09 R259)
    s.modQuay h (fun m => m.writeBytes (off / 4 * 4) [0xFF, 0xFF, 0xFF, 0xFF])
  | .prefetch id =>
    match s.prefetches.find? (fun p => p.id == id) with
    | none => s
    | some p =>
      let s := { s with prefetches := s.prefetches.filter (fun q => q.id != id) }
      (p.ranges.foldl (fun s _ => s.gatherDown p.job p.version) s).modJob p.job (fun j =>
        { j with gatherRefused := satAdd 32 j.gatherRefused 1 })
  | .reshardStaging cid => if (s.coll cid.toNat).reshard.isSome then s.endReshard cid.toNat 5 else s
  | .mcastEntry g => s.modChart (fun c => { c with badGroups := insertNew g.toNat c.badGroups })
  | .other => s

/-- PATROL_SCRUB: a corrected word is written back and noted, and a Hold row with 4 corrected errors in a pass is entered in the field
repair log; an uncorrectable word is handled as an access would find it. -/
def execPatrolScrub (site : ScrubSite) (found : ScrubFind) (s : State) : Host.Outcome State Fault Refusal :=
  match found, site with
  | .uncorrectable, .quay h off area =>
    .next ((s.raiseWith h 36 (scrubDetail (h.num * 2 ^ 33 + off.toNat))).quayError h off.toNat area)
  | .uncorrectable, .hold addr =>
    let a := addr.toNat
    let s := s.holdError a (scrubDetail a)
    .next (s.poisonAt a)
  | .worn, .hold addr => .next ((s.raisePkg 28).logHoldRow addr.toNat)
  | .worn, .quay _ _ _ => .next (s.raisePkg 28)
  | .corrected, _ => .next (s.raisePkg 28)

end Sys2Proof.Machine
end

