-- ==== Sys2Proof/Machine/Tide.lean ====
section
/-! DEFINITION. The tide generator, TIDE_IN and the alignment exchange (02 R30 to R43, R445). -/

namespace Sys2Proof.Machine

/-- The modes of Table 2-1, as TIDE_STATUS.MODE codes them. -/
def modeFollow : BitVec 3 := 1
def modeGenerate : BitVec 3 := 2
def modeRoot : BitVec 3 := 3

/-- Is a berth a timing parent, primary or backup, of a switch in GENERATE mode (02 R38)? -/
def State.isParent (s : State) (b : Nat) : Bool :=
  s.tide.cfg.mode == modeGenerate && (s.tide.cfg.parent.toNat == b || s.tide.cfg.backup.toNat == b)

/-- The berth that the parent is taken from now (02 R38). -/
def State.parentNow (s : State) : Nat := if s.tide.onBackup then s.tide.cfg.backup.toNat else s.tide.cfg.parent.toNat

/-- The tide number of local timestamps: before the first tide the generator's own count (15 R394). -/
def State.tideCount (s : State) : Nat := if s.tide.running then s.now.toNat else s.tide.periods % 2 ^ 48

/-- A timestamp in sixteenths of a core cycle (02 R37). -/
def stampSixteenths (t : U64) : Int :=
  (Int.ofNat (t.toNat / 65536) * 4000 + Int.ofNat (bitsOf t.toNat 4 12)) * 16 + Int.ofNat (t.toNat % 16)

/-- A timestamp in core cycles, its fraction dropped (15 R398). -/
def stampCycles (t : U64) : Nat := t.toNat / 65536 * 4000 + bitsOf t.toNat 4 12

/-- The low w bits of an integer, as a signed number (00 R9: a narrower result keeps the low bits). -/
def wrapInt (w : Nat) (x : Int) : Int := sext w (toTwos w x)

/-- align_offset (02 R37), its arguments 64-bit and its result 32-bit. -/
def alignOffset (t1 t2 t3 t4 asym : Int) : Int := wrapInt 32 ((wrapInt 64 ((t2 - t1) - (t4 - t3))).tdiv 2 - asym)

/-- first_tide_number (15 R398). -/
def firstTideNumber (dep sinceArr : Nat) : TideNo := BitVec.ofNat 48 ((dep + sinceArr + 2000) / 4000)

/-- Enter holdover (02 R34, R38, R40). -/
def State.enterHoldover (s : State) : State :=
  if s.tide.holdover then s
  else (s.modTide (fun t => { t with holdover := true, holdEntered := true, holdRun := 0 })).raisePkg 17

/-! ## TIDE_IN (02 R34) -/

/-- The step that the tide in progress makes: the difference of its length from 4,000. -/
def TideSt.stepNow (t : TideSt) : Int := if t.relockTide then 0 else Int.ofNat t.len - 4000

/-- The offset of an edge, against the local boundary nearest to it, as corrected by a step that is pending or that the tide in progress
makes (the boundary at its end is already moved by it), so that one displacement is corrected once. -/
def TideSt.offset (t : TideSt) (time : Nat) : Int :=
  let e := Int.ofNat (time + t.cfg.trim.toNat)
  let near := if e < Int.ofNat t.start + Int.ofNat t.len / 2 then Int.ofNat t.start + t.stepNow else Int.ofNat (t.start + t.len)
  e - (near + t.pStep)

/-- An edge is followed: an offset of +1 or -1 asks for a step. -/
def TideSt.follow (t : TideSt) (time : Nat) (off : Int) : TideSt := { t with pStep := t.pStep + off, lastFollowed := time }

/-- The spacing of an edge from the one accepted before it. -/
def TideSt.spacing (t : TideSt) (time : Nat) : Nat := (t.lastEdge.map (fun e => time - e)).getD 0

/-- A slip: counted as an event, and the boundary stays. -/
def State.slip (s : State) : State := (s.modTide (fun t => { t with slip := true })).raisePkg 18

/-- Judge an accepted edge while the tide runs. -/
def State.judgeEdge (s : State) (time : Nat) : State :=
  let t := s.tide
  let off := t.offset time
  let near := decide (-1 ≤ off ∧ off ≤ 1)
  if t.relock then
    let e := time + t.cfg.trim.toNat
    let add := (toTwos 64 (Int.ofNat e - Int.ofNat (t.start + t.len) + 4000 * 2 ^ 52)) % 4000
    s.modTide (fun t => { t with len := t.len + add, relock := false, relockTide := true, pStep := 0, lastFollowed := time })
  else if t.holdover then
    let run := if !near then 0 else if 3999 ≤ t.spacing time ∧ t.spacing time ≤ 4001 then t.holdRun + 1 else 1
    let s := s.modTide (fun t => { t with holdRun := run })
    if 4 ≤ run then s.modTide (fun t => { t.follow time off with holdover := false, holdRun := 0 })
    else if near then s else s.slip
  else if near then s.modTide (fun t => t.follow time off)
  else s.slip

/-- TIDE_IN_EDGE: a rising edge after `low` cycles low and before `high` cycles high. -/
def execTideInEdge (time low high : Nat) (s : State) : Host.Outcome State Fault Refusal :=
  if s.tide.cfg.mode ≠ modeFollow ∨ low < 8 ∨ high < 8 ∨ 200 < high then .next s
  else
    let run := if s.tide.spacing time = 4000 then s.tide.lockRun + 1 else 1
    let s1 := if s.tide.running then s.judgeEdge time else s
    .next (s1.modTide (fun t => { t with lastEdge := some time, lockRun := run, locked := t.locked || decide (4 ≤ run) }))

/-- TIDE_IN_LOST: no edge followed within 8,002 core cycles of the last followed edge; edges that stop later, in holdover, are noted
too (02 Table 2-8). -/
def execTideInLost (now : Nat) (s : State) : Host.Outcome State Fault Refusal :=
  let t := s.tide
  if !t.running || t.cfg.mode != modeFollow || now < t.lastFollowed + 8002 then .next s
  else
    let stopped := match t.lastEdge with
      | some e => decide (e + 8002 ≤ now)
      | none => true
    .next ((s.modTide (fun t => { t with inLost := t.inLost || stopped })).enterHoldover)

/-! ## The exchange (02 R36 to R38, R40, R43) -/

/-- Is a cycle of a relock tide beyond what a timestamp holds (02 R445)? -/
def TideSt.beyondStamp (t : TideSt) (cyc : Nat) : Bool := t.relockTide && decide (4096 ≤ cyc)

/-- Is a berth the far end of a neighbour's timing parent link: the neighbour has sent one cell per tide, four or more in a row, and
still does (02 R36)? Log entry 75. -/
def State.servesChild (s : State) (b : Nat) : Bool :=
  decide (4 ≤ (s.berth b).alignRun) && (s.berth b).alignRx.any (fun p => decide (s.tide.periods ≤ p + 2))

/-- A berth has received a cell: those that follow each other within two tides are counted. -/
def BerthSt.noteAlign (y : BerthSt) (periods : Nat) (parent : Bool) : BerthSt :=
  { y with
    alignRx := some periods
    alignRun := if parent then 0 else if y.alignRx.any (fun p => decide (periods ≤ p + 2)) then y.alignRun + 1 else 1 }

/-- ALIGN_TX: a berth that is up sends its alignment cell, one per tide on a timing parent berth, at either end of its link, and one
per 256 tides on any other, with the echo of the last cell received, if it has not echoed it yet. -/
def execAlignTx (b : Berth) (cyc : Nat) (frac : BitVec 4) (s : State) : Host.Outcome State Fault Refusal :=
  let y := s.berth b.val
  let every := if s.isParent b.val || s.servesChild b.val then 1 else 256
  let due := match y.alignAt with
    | some p => decide (p + every ≤ s.tide.periods)
    | none => true
  if !y.up || y.eth || s.berthSafe b.val || !due || s.tide.len ≤ cyc || s.tide.beyondStamp cyc then .next s
  else
    let dep := mkStamp s.tideCount cyc frac.toNat
    let (ed, ea) := y.lastRx.getD (0, 0)
    let cell : AlignCell := ⟨dep, ed, ea, y.lastRx.isSome, s.tide.running, s.tide.holdover, BitVec.ofNat 8 b.val⟩
    .next ((s.sendLocal b.val 0 (.align cell)).modBerth b.val (fun y => { y with
      alignAt := some s.tide.periods,
      answer := match y.lastRx with
        | some (d, a) => some (dep.toNat, d.toNat, a.toNat)
        | none => y.answer,
      lastRx := none }))

/-- The mark of a berth whose neighbour counts another tide (02 R43). -/
def State.checkTide (s : State) (b : Nat) (dep arr : U64) : State :=
  let d := Int.ofNat (stampCycles arr) - Int.ofNat (stampCycles dep)
  if (d + 2000) / 4000 % 2 ^ 48 ≠ 0 then
    ((s.modBerth b (fun y => { y with mismatch := true, agree := 0 })).modTide (fun t => { t with mismatch := true })).raisePkg 19
  else
    s.modBerth b (fun y => { y with agree := y.agree + 1, mismatch := y.mismatch && decide (y.agree + 1 < 256) })

/-- 20 ns in sixteenths of a core cycle (02 R40). -/
def skewLimit : Int := 500

/-- A complete exchange with the timing parent in use. An offset beyond s16 saturates in TIDE_SKEW (log entry 76). -/
def State.applyOffset (s : State) (off : Int) : State :=
  let big := decide (skewLimit < off.natAbs)
  let run := if big then s.tide.skewRun + 1 else 0
  let clamped := max (-32768) (min 32767 off)
  let s := s.modTide (fun t =>
    let step := t.running && !t.measureAgain && t.pStep == 0 && decide (8 < off.natAbs)
    { t with skew := BitVec.ofInt 16 clamped, skewNow := big, skewRun := run,
             pStep := if step then (if 0 < off then 1 else -1) else t.pStep,
             measureAgain := if step then true else if t.pStep == 0 then false else t.measureAgain })
  if 4 ≤ run then (s.modTide (fun t => { t with skewHigh := true })).raisePkg 16 else s

/-- A cell that echoes the answer sent on a timing parent berth completes an exchange; the first on either berth ends a holdover. -/
def State.exchange (s : State) (b : Nat) (c : AlignCell) : State :=
  match (s.berth b).answer with
  | none => s
  | some (t3, t1, t2) =>
    if !c.echoValid || c.echoDep.toNat ≠ t3 || !s.isParent b then s
    else
      let six := fun n : Nat => stampSixteenths (BitVec.ofNat 64 n)
      let asym := (Tab.get 0 s.tide.asym b).toInt
      let off := alignOffset (six t1) (six t2) (six t3) (stampSixteenths c.echoArr) asym
      let s := s.modBerth b (fun y => { y with answer := none })
      let s := s.modTide (fun t =>
        { (if b = t.cfg.parent.toNat then { t with sincePrimary := 0 } else { t with sinceBackup := 0 }) with holdover := false })
      if b ≠ s.parentNow then s
      else if s.tide.running then s.applyOffset off
      else if c.counting then s.modTide (fun t => { t with firstOff := some off })
      else s

/-- ALIGN: an alignment cell received at a cycle of the tide. -/
def execAlign (b : Berth) (c : AlignCell) (cyc : Nat) (frac : BitVec 4) (replayed : Bool) (s : State) :
    Host.Outcome State Fault Refusal :=
  let y := s.berth b.val
  if !y.up || y.eth || s.berthSafe b.val || s.tide.beyondStamp cyc then .next s
  else
    let arr := mkStamp s.tideCount cyc frac.toNat
    let s := s.modBerth b.val (fun y => y.noteAlign s.tide.periods (s.isParent b.val))
    let s := if c.counting then
        s.modBerth b.val (fun y => { y with lastAlign := some (c, s.tide.start + cyc) })
      else s
    let s := if s.tide.running && c.counting then s.checkTide b.val c.dep arr else s
    if replayed then .next s
    else .next ((s.exchange b.val c).modBerth b.val (fun y => { y with lastRx := some (c.dep, arr) }))

/-- EXCHANGE_TIMEOUT: 64 tides without a complete exchange on the primary parent move to the backup, before the first tide as after it (15
R398), and on neither enter holdover (02 R38). -/
def execExchangeTimeout (s : State) : Host.Outcome State Fault Refusal :=
  let t := s.tide
  if !t.counting || t.cfg.mode != modeGenerate || t.sincePrimary < 64 then .next s
  else if t.cfg.backup.toNat = 0xFFFF ∨ (64 ≤ t.sinceBackup ∧ (t.running ∨ t.onBackup)) then .next (if t.running then s.enterHoldover else s)
  else .next (s.modTide (fun t => { t with onBackup := true }))

/-! ## Registers (02 R55) -/

/-- Answer a register read to the identity that asked. -/
def State.answer (s : State) (who : Nat) (ws : List U32) : State := s.modMbox (fun m => { m with resp := some (.words who ws) })

/-! ## The generator at a boundary (02 R31, R35, R41) -/

/-- TIDE_OUT: high for 40 core cycles from cycle 0 of each tide that is counted, in every mode (02 R33). -/
def TideSt.drive (t : TideSt) : TideSt := { t with pulse := if t.running then some (t.start, t.start + 40) else none }

/-- The level of TIDE_OUT at a core cycle of the generator's count. -/
def TideSt.tideOut (t : TideSt) (time : Nat) : Bool := t.pulse.any (fun p => decide (p.1 ≤ time ∧ time < p.2))

/-- The count of a new tide: its number, its length and the phase of its boundary. -/
def TideSt.advance (t : TideSt) : TideSt :=
  let ended := !t.relockTide && t.len != 4000
  let moved := Int.ofNat t.len - 4000
  let step := if t.pStep ≠ 0 ∧ !ended then t.pStep.sign else 0
  { t with
    now := if t.running then t.now + 1 else t.now,
    periods := t.periods + 1,
    start := t.start + t.len,
    len := (4000 + step).toNat,
    stepped := t.running && ended,
    steps := if t.running && ended then satAdd 32 t.steps 1 else t.steps,
    pStep := t.pStep - step,
    relockTide := false,
    refPhase := ((Int.ofNat t.refPhase + moved) % 10).toNat,
    sincePrimary := t.sincePrimary + 1,
    sinceBackup := t.sinceBackup + 1,
    onBackup := t.onBackup && t.sincePrimary != 0 }.drive

/-- A TIDE_CONFIG accepted takes effect at a boundary (02 R57): a switch made FOLLOW enters holdover. -/
def State.applyTideCfg (s : State) : State :=
  match s.tide.pCfg with
  | none => s
  | some c =>
    let was := s.tide.cfg.mode
    let s := s.modTide (fun t => { t with cfg := { c with start := if t.running then t.cfg.start else c.start }, pCfg := none,
                                          asym := t.asym })
    if s.tide.running && was != c.mode then
      let s := s.modTide (fun t => { t with pStep := 0, measureAgain := false, skew := 0, skewNow := false, skewRun := 0,
                                            onBackup := false, sincePrimary := 0, sinceBackup := 0, relock := false,
                                            holdover := t.holdover && c.mode != modeRoot, lastEdge := none })
      if c.mode = modeFollow then s.enterHoldover else s
    else s

end Sys2Proof.Machine
end

