-- ==== Sys2Proof/Machine/Lanes.lean ====
section
/-! DEFINITION. Lanes and berths: rounds, ordered sets, link-level retry, spares, lane states and loops (11 R282 to R302). -/

namespace Sys2Proof.Machine

/-! ## Berths up and down (11 R287) -/

/-- The OE of an optical berth, and the error line of a berth (13 Table 13-2). -/
def berthOe (b : Nat) : Nat := b / 16
def berthLine (b : Nat) : Nat := if b < 256 then 20 + berthOe b % 8 else 44

/-- DETAIL of an OE or LSX event (13 Table 13-7). -/
def berthDetail (b kind circuit : Nat) : U64 :=
  let mask := 2 ^ (if b < 256 then b % 16 else b - 256)
  BitVec.ofNat 64 (mask + kind * 2 ^ 16 + circuit * 2 ^ 24)

/-- Raise a berth's error line. -/
def State.raiseBerth (s : State) (b kind circuit : Nat) : State :=
  s.raiseWith (berthHalf b) (berthLine b) (berthDetail b kind circuit)

/-- A packet whose rest will not come ends: one that has begun to leave by cut-through is stomped. -/
def State.cutOff (s : State) (h : Half) (p : Pkt) : State :=
  (p.copies.foldl (fun s c => if p.cut && c.left != p.cells then s.stomp h p c else s) s).dropPkt h p.id

/-- Packets still arriving on a berth that goes down end. -/
def State.cutArrivals (s : State) (b : Nat) : State :=
  let h := berthHalf b
  ((s.half h).pkts.filter (fun p => !p.whole && p.origin == some b && decide (p.input < 288))).foldl (fun s p => s.cutOff h p) s

/-- Drop the copies of packets and the control cells that wait for a berth that is down (08 R223); a berth in the safe state
counts them. -/
def State.dropQueued (s : State) (b : Nat) : State :=
  let h := berthHalf b
  let mine := fun (c : Copy) => c.dest == Dest.berth b && decide (c.out < 288)
  let s := (s.half h).pkts.foldl (fun s p =>
    let s := (p.copies.filter mine).foldl (fun s c => (if s.berthSafe b then s.bwDrop b c.left else s).dropCopy h p.id c.order) s
    (p.pendingCopies.filter mine).foldl (fun s c => s.dropPending h p.id c.order) s) s
  let here := fun (q : CtrlQ) => q.dest == Dest.berth b && decide (q.out < 288)
  let x := s.half h
  let s := ((x.ctrl ++ x.ctrlWait).filter here).foldl (fun s q => (if s.berthSafe b then s.bwDrop b 1 else s).freeCredit h q.credit 1) s
  s.modHalf h (fun x => { x with ctrl := x.ctrl.filter (fun q => !here q), ctrlWait := x.ctrlWait.filter (fun q => !here q) })

/-- DEGRADED: some outcome is MISSING, or MISWIRED, whose link counts as MISSING (08 Table 8-13, 15 R395). -/
def State.noteDegraded (s : State) : State :=
  s.modBoot (fun b => { b with degraded := s.berths.any (fun e => e.2.outcome == 3 || e.2.outcome == 2) })

/-- A berth goes down. -/
def State.berthDown (s : State) (b : Nat) : State :=
  let y := s.berth b
  let s := if y.up then s.bump .downEvents b else s
  let s := if s.berthSafe b then s.bwDrop b (y.queue.length + y.localQ.length) else s
  let planned := match Tab.get? s.chart.plan b with
    | some p => !p.unused
    | none => false
  let lost := y.up && !y.eth && planned && y.outcome == 0 && !s.berthSafe b
  let s := if lost then s.raisePkg 24 else s
  let s := s.modBerth b (fun y => { y with
    up := false, pDown := false, downSeen := y.downSeen || y.up, lstate := if y.lstate = 2 then 2 else 3, trainTx := 0,
    readyRun := 0, queue := [], localQ := [], replay := [], resend := [], partial_ := [], txPart := [], txMid := 0, prov := [],
    provLeft := 0, inRetry := false, nakPoint := none, nakRun := 0, rxAny := false, farLoop := false, spareReq := none,
    orderedSet := 0, dozeAsked := false, outcome := if lost then 3 else y.outcome, seen := none, lastRx := none, answer := none })
  (((s.cutArrivals b).dropQueued b).resetCredits b).noteDegraded

/-- May a berth's lanes run: brought up (15 R394, R403), its optical engine out of LS2? -/
def State.lanesOn (s : State) (b : Nat) : Bool :=
  let x := s.half (berthHalf b)
  s.boot.lanesUp && x.started && x.trained && (x.restart == 0 || x.restart == 1 || decide (9 ≤ x.restart)) && (decide (256 ≤ b) || !(s.oe (berthOe b)).deep)

/-- An event takes a berth down at the next boundary, or at once before the first tide. -/
def State.downEvent (s : State) (b : Nat) : State :=
  if !(s.berth b).up then s
  else if s.tide.running then s.modBerth b (fun y => { y with pDown := true })
  else s.berthDown b

/-- A berth comes up with its first DATA round: SEQ and credits start anew, and its pair's spare has trained. -/
def State.berthUp (s : State) (b : Nat) : State :=
  let s := (s.resetCredits b).modBerth b (fun y => { y with
    up := true, lstate := 0, seqTx := 0, expect := 0, ackRx := 0x3FF, ackTx := 0x3FF, rxAny := false,
    queue := [], localQ := [], replay := [], resend := [], partial_ := [], txPart := [], txMid := 0, prov := [], provLeft := 0,
    inRetry := false, nakPoint := none, nakRun := 0, retries := 0, seen := none, outcome := 4,
    upTide := BitVec.ofNat 48 s.tide.periods, downTides := 0, discoverAt := none, alignAt := none, quiet := s.tide.periods,
    lastAlign := none, lastRx := none, answer := none, mismatch := false, agree := 0 })
  if b < 256 then s.modOe (berthOe b) (fun o => { o with sparesTrained := insertNew (b % 16 / 2) o.sparesTrained }) else s

/-! ## Spares (11 R296, R297) -/

def BerthSt.lane (y : BerthSt) (l : Nat) : LaneSt := Tab.get {} y.lanes l
def BerthSt.modLane (y : BerthSt) (l : Nat) (f : LaneSt → LaneSt) : BerthSt := { y with lanes := Tab.upd {} y.lanes l f }

/-- The lane circuit of a lane: fibre pair and wavelength within the OE (11 R282). -/
def laneCircuit (b lane : Nat) : Nat := 8 * (b % 16 / 2) + 4 * (b % 2) + lane

/-- The spare that serves a berth, and its circuit. -/
def spareOf (b : Nat) : Nat := b % 16 / 2

/-- Is the spare of a berth's position free: trained, not failed, in use by neither berth of the pair? -/
def State.spareFree (s : State) (b : Nat) : Bool :=
  let o := s.oe (berthOe b)
  let used := fun (c : Nat) => (s.berth c).lanes.any (fun e => e.2.spare == some (spareOf b))
  decide (b < 256) && decide (spareOf b ∈ o.sparesTrained) && decide (64 + spareOf b ∉ o.failed)
    && !used (b / 2 * 2) && !used (b / 2 * 2 + 1)

/-- Ordered sets that wait for their round, as ROUND_TX sends them: the TYPE in the high four bits, then the low bits of
Table 11-3. -/
def osDozeReq : Byte := 0x30
def osDozeAck : Byte := 0x31
def osWake : Byte := 0x40
def osSpareReq : Byte := 0x50
def osSpareAck : Byte := 0x51
def osLoopExit : Byte := 0x60
def osLoopEnter : Byte := 0x61

/-- A lane fails: its spare is asked for, 32 rounds ahead (log entry 27), or the berth, which cannot field four lanes, goes
down (11 R297). -/
def State.failLane (s : State) (b lane : Nat) : State :=
  let y := s.berth b
  if (y.lane lane).failed || y.spareReq.any (fun r => r.lane == lane) then s
  else
    let s := s.modBerth b (fun y => y.modLane lane (fun l => { l with failed := true }))
    let circuit := match (y.lane lane).spare with
      | some sp => 64 + sp
      | none => laneCircuit b lane
    let s := if b < 256 then s.modOe (berthOe b) (fun o => { o with failed := insertNew circuit o.failed }) else s
    if s.spareFree b && y.spareReq.isNone then
      s.modBerth b (fun y => { y with spareReq := some ⟨lane, spareOf b, y.cwTx + 32, 0, false⟩, orderedSet := osSpareReq })
    else
      ((s.raiseBerth b 2 circuit).logRepair 9 (if b < 256 then berthOe b else 16) circuit 0
        (BitVec.ofNat 16 (srcHalf (berthHalf b) (berthLine b)))).downEvent b

/-- A lane moves onto its spare, and the substitution is logged. -/
def State.switchLane (s : State) (b : Nat) (r : SpareReq) : State :=
  let s := s.modBerth b (fun y => { y.modLane r.lane (fun l => { l with spare := some r.spare, failed := false, low := 0 }) with
    spareReq := none })
  (s.raisePkg 27).logRepair 1 (berthOe b) (laneCircuit b r.lane) 0 (BitVec.ofNat 16 (srcHalf (berthHalf b) (berthLine b)))

/-- LANE_LOCK_LOSS: a lane has lost lock for 1 tide while the rest of its berth stays locked. Where its substitution has been abandoned, the
berth goes down (11 R296, R297). -/
def execLaneLockLoss (b : Berth) (lane : Fin 4) (s : State) : Host.Outcome State Fault Refusal :=
  let y := s.berth b.val
  if !y.up then .next s
  else if (y.lane lane.val).failed && y.spareReq.isNone then .next ((s.raiseBerth b.val 2 (laneCircuit b.val lane.val)).downEvent b.val)
  else .next (s.failLane b.val lane.val)

/-- A SPARE request or acknowledgement. -/
def State.spareSet (s : State) (b lane spare : Nat) (at_ : BitVec 7) (ack : Bool) : State :=
  let y := s.berth b
  if ack then
    match y.spareReq with
    | some r =>
      if r.lane = lane ∧ r.spare = spare ∧ r.at_ = at_ then s.modBerth b (fun y => { y with spareReq := some { r with acked := true } })
      else s
    | none => s
  else if y.up && s.spareFree b && spare == spareOf b && y.spareReq.isNone then
    s.modBerth b (fun y => { y with spareReq := some ⟨lane, spare, at_, 0, true⟩, orderedSet := osSpareAck })
  else s

/-- SPARE_ORDERED_SET. -/
def execSpareOrderedSet (b : Berth) (lane : Fin 4) (spare : Fin 8) (cwcnt : BitVec 7) (ack : Bool) (s : State) :
    Host.Outcome State Fault Refusal := .next (s.spareSet b.val lane.val spare.val cwcnt ack)

/-- SPARE_SWITCH: at the named round. -/
def execSpareSwitch (b : Berth) (s : State) : Host.Outcome State Fault Refusal :=
  match (s.berth b.val).spareReq with
  | some r => if r.acked ∧ (s.berth b.val).cwTx = r.at_ then .next (s.switchLane b.val r) else .next s
  | none => .next s

/-- SPARE_TIMEOUT: 64 rounds without an acknowledgement. -/
def execSpareTimeout (b : Berth) (s : State) : Host.Outcome State Fault Refusal :=
  match (s.berth b.val).spareReq with
  | some r =>
    if !r.acked ∧ 64 ≤ r.rounds then .next (s.modBerth b.val (fun y => { y with spareReq := none })) else .next s
  | none => .next s

/-! ## Sending rounds (11 R284 to R286, R290, R291) -/

/-- A cell with its SEQ and WCRC written; a data packet's last cell has no cell word (08 R207, R210). -/
def cellWithSeq (bytes : List Byte) (seq : BitVec 10) : List Byte :=
  let w := BitVec.ofNat 32 (field bytes 0 4)
  leBytes 4 (mkCw (cwType w) (cwVc w) (cwEpoch w) seq.toNat (cwResend w) (cwMirrored w) (cwColour w) (cwBypass w)).toNat
    ++ bytes.drop 4

/-- An IDLE cell. -/
def idleCell : List Byte := leBytes 4 (mkCw 3 0 false 0 false false 0 false).toNat
  ++ (List.replicate 60 0) ++ leBytes 4 (crc32 (List.replicate 60 0)).toNat

/-- The cells of the first whole packet of a list, if it is all there. -/
def wholePacket : List LinkCell → Option (List LinkCell)
  | [] => none
  | c :: l => if c.last then some [c] else (wholePacket l).map (fun t => c :: t)

/-- The alterations of a head's cell word that a Sampler generator inserts, as a waiting cell's `seq` marks them: 1 inverts bit 0 of
the WCRC, 2 advances the SEQ by 2 (17 Table 17-2). -/
def alterHead (mark seq : BitVec 10) (bytes : List Byte) : List Byte :=
  if mark = 1 then (bytes.take 1).map (fun b => b ^^^ 1) ++ bytes.drop 1 else if mark = 2 then cellWithSeq bytes (seq + 2) else bytes

/-- Take a new cell for the lane: it gets its SEQ and joins the replay buffer, and a replay that waits for the packet in progress to end (11
R291); an inserted alteration of its word is not replayed. -/
def BerthSt.sendCell (y : BerthSt) (c : LinkCell) (mid : Nat) : BerthSt × List Byte :=
  let bytes := if y.txMid != 0 && c.last then c.bytes else cellWithSeq c.bytes y.seqTx
  let kept : LinkCell := ⟨y.seqTx, bytes, c.last⟩
  ({ y with seqTx := y.seqTx + 1, replay := y.replay ++ [kept], resend := if y.resend.isEmpty then [] else y.resend ++ [kept]
            txMid := if c.last then 0 else mid },
    alterHead c.seq y.seqTx bytes)

/-- The next cell of a berth: the packet in progress, what is replayed, the link-local cells, a packet that is all here and fits the replay
buffer (log entry 109), or IDLE; the flag says that the cell was replayed. -/
def BerthSt.nextCell (y : BerthSt) : BerthSt × List Byte × Bool :=
  let fits := fun (n : Nat) => decide (y.replay.length + n ≤ 768)
  let fresh := fun (_ : Unit) =>
    match y.queue with
    | c :: l => if y.txMid = 1 then let (z, b) := { y with queue := l }.sendCell c 1; (z, b, false) else (y, idleCell, false)
    | [] => (y, idleCell, false)
  if y.txMid = 1 then fresh ()
  else
    match y.resend with
    | c :: l => ({ y with resend := l, txMid := if c.last then 0 else 2 }, c.bytes, true)
    | [] =>
      match y.localQ with
      | b :: l =>
        if fits 1 then let (z, b) := { y with localQ := l }.sendCell ⟨0, b, true⟩ 0; (z, b, false) else (y, idleCell, false)
      | [] =>
        match wholePacket y.queue with
        | some p =>
          if fits p.length then
            let (z, b) := { y with queue := y.queue.drop 1 }.sendCell (p.headD ⟨0, [], true⟩) 1
            (z, b, false)
          else (y, idleCell, false)
        | none => (y, idleCell, false)

/-- Fill a stream of bytes to 2,560 with cells; counts the cells replayed. -/
def BerthSt.fillCells : Nat → BerthSt → List Byte → Nat → BerthSt × List Byte × Nat
  | 0, y, bs, n => (y, bs, n)
  | fuel + 1, y, bs, n =>
    if 2560 ≤ bs.length then (y, bs, n)
    else
      let (z, b, again) := y.nextCell
      BerthSt.fillCells fuel z (bs ++ b) (n + bitNat again)

/-- The four codewords of a round: byte i of the payload on lane i mod 4. -/
def mkRound (type : Nat) (cnt : BitVec 7) (low : Nat → Nat) (payload : List Byte) : Round :=
  let lane := fun (l : Nat) =>
    (⟨some (BitVec.ofNat 20 (type * 2 ^ 16 + l * 2 ^ 14 + cnt.toNat * 2 ^ 7 + low l),
      (List.range 640).map (fun i => payload.getD (4 * i + l) 0)), 0⟩ : Codeword)
  ⟨lane 0, lane 1, lane 2, lane 3⟩

/-- The payload of an ordered set: lane 0's bytes 0 to 15, all else zero. -/
def osPayload (fields : List Byte) : List Byte := (padTo 16 fields).flatMap (fun b => [b, 0, 0, 0])

/-- Has a berth nothing to send and nothing unacknowledged (11 R299)? -/
def BerthSt.isIdle (y : BerthSt) : Bool := y.queue.isEmpty && y.replay.isEmpty && y.resend.isEmpty && y.localQ.isEmpty

/-- Do packets or routed control cells wait for a berth in LS1? -/
def State.wanted (s : State) (b : Nat) : Bool :=
  let x := s.half (berthHalf b)
  !(s.berth b).queue.isEmpty || x.pkts.any (fun p => p.copies.any (fun c => c.dest == Dest.berth b && decide (c.out < 288)))
    || x.ctrl.any (fun q => q.dest == Dest.berth b && decide (q.out < 288))

/-- The round that a berth sends now, and the berth after it. -/
def State.txRound (s : State) (b : Nat) : State :=
  let y := s.berth b
  let put := fun (f : BerthSt → BerthSt) (type : Nat) (fields : List Byte) =>
    s.modBerth b (fun y => { f y with wire := some (mkRound type y.cwTx (fun _ => 0) (osPayload fields)), cwTx := y.cwTx + 1 })
  let tick := fun (y : BerthSt) => { y with spareReq := y.spareReq.map (fun r => { r with rounds := r.rounds + 1 }) }
  if y.eth || y.lstate == 2 || !s.lanesOn b then s
  else if y.safe || s.halfSafe (berthHalf b) then put (fun y => { y with bwTx := true }) 2 []
  else if !y.up then
    if y.bwRx then put (fun y => { y with bwTx := false }) 1 (leBytes 8 Config.serial.toNat ++ [0])
    else put (fun y => { y with bwTx := false }) 1 (leBytes 8 Config.serial.toNat ++ [y.trainTx])
  else if y.farLoop then s
  else if y.lstate = 1 then
    if s.wanted b || y.orderedSet == osWake then put (fun y => { y with lstate := 0, orderedSet := 0 }) 4 [] else s.modBerth b (fun y => { y with wire := none })
  else if y.orderedSet = osDozeReq then put (fun y => tick { y with orderedSet := 0 }) 3 [0]
  else if y.orderedSet = osDozeAck then put (fun y => tick { y with orderedSet := 0, lstate := 1 }) 3 [1]
  else if y.orderedSet = osSpareReq ∨ y.orderedSet = osSpareAck then
    match y.spareReq with
    | some r => put (fun y => tick { y with orderedSet := 0 }) 5 [BitVec.ofNat 8 r.lane, BitVec.ofNat 8 r.spare,
        r.at_.setWidth 8, if y.orderedSet = osSpareAck then 1 else 0]
    | none => put (fun y => { y with orderedSet := 0 }) 4 []
  else if y.orderedSet = osLoopEnter ∨ y.orderedSet = osLoopExit then
    put (fun y => tick { y with orderedSet := 0 }) 6 [if y.orderedSet = osLoopEnter then 1 else 0]
  else
    let start := y.txPart.length
    let (z, bytes, again) := BerthSt.fillCells 40 y y.txPart 0
    let ack := y.ackRx.toNat
    let low := fun (l : Nat) =>
      if l = 1 then ack % 128 else if l = 3 then 64 * bitNat y.rxAny + ack / 128 else start
    let s := s.modBerth b (fun _ => tick { z with
      txPart := bytes.drop 2560, wire := some (mkRound 0 y.cwTx low (bytes.take 2560)), cwTx := y.cwTx + 1 })
    if again = 0 then s else s.count .replayed b again

/-- ROUND_TX. -/
def execRoundTx (b : Berth) (s : State) : Host.Outcome State Fault Refusal := .next (s.txRound b.val)

/-! ## Acknowledgements and NAKs (11 R290 to R292) -/

/-- Take an acknowledged point: the cells it covers leave the replay buffer; one that would move backwards is ignored. -/
def BerthSt.acked (y : BerthSt) (point : BitVec 10) : BerthSt :=
  if y.replay.any (fun c => c.seq == point) then
    { y with ackTx := point, replay := (y.replay.dropWhile (fun c => c.seq != point)).drop 1 }
  else y

/-- LINK_ACK: a NAK. The cells after its point are sent again once the packet in progress has ended; 16 in a row with one
point, or a point outside the buffer, exhaust retry. -/
def State.linkNak (s : State) (b : Nat) (point : BitVec 10) : State :=
  let y := s.berth b
  let inside := point == y.ackTx || y.replay.any (fun c => c.seq == point)
  let run := if y.nakPoint = some point then y.nakRun + 1 else 1
  let s := s.modBerth b (fun y => { y with retrySeen := true, retries := y.retries + 1, nakPoint := some point, nakRun := run })
  if !inside || 16 ≤ run then (s.raiseBerth b 1 0).downEvent b
  else
    let s := if 8 < y.retries + 1 then s.raiseBerth b 1 0 else s
    s.modBerth b (fun y =>
      let y := y.acked point
      let finish := if y.txMid = 2 then (wholePacket y.resend).getD [] else []
      { y with resend := finish ++ y.replay })

def execLinkAck (b : Berth) (point : BitVec 10) (s : State) : Host.Outcome State Fault Refusal :=
  if !(s.berth b.val).up || s.berthSafe b.val then .next s else .next (s.linkNak b.val point)

/-- Send a NAK with the acknowledged point. -/
def State.sendNak (s : State) (b : Nat) : State :=
  let point := (s.berth b).ackRx
  ((s.sendLocal b 0 (.linkAck point)).bump .nakSent b).modBerth b (fun y => { y with retrySeen := true })

/-- A cell is lost: the provisional cells go, and a retry starts unless one is under way. -/
def State.startRetry (s : State) (b : Nat) : State :=
  let was := (s.berth b).inRetry
  let s := s.modBerth b (fun y => { y with prov := [], provLeft := 0, inRetry := true, expect := y.ackRx + 1 })
  if was then s else s.sendNak b

/-- NAK_REPEAT: every 512 core cycles until the expected cell arrives. -/
def execNakRepeat (b : Berth) (s : State) : Host.Outcome State Fault Refusal :=
  if (s.berth b.val).up && (s.berth b.val).inRetry then .next (s.sendNak b.val) else .next s

/-! ## Receiving rounds (11 R284, R289, R290) -/

/-- One received cell (08 R208 to R210, 11 R289, R290). On a berth of a Sampler partition a cell whose WCRC fails, one that R209 keeps
out of a data packet, and a control cell that breaks R215 are counted (17 Table 17-3; log entry 74). On any other berth a control cell with a reserved TYPE, or
a link-local one with a DST, is dropped and counted (00 R8, 08 R215). -/
def State.rxCell (s : State) (b : Nat) (bytes : List Byte) : State :=
  let y := s.berth b
  let w := BitVec.ofNat 32 (field bytes 0 4)
  if y.provLeft = 1 then
    s.modBerth b (fun y => { y with
      delivered := y.delivered ++ (y.prov.map (fun c => c.bytes) ++ [bytes]), prov := [], provLeft := 0,
      ackRx := y.expect, expect := y.expect + 1 })
  else if !wcrcOk w then (s.checkCell b 1).startRetry b
  else if cwType w == 3 && bytes.getD 12 0 == 0 then (if y.provLeft = 0 then s else s.checkCell b 4)
  else
    let good := cwSeq w == y.expect && (y.provLeft != 0 || cwType w == 0 || cwType w == 3)
    let refused := y.provLeft == 0 && cwType w == 3 && ctrlCellBad bytes && (s.partOf b).isNone
    if !good then s.startRetry b
    else
      let s := if y.provLeft ≠ 0 ∧ (cwType w = 0 ∨ cwType w = 3) then s.checkCell b 4
        else if y.provLeft = 0 ∧ cwType w = 3 ∧ ctrlCellBad bytes then (if refused then s.bump .hdrBad b else s.checkCell b 6)
        else s
      s.modBerth b (fun y =>
        let y := { y with rxAny := true, inRetry := false, expect := y.expect + 1 }
        if 1 < y.provLeft then { y with prov := y.prov ++ [⟨cwSeq w, bytes, false⟩], provLeft := y.provLeft - 1 }
        else if cwType w = 3 then { y with delivered := if refused then y.delivered else y.delivered ++ [bytes], ackRx := cwSeq w }
        else { y with prov := [⟨cwSeq w, bytes, false⟩], provLeft := (Hdr.ofBytes (bytes.drop 4)).cells - 1 })

/-- The codewords of a round, by lane. -/
def roundLanes (r : Round) : List Codeword := [r.l0, r.l1, r.l2, r.l3]

def cwHdr (c : Codeword) : Nat := (c.word.map (fun w => w.1.toNat)).getD 0
def cwOk (c : Codeword) : Bool := c.word.isSome

/-- The bytes of a round's payload (11 R284). -/
def roundPayload (r : Round) : List Byte :=
  let ls := (roundLanes r).map (fun c => (c.word.map (fun w => w.2)).getD [])
  (List.range 2560).map (fun i => (ls.getD (i % 4) []).getD (i / 4) 0)

/-- The errors of a test loop: the uncorrectable codewords of the berth's own cells, or the bit errors in PRBS31 payloads, which
are a free value of each codeword that FEC could not correct (11 R301, 12 LANE_LOOP; log entry 13). -/
def State.countLoop (s : State) (b : Nat) (r : Round) : State :=
  let y := s.berth b
  let bad := (roundLanes r).countP (fun c => !cwOk c)
  if y.loopKind = 0 ∨ bad = 0 then s
  else if y.loopPattern = 0 then s.modBerth b (fun y => { y with loopErrors := y.loopErrors + bad })
  else
    let (i, s) := s.freeIx
    s.modBerth b (fun y => { y with loopErrors := y.loopErrors + (Config.freeWord i).toNat % (5120 * bad + 1) })

/-- Count a round's symbols and codewords, lane by lane (11 R295). -/
def State.countRound (s : State) (b : Nat) (r : Round) : State :=
  State.countLoop (b := b) (r := r) <| (roundLanes r).zipIdx.foldl (fun s e =>
    let s := if cwOk e.1 then s.count .corrected (b * 4 + e.2) e.1.corrected else s.bump .uncorrectable (b * 4 + e.2)
    s.modBerth b (fun y => y.modLane e.2 (fun l => { l with
      sym := (l.sym.1 + (if cwOk e.1 then e.1.corrected else 0), l.sym.2 + 544) }))) s

/-- A DATA round at a berth that is up. -/
def State.rxData (s : State) (b : Nat) (r : Round) : State :=
  let s := if cwOk r.l1 && cwOk r.l3 && bitOf (cwHdr r.l3) 6 then
      s.modBerth b (fun y => y.acked (BitVec.ofNat 10 (bitsOf (cwHdr r.l1) 0 7 + 128 * bitsOf (cwHdr r.l3) 0 3)))
    else s
  if !(roundLanes r).all cwOk then (s.modBerth b (fun y => { y with partial_ := [] })).startRetry b
  else
    let y := s.berth b
    let pos := bitsOf (cwHdr r.l0) 0 7
    let bs := roundPayload r
    let first := y.partial_ ++ bs.take pos
    let s := if first.length = 68 then s.rxCell b first else s
    let cells := chunksOf 68 38 (bs.drop pos)
    let s := (cells.filter (fun c => c.length == 68)).foldl (fun s c => s.rxCell b c) s
    s.modBerth b (fun y => { y with partial_ := (cells.find? (fun c => decide (c.length < 68))).getD [] })

/-- One TRAIN round (11 R287): the receiver locks and the state advances by one step a round (log entry 27); the berth is up
after 16 READY rounds in a row, if it can field four lanes (11 R297). -/
def State.rxTrain (s : State) (b : Nat) (state : Byte) : State :=
  let y := s.berth b
  if y.up || y.eth || y.lstate == 2 || y.bwRx || s.berthSafe b || !s.lanesOn b then s
  else
    let run := if state = 2 then y.readyRun + 1 else 0
    let tx := if y.trainTx < 2 then y.trainTx + 1 else 2
    let s := s.modBerth b (fun y => { y with trainTx := tx, readyRun := run })
    if !(16 ≤ run ∧ tx = 2) then s
    else
      match (s.berth b).lanes.filter (fun e => e.2.failed) with
      | [] => s.berthUp b
      | [e] => if s.spareFree b then (s.switchLane b ⟨e.1, spareOf b, 0, 0, true⟩).berthUp b else s
      | _ => s

/-- A round of a TYPE other than BREAKWATER; the fourth in a row ends the receiving of it (11 R288). -/
def State.notBreakwater (s : State) (b : Nat) : State :=
  s.modBerth b (fun y => { y with bwRun := 0, otherRun := y.otherRun + 1, bwRx := y.bwRx && decide (y.otherRun + 1 < 4),
                                  quiet := s.tide.periods })

/-- A BREAKWATER round; from the fourth in a row the berth is receiving the ordered set, and is down. -/
def State.rxBreakwater (s : State) (b : Nat) : State :=
  let run := (s.berth b).bwRun + 1
  let s := s.modBerth b (fun y => { y with otherRun := 0, bwRun := run, bwRx := y.bwRx || decide (4 ≤ run), quiet := s.tide.periods })
  if 4 ≤ run then s.downEvent b else s

/-- A DOZE round (11 R299). -/
def State.rxDoze (s : State) (b : Nat) (ack : Bool) : State :=
  let y := s.berth b
  if !y.up || y.lstate != 0 || s.isParent b then s
  else if ack then (if y.dozeAsked then s.modBerth b (fun y => { y with lstate := 1, dozeAsked := false }) else s)
  else if y.isIdle && !s.wanted b then s.modBerth b (fun y => { y with orderedSet := osDozeAck })
  else s

/-- A WAKE round. -/
def State.rxWake (s : State) (b : Nat) : State :=
  if (s.berth b).up && (s.berth b).lstate == 1 then s.modBerth b (fun y => { y with lstate := 0 }) else s

/-- A LOOP round: the far-end loop of a berth that is up (11 R302). -/
def State.rxLoop (s : State) (b : Nat) (enter : Bool) : State :=
  if (s.berth b).up then s.modBerth b (fun y => { y with farLoop := enter }) else s

/-- An ordered set by its TYPE and lane 0's fields (11 Table 11-3). -/
def State.rxSet (s : State) (b type : Nat) (f : List Byte) : State :=
  match type with
  | 1 => s.rxTrain b (f.getD 8 0)
  | 3 => s.rxDoze b (f.getD 0 0 == 1)
  | 4 => s.rxWake b
  | 5 => s.spareSet b ((f.getD 0 0).toNat % 4) ((f.getD 1 0).toNat % 8) ((f.getD 2 0).setWidth 7) (f.getD 3 0 == 1)
  | 6 => s.rxLoop b (f.getD 0 0 == 1)
  | _ => s

/-- A received round (11 R284 to R290, R302). -/
def State.rxRound (s : State) (b : Nat) (r : Round) : State :=
  let y := s.berth b
  if y.eth || y.lstate == 2 || !s.lanesOn b then s
  else
    let s := s.countRound b r
    let all := (roundLanes r).all cwOk
    let types := ((roundLanes r).filter cwOk).map (fun c => bitsOf (cwHdr c) 16 4)
    let type := types.headD 0
    let same := types.all (fun t => t == type)
    let s := if y.farLoop && all then s.modBerth b (fun y => { y with wire := some r }) else s
    if types.isEmpty then
      if y.up && !y.farLoop && !s.berthSafe b then (s.modBerth b (fun y => { y with partial_ := [] })).startRetry b else s
    else if type = 0 ∨ !same then
      let s := if all then s.notBreakwater b else s
      if !y.up || y.farLoop then s
      else if s.berthSafe b then s.bwDrop b 37
      else if same then s.rxData b r
      else (s.modBerth b (fun y => { y with partial_ := [] })).startRetry b
    else if !all then s
    else if type = 2 then s.rxBreakwater b
    else (s.notBreakwater b).rxSet b type (((r.l0.word.map (fun w => w.2)).getD []).take 16)

/-- ROUND_RX. -/
def execRoundRx (b : Berth) (r : Round) (s : State) : Host.Outcome State Fault Refusal := .next (s.rxRound b.val r)

/-- ROUND_TIMEOUT: no decodable round for 2 tides. -/
def execRoundTimeout (b : Berth) (s : State) : Host.Outcome State Fault Refusal :=
  let y := s.berth b.val
  if y.up && !y.eth && y.lstate != 1 && decide (y.quiet + 2 ≤ s.tide.periods) then .next (s.downEvent b.val) else .next s

/-- TRAIN: one TRAIN round. -/
def execTrain (b : Berth) (_serial : U64) (state : Byte) (s : State) : Host.Outcome State Fault Refusal :=
  .next ((s.notBreakwater b.val).rxTrain b.val state)

/-- BREAKWATER: one BREAKWATER round. -/
def execBreakwater (b : Berth) (s : State) : Host.Outcome State Fault Refusal :=
  if (s.berth b.val).eth || (s.berth b.val).lstate == 2 || !s.lanesOn b.val then .next s else .next (s.rxBreakwater b.val)

/-- DOZE. -/
def execDoze (b : Berth) (ack : Bool) (s : State) : Host.Outcome State Fault Refusal :=
  .next ((s.notBreakwater b.val).rxDoze b.val ack)

/-- WAKE. -/
def execWake (b : Berth) (s : State) : Host.Outcome State Fault Refusal := .next ((s.notBreakwater b.val).rxWake b.val)

/-- LOOP. -/
def execLoop (b : Berth) (enter : Bool) (s : State) : Host.Outcome State Fault Refusal :=
  .next ((s.notBreakwater b.val).rxLoop b.val enter)

/-- DOZE_DELAY: an end idle for the doze delay asks for LS1 (11 R299), in DOZE on every berth (14 R378). -/
def execDozeDelay (b : Berth) (s : State) : Host.Outcome State Fault Refusal :=
  let y := s.berth b.val
  if y.up && !y.eth && y.lstate == 0 && (y.dozeAllowed || s.sec.power == 1) && !s.isParent b.val && y.isIdle && !s.wanted b.val
      && !s.berthSafe b.val && y.orderedSet == 0 then
    .next (s.modBerth b.val (fun y => { y with orderedSet := osDozeReq, dozeAsked := true }))
  else .next s

/-! ## Optical engines (11 R298, R300) -/

/-- The berths of an OE. -/
def oeBerths (k : Nat) : List Nat := rangeFrom (16 * k) 16

/-- LASER_FAILOVER: the primary feed of an OE is below its threshold for 1 µs. -/
def execLaserFailover (oe : Fin 16) (standbyOk : Bool) (s : State) : Host.Outcome State Fault Refusal :=
  let k := oe.val
  let o := s.oe k
  if o.feed && standbyOk then .next s
  else
    let s := s.modOe k (fun o => { o with primaryOk := false, standbyOk := standbyOk })
    let src := BitVec.ofNat 16 (srcHalf (berthHalf (16 * k)) (20 + k % 8))
    if standbyOk then
      .next (((s.modOe k (fun o => { o with feed := true, failoverSeen := true })).raisePkg 22).logRepair 8 k 0 0 src)
    else
      let s := (s.raiseWith (berthHalf (16 * k)) (20 + k % 8) (BitVec.ofNat 64 (0xFFFF + 3 * 2 ^ 16))).logRepair 8 k 0 0 src
      .next ((oeBerths k).foldl (fun s b => s.downEvent b) s)

/-- LS2_EXIT_DONE: an OE, or an electrical berth, has relocked; its berths retrain. -/
def execLs2ExitDone (target : U16) (s : State) : Host.Outcome State Fault Refusal :=
  let t := target.toNat
  let wake := fun (s : State) (b : Nat) => s.modBerth b (fun y => { y with lstate := 3, trainTx := 0, readyRun := 0 })
  if t < 16 then
    if (s.oe t).relocking then
      .next ((oeBerths t).foldl wake (s.modOe t (fun o => { o with deep := false, relocking := false })))
    else .next s
  else if 256 ≤ t ∧ t < 260 then
    if (s.berth t).lstate = 2 ∧ (s.berth t).dozeAsked then .next (wake (s.modBerth t (fun y => { y with dozeAsked := false })) t)
    else .next s
  else .next s

/-! ## The boundary's part -/

/-- Eye figure of a lane (11 R295): the largest k up to 255 with c^32 10^k no more than n^32. Log entry 9. -/
def eyeFigure (c n : Nat) : Nat :=
  if c = 0 then 255 else (List.range 256).foldl (fun m k => if c ^ 32 * 10 ^ k ≤ n ^ 32 then max m k else m) 0

/-- Step 1: the eye figures of a berth, its events and the spares they ask for. -/
def State.laneHealth (s : State) (b : Nat) : State :=
  let y := s.berth b
  if y.eth then s
  else if !y.up then
    s.modBerth b (fun y => { y with lanes := Tab.mapV y.lanes (fun _ l => { l with ef := 0, low := 0, sym := (0, 0), hist := [] }) })
  else
    (List.range 4).foldl (fun s i =>
      let l := ((s.berth b).lane i)
      let hist := (l.sym :: l.hist).take 256
      let c := (hist.map (fun e => e.1)).sum
      let n := (hist.map (fun e => e.2)).sum
      let ef := eyeFigure c n
      let low := if ef < 80 then l.low + 1 else 0
      let s := s.modBerth b (fun y => y.modLane i (fun l => { l with ef := ef, low := low, hist := hist, sym := (0, 0) }))
      let s := if 96 ≤ ef ∧ ef < 128 then s.raisePkg 20 else if 80 ≤ ef ∧ ef < 96 then s.raisePkg 21 else s
      if 4 ≤ low then s.failLane b i else s) s

end Sys2Proof.Machine
end

