-- ==== Sys2Proof/Machine/Fabric.lean ====
section
/-! DEFINITION. Discovery, the bypass, the epoch gate and the arming of Charts (08 R229 to R234), and the bridge (09 R240). -/

namespace Sys2Proof.Machine

/-! ## Discovery (08 R233) -/

/-- DISCOVER_TX: a berth that is up sends a DISCOVER cell at start-up and every 256 tides. -/
def execDiscoverTx (b : Berth) (s : State) : Host.Outcome State Fault Refusal :=
  let y := s.berth b.val
  let due := match y.discoverAt with
    | some p => decide (p + 256 ≤ s.tide.periods)
    | none => true
  if !y.up || y.eth || s.berthSafe b.val || !due then .next s
  else
    let addr := match s.partOf b.val with
      | some e => e.2.addr
      | none => s.active.own
    let role : Byte := if (s.partOf b.val).isSome then 3 else 1
    let cell : DiscoverCell := ⟨addr, BitVec.ofNat 8 b.val, role, Config.serial, s.chart.epoch, s.quarantined b.val⟩
    .next ((s.sendLocal b.val 0 (.discover cell)).modBerth b.val (fun y => { y with discoverAt := some s.tide.periods }))

/-- Is a berth without its planned neighbour: down, or its link MISSING, as that of a MISWIRED berth counts (08 Table 8-13)? -/
def State.unlinked (s : State) (b : Nat) : Bool := (s.berth b).outcome == 3 || (s.berth b).outcome == 2 || !(s.berth b).up

/-- The berths of a bundle with no neighbour at all get the bypass select, if allowed (08 Table 8-13). -/
def State.bundleMissing (s : State) (b : Nat) : State :=
  match s.active.bundleOf b with
  | some (i, e) =>
    if e.berths.all (fun c => s.unlinked c) && s.active.bypass.getLsbD i && decide (1 ≤ e.role ∧ e.role ≤ 6)
        && !s.tide.running then
      s.modChart (fun c => { c with bypassSel := c.bypassSel ||| BitVec.ofNat 16 (2 ^ i) })
    else s
  | none => s

/-- An outcome other than MATCH is an event (08 R233). EXTRA and MISWIRED quarantine the berth, and what is queued for it is dropped (08 R234;
log entry 100); the link of a MISWIRED berth counts as MISSING. -/
def State.setOutcome (s : State) (b : Nat) (o : BitVec 3) : State :=
  let shut := o == 1 || o == 2
  let s := s.modBerth b (fun y => { y with outcome := o, quarDisc := y.quarDisc || shut })
  let s := if o = 0 then s else s.raisePkg 24
  let s := if shut then s.dropQueued b else s
  (if o = 2 ∨ o = 3 then s.bundleMissing b else s).noteDegraded

/-- DISCOVER: what the cell reports against the plan; a berth without a plan entry is unused (log entry 28). -/
def execDiscover (b : Berth) (c : DiscoverCell) (s : State) : Host.Outcome State Fault Refusal :=
  if !(s.berth b.val).up || (s.berth b.val).eth || s.berthSafe b.val then .next s
  else
    let s := s.modBerth b.val (fun y => { y with seen := some c })
    match Tab.get? s.chart.plan b.val with
    | none => .next (s.setOutcome b.val 1)
    | some p =>
      if p.unused then .next (s.setOutcome b.val 1)
      else if p.addr = c.addr ∧ p.berth.toNat = c.berth.toNat then .next (s.setOutcome b.val 0)
      else .next (s.setOutcome b.val 2)

/-- DISCOVERY_TIMEOUT: no DISCOVER cell within 64 tides of bring-up, on a berth that the plan uses. -/
def execDiscoveryTimeout (b : Berth) (s : State) : Host.Outcome State Fault Refusal :=
  let y := s.berth b.val
  let planned := match Tab.get? s.chart.plan b.val with
    | some p => !p.unused
    | none => false
  if y.up && !y.eth && y.seen.isNone && planned && y.outcome != 3 && decide (y.upTide.toNat + 64 ≤ s.tide.periods) then
    .next (s.setOutcome b.val 3)
  else .next s

/-! ## Bypass (08 R232) -/

/-- BYPASS_ENGAGE: every berth of a torus bundle that may be bypassed has been down for 4 tides when the next boundary comes, which
sets the select. Log entry 8. -/
def execBypassEngage (bundle : Fin 16) (s : State) : Host.Outcome State Fault Refusal :=
  let i := bundle.val
  match Tab.get? s.active.bundles i with
  | some e =>
    if s.tide.running ∧ s.active.bypass.getLsbD i ∧ 1 ≤ e.role ∧ e.role ≤ 6 ∧ e.berths.all (fun b => s.downFour b) then
      .next (s.modChart (fun c => { c with pBypass := c.pBypass ||| BitVec.ofNat 16 (2 ^ i) }))
    else .next s
  | none => .next s

/-! ## The epoch gate (08 R229, R230) -/

/-- Does this switch hold a packet or cell of an epoch? -/
def State.holdsEpoch (s : State) (e : Bool) : Bool :=
  [s.east, s.west].any (fun x => x.pkts.any (fun p => p.held.isNone && cwEpoch p.cw == e) || (x.ctrl ++ x.ctrlWait).any (fun q => q.epoch == e)
    || x.bridgeIn.any (fun q => cwEpoch q.2.cw == e))

/-- EPOCH_GATE_OPEN: 64 tides after the swap, with no packet of the old epoch left. -/
def execEpochGateOpen (s : State) : Host.Outcome State Fault Refusal :=
  if s.chart.draining ∧ tideReached s.now s.chart.drainEnd ∧ !s.holdsEpoch (!s.chart.epoch) then
    .next (s.modChart (fun c => { c with draining := false }))
  else .next s

/-- CHART_SHADOW_ARM: in tide T - 1 the shadow slot is armed for the swap at T. -/
def execChartShadowArm (s : State) : Host.Outcome State Fault Refusal :=
  match s.chart.armT with
  | some t => if tideReached (s.now + 1) t then .next (s.modChart (fun c => { c with armed := true })) else .next s
  | none => .next s

/-! ## The bridge (09 R240) -/

/-- A dropped copy or cell is counted: NO_ROUTE of the berth it came by, or TAIL_DROP of the input of the switch's own. Log entry 28. -/
def State.lostAtBridge (s : State) (h : Half) (origin : Option Nat) (input vc : Nat) : State :=
  match origin with
  | some b => s.bump .noRoute b
  | none => s.bump .tailDrop (subVcIx h input vc)

/-- Everything of a half that is queued for some of its bridge sub-ports is dropped and counted, and what has crossed in part ends in the other
half. -/
def State.bridgeGone (s : State) (h : Half) (gone : Nat → Bool) : State :=
  let s := (s.half h).pkts.foldl (fun s p =>
    let s := (p.pendingCopies.filter (fun c => gone c.out)).foldl (fun s c =>
      (s.lostAtBridge h p.origin p.input c.vc).dropPending h p.id c.order) s
    (p.copies.filter (fun c => gone c.out)).foldl (fun s c => (s.lostAtBridge h p.origin p.input c.vc).dropCopy h p.id c.order) s) s
  let x := s.half h
  let s := ((x.ctrl ++ x.ctrlWait).filter (fun q => gone q.out)).foldl (fun s q =>
    (s.lostAtBridge h q.origin q.input q.vc).freeCredit h q.credit 1) s
  let s := s.modHalf h (fun x => { x with ctrl := x.ctrl.filter (fun q => !gone q.out), ctrlWait := x.ctrlWait.filter (fun q => !gone q.out) })
  let part := fun (p : Pkt) => p.feeder.isSome && decide (p.payload.length < 64 * p.cells) && gone p.input
  let s := ((s.half h.other).pkts.filter part).foldl (fun s p => s.cutOff h.other p) s
  s.modHalf h.other (fun x => { x with bridgeIn := x.bridgeIn.filter (fun e => !part e.2) })

/-- BRIDGE_SUBPORT_REMOVED: a module cannot repair a sub-port, which leaves the live set at the next boundary; if the module
is down, what is queued for it is dropped and counted (log entry 28). -/
def execBridgeSubportRemoved (h : Half) (j : Fin 96) (moduleDown : Bool) (s : State) : Host.Outcome State Fault Refusal :=
  let s := (s.raiseLine h 42).modHalves (fun _ x => { x with pBridgeDown := insertNew j.val x.pBridgeDown })
  if !moduleDown then .next s
  else
    .next ([Half.east, Half.west].foldl (fun s h => s.bridgeGone h (fun o => o == 288 + j.val)) s)

/-- What is queued for the sub-ports of a half that leave crosses: the packets that are whole and checked, and the control cells. -/
def State.drainBridge (s : State) (h : Half) : State :=
  let goes := fun (o : Nat) => decide (288 ≤ o) && decide (o - 288 ∈ (s.half h).pBridgeDown)
  let s := (s.half h).pkts.foldl (fun s p =>
    (p.copies.filter (fun c => goes c.out && p.whole && p.crcOk && !p.pallets.isEmpty)).foldl (fun s c =>
      ((rangeFrom (p.cells - c.left) c.left).foldl (fun s i => s.toBridge h p c i) s).dropCopy h p.id c.order) s) s
  ((s.half h).ctrl.filter (fun q => goes q.out)).foldl (fun s q => s.moveCtrl h q) s

/-- What could not cross yet, since it is not whole, has no pallets or waits for a control slot, takes one of the sub-ports left (09
R240). -/
def State.reaim (s : State) (h : Half) : State :=
  let gone := fun (o : Nat) => decide (288 ≤ o) && decide (o - 288 ∈ (s.half h).bridgeDown)
  if (s.bridgeLive h).isEmpty then s.bridgeGone h gone
  else
    let out := fun (o : Nat) (d : Dest) (key : U64) => if gone o then (s.outPort h d key 0 h.other).getD o else o
    let place := fun (p : Pkt) (c : Copy) => { c with out := out c.out c.dest p.hdr.spreadKey }
    s.modHalf h (fun x => { x with
      pkts := x.pkts.map (fun p => { p with copies := p.copies.map (place p), pendingCopies := p.pendingCopies.map (place p) })
      ctrlWait := x.ctrlWait.map (fun q => { q with out := out q.out q.dest (ctrlKey q.bytes) }) })

/-- At the boundary the sub-ports leave: what is queued for them has crossed first. -/
def State.bridgeLeave (s : State) : State :=
  let s := (s.drainBridge .east).drainBridge .west
  let s := s.modHalves (fun _ x => { x with bridgeDown := x.pBridgeDown.foldl (fun l j => insertNew j l) x.bridgeDown, pBridgeDown := [] })
  (s.reaim .east).reaim .west

end Sys2Proof.Machine
end

