-- ==== Sys2Proof/Machine/Faults.lean ====
section
/-! DEFINITION. Fault records, classification by counting, the Breakwater and fences (13). Readings: log entries 29 and 68. -/

namespace Sys2Proof.Machine

/-! ## Sources (13 R345 to R347, Table 13-5) -/

/-- How a source is treated: whether it is a fault (else an event), whether N is fixed at 1, and its action when severe: 0
RECORD, 2 WITHDRAW, 3 BW_BERTHS, 4 BW_HALF, 5 BW_PKG. -/
structure SrcInfo where
  isFault : Bool
  fixed : Bool
  action : Nat
deriving DecidableEq, Repr

/-- Table 13-5 by source code. -/
def srcInfo (src : Nat) : Option SrcInfo :=
  if src < 0x80 then
    let i := src % 64
    if i < 20 then some ⟨true, false, 2⟩
    else if i < 28 then some ⟨true, false, 3⟩
    else if i < 36 then some ⟨true, false, 2⟩
    else if i = 44 then some ⟨true, false, 3⟩
    else if i = 42 then some ⟨true, false, 0⟩
    else if i = 45 then (if src < 0x40 then none else some ⟨true, false, 0⟩)
    else if i = 37 ∨ (46 ≤ i ∧ i ≤ 49) then some ⟨true, true, 4⟩
    else if i < 50 then some ⟨true, false, 4⟩
    else none
  else if src < 0xC0 then
    let i := src - 0x80
    if i < 3 then some ⟨true, true, 5⟩
    else if i < 5 then some ⟨true, false, 4⟩
    else if i < 9 then some ⟨true, true, 0⟩
    else if 16 ≤ i ∧ i ≤ 28 then some ⟨false, false, 0⟩
    else none
  else if 0x100 ≤ src ∧ src < 0x109 then some ⟨true, true, 0⟩
  else none

/-- The half of a source's Breakwater (HLINK_E and HLINK_W those of their half). -/
def srcHalfOf (src : Nat) : Half := if src < 0x80 then Half.ofNum (src / 64) else Half.ofNum (src - 0x83)

/-- The counting of a source: N = 16 and W = 2^20, or N fixed at 1 (13 R347). -/
def State.sourceSt (s : State) (src : Nat) : SourceSt :=
  Tab.get { n := if (srcInfo src).any (fun i => i.fixed) then 1 else 16, wLog2 := 20 } s.fault.sources src

/-- classify (13 R346): the count after an event at boundary t, and whether it reaches N. -/
def SourceSt.classify (x : SourceSt) (t : TideNo) : SourceSt × Bool :=
  let x := if x.count = 0 ∨ 2 ^ x.wLog2 ≤ (t - x.start).toNat then { x with start := t, count := 0 } else x
  let x := if x.count < 65535 then { x with count := x.count + 1 } else x
  (x, decide (x.n ≤ x.count))

/-! ## Records (13 R348 to R350) -/

/-- FAULT_N is asserted for a record of a class. -/
def FaultSt.assert (f : FaultSt) (cls : Nat) : FaultSt := if 1 ≤ cls ∨ f.eventsN then { f with faultN := true } else f

/-- Make a record; answers whether there was room. The oldest closed record gives way; with every record open, the overflow
record, which has a number of its own, counts a merge (log entry 112). -/
def FaultSt.newRec (f : FaultSt) (r : Rec) : FaultSt × Bool :=
  let add := fun (f : FaultSt) => (({ f with head := f.head + 1, recs := f.recs ++ [{ r with seq := f.head + 1 }] }).assert r.cls, true)
  if f.recs.length < 1024 then add f
  else
    match f.recs.find? (fun x => !x.isOpen && !x.overflow) with
    | some old => add { f with recs := f.recs.erase old }
    | none =>
      if f.recs.any (fun x => x.overflow) then
        ({ f with recs := f.recs.map (fun x => if x.overflow then { x with merge := min 255 (x.merge + 1), last := r.last } else x) }, false)
      else
        ({ f with head := f.head + 1, recs := f.recs ++ [⟨f.head + 1, 0xFFFF, 0, 0, r.first, 1, false, true, r.last, 0, 0, true, none⟩] },
          false)

/-- The newest record of a source that is not a Breakwater record, if it is open. -/
def FaultSt.openRec (f : FaultSt) (src : Nat) : Option Rec :=
  match f.recs.reverse.find? (fun r => r.source.toNat == src && r.scope.isNone && !r.overflow) with
  | some r => if r.isOpen then some r else none
  | none => none

/-- Change the record of a number. -/
def FaultSt.modRec (f : FaultSt) (seq : Nat) (g : Rec → Rec) : FaultSt :=
  { f with recs := f.recs.map (fun r => if r.seq = seq then g r else r) }

/-! ## Faults of the hardware (13 Tables 13-2, 13-3, 13-5) -/

/-- The lines of a half that only a fault of the hardware raises: QUAY_CTL, CELLBUF, DESC, XBAR, MCACHE, HOSTPORT (West), CLOCK, AES. -/
def hwLine (h : Half) (i : Nat) : Bool := i ∈ [37, 38, 39, 41, 43, 48, 49] || (h == .west && i == 45)

/-- The lines of the package that only a fault of the hardware raises: TIDE_GEN, PLL, HLINK_E, HLINK_W, MASTER_CONFLICT. -/
def hwPkgLine (i : Nat) : Bool := i ∈ [0, 1, 3, 4, 7]

/-- A fault in the tide that ends: its line is raised, and its event handled as Table 13-5 says. A stack's training loss is kind 4, a
failed repair kind 3 (13 Table 13-7). -/
def State.hwFault (s : State) : HwFault → State
  | .line h i => if hwLine h i.toNat then s.raiseLine h i.toNat else s
  | .pkgLine i => if hwPkgLine i.toNat then s.raisePkg i.toNat else s
  | .stack addr training =>
    let a := addr.toNat
    s.raiseWith (holdHalf a) (28 + bitsOf a 37 3) (BitVec.ofNat 64 (a + (if training then 4 else 3) * 2 ^ 48))
  | .window h eng tile index residue =>
    let k := tileKey h eng.val tile.val
    match Tab.get? (s.tile k).slots (index.toNat / 4096) with
    | some sl => s.tileFault k sl.sid sl.chunk index.toNat residue
    | none => s.raiseWith h (s.physEng h eng.val) (engineDetail (s.tile k).phys (if residue then 2 else 1) index.toNat 0xFFFFF)
  | .taste h eng tile index sid block d =>
    let n := sid.toNat
    match s.mfst n with
    | some m =>
      if d = 0 ∨ (s.job m.job).tasteK = 0 ∨ m.isLse then s
      else
        let s := s.modStream n (fun x => if x.tasteDiv < d then { x with tasteDiv := d, tasteBlock := block } else x)
        (s.raisePkg 23).raiseWith h (s.physEng h eng.val)
          (engineDetail (s.tile (tileKey h eng.val tile.val)).phys 4 index.toNat n)
    | none => s
  | .packet h i pid => if i.toNat ∈ [38, 39, 41] then (s.raiseLine h i.toNat).dropPkt h pid else s
  | .manifestCache h sid lost =>
    let s := s.raiseLine h 43
    if lost && (s.stream sid.toNat).state == .live then s.askAbort sid.toNat ⟨2, 0xFFFF, 0xFF, false, none⟩ else s

/-! ## The Breakwater (13 R351 to R353) -/

/-- Berths of a half. -/
def halfBerths (h : Half) : List Nat := rangeFrom (128 * h.num) 128 ++ [256 + 2 * h.num, 257 + 2 * h.num]

/-- A berth enters the safe state: it is down from this boundary and sends BREAKWATER. -/
def State.enterBerth (s : State) (b : Nat) : State :=
  (s.berthDown b).modBerth b (fun y => { y with bwTx := true, paused := false, pauseTx := [] })

/-- A half enters the safe state: its berths, the drains of its tiles, and the LIVE streams in it (13 R352, 05 R147). -/
def State.stopHalf (s : State) (h : Half) : State :=
  let s := (s.berths.filter (fun e => berthHalf e.1 == h)).foldl (fun s e => s.enterBerth e.1) s
  let s := (s.tiles.filter (fun e => tileHalf e.1 == h)).foldl (fun s e =>
    s.modTile e.1 (fun t => { t with drainsWaiting := t.drainsWaiting ++ [.safeState] })) s
  s.streams.foldl (fun s e => match e.2.cfg with
    | some m =>
      if e.2.state = .live ∧ (m.inHalf h ∨ m.home = h) then
        s.askAbort e.1 ⟨8, BitVec.ofNat 16 (s.lowestOpen e.1 m), 0xFF, false, none⟩
      else s
    | none => s) s

/-- Enter the safe state of a scope, with its Breakwater record. -/
def State.enterSafe (s : State) (src : Nat) (action : Nat) (c : BwScope) : State :=
  let r : Rec := ⟨0, BitVec.ofNat 16 src, 2, action, s.now, 0, true, false, s.now, 0, 0, false, some c⟩
  let s := s.modFault (fun f => (f.newRec r).1)
  match c with
  | .berths bs => bs.foldl (fun s b =>
      if s.berthSafe b then s.modBerth b (fun y => { y with safe := true })
      else (s.modBerth b (fun y => { y with safe := true })).enterBerth b) s
  | .half h =>
    if s.halfSafe h then s.modHalf h (fun x => { x with safe := true })
    else (s.modHalf h (fun x => { x with safe := true })).stopHalf h
  | .pkg =>
    let hs := [Half.east, Half.west].filter (fun h => !s.halfSafe h)
    let s := s.modFault (fun f => { f with pkgSafe := true })
    hs.foldl (fun s h => s.stopHalf h) s

/-- The source code of a forced safe state (log entry 29). -/
def srcForced : Nat := 0xFFFE

/-! ## Withdrawal (13 Table 13-5, 04 R99, R100) -/

/-- Firmware withdraws a tile or, with no spare tile, the engine: its logical index moves to a free engine at the next
boundary, or is unmapped; a stream LIVE on an index left unmapped aborts. -/
def State.withdrawEngine (s : State) (h : Half) (phys tile : Nat) : State :=
  match (List.range 20).find? (fun e => s.physEng h e == phys) with
  | none => s.withdrawDone (srcHalf h phys)
  | some e =>
    let k := (List.range 8).find? (fun i => (s.tile (tileKey h e i)).phys == tile)
    match k, s.spareTile h e with
    | some i, some p => s.modTile (tileKey h e i) (fun t => { t with pSub := some p })
    | _, _ =>
      let s := s.modHalf h (fun x => { x with badEngines := insertNew phys x.badEngines })
      match s.freeEngine h with
      | some p => s.modHalf h (fun x => { x with pEngMap := Tab.set x.pEngMap e p })
      | none =>
        let s := s.modHalf h (fun x => { x with pEngMap := Tab.set x.pEngMap e 20 })
        s.streams.foldl (fun s st => match st.2.cfg with
          | some m => if st.2.state = .live ∧ m.usesEngine h e then s.askAbort st.1 ⟨7, 0xFFFF, 0xFF, false, none⟩ else s
          | none => s) s

/-- A severe Hold stack takes no writes, and every shard with a plane in it goes to POISONED. -/
def State.withdrawStack (s : State) (src : Nat) : State :=
  let st := (src / 64) * 8 + (src % 64 - 28)
  let s := s.modFault (fun f => { f with badStacks := insertNew st f.badStacks })
  let s := { s with shards := Tab.mapV s.shards (fun _ x =>
    let lo := x.cfg.holdBase.toNat
    let hi := lo + x.planeBytes (s.usedPlanes x)
    if x.state ≠ 0 ∧ lo < (st + 1) * 2 ^ 37 ∧ st * 2 ^ 37 < hi then { x with pPoison := true } else x) }
  s.withdrawDone src

/-- The berths that a record's DETAIL names; all of the source's without one. -/
def severeBerths (src : Nat) (d : U64) : List Nat :=
  let mask := bitsOf d.toNat 0 16
  if src % 64 = 44 then
    let l := (List.range 4).filter (fun j => bitOf mask j)
    if l.isEmpty then [256 + 2 * (src / 64), 257 + 2 * (src / 64)] else l.map (fun j => 256 + j)
  else
    let k := 8 * (src / 64) + (src % 64 - 20)
    let l := (List.range 16).filter (fun j => bitOf mask j)
    (if l.isEmpty then List.range 16 else l).map (fun j => 16 * k + j)

/-- Is a Harbour Master pair in service: not failed? -/
def State.hmUp (s : State) (pair : Nat) : Bool := decide (pair ∉ s.fault.hmFailed)

/-- The action of a source that is severe now; HM_A and HM_B stop the package when neither pair remains in service. -/
def State.severeAction (s : State) (src : Nat) (i : SrcInfo) : Nat :=
  if src = 0x85 ∨ src = 0x86 then
    let standbyReady := if s.sec.primaryB then s.sec.readyA else s.sec.readyB
    let primaryFailed := (src = 0x86) = s.sec.primaryB
    if (!s.hmUp 0 && !s.hmUp 1) ∨ (primaryFailed ∧ !standbyReady) then 5 else 0
  else i.action

/-- Carry out the severe action of a source. -/
def State.act (s : State) (src action : Nat) (d : U64) : State :=
  match action with
  | 2 =>
    if src % 64 < 20 then s.withdrawEngine (srcHalfOf src) (src % 64) (bitsOf d.toNat 0 8) else s.withdrawStack src
  | 3 => s.enterSafe src 3 (.berths (severeBerths src d))
  | 4 => s.enterSafe src 4 (.half (srcHalfOf src))
  | 5 => s.modFault (fun f => { f with pPkgSafe := true })
  | _ => s

/-- Step 2 for one source with an event at this boundary (13 R346, R349). -/
def State.sourceEvent (s : State) (src : Nat) : State :=
  match srcInfo src with
  | none => s
  | some i =>
    let t := s.now
    let (x, hit) := (s.sourceSt src).classify t
    let s := s.modFault (fun f => { f with sources := Tab.set f.sources src x })
    let d := Tab.get 0 s.fault.details src
    let severe := i.isFault && hit
    let (s, rec_) :=
      match s.fault.openRec src with
      | some r =>
        (s.modFault (fun f => f.modRec r.seq (fun r => { r with last := t, merge := min 255 (r.merge + 1), count := x.count })), some r)
      | none =>
        let r : Rec := ⟨0, BitVec.ofNat 16 src, if i.isFault then 1 else 0, if i.isFault && !i.fixed then 1 else 0, t, 0, true, false, t,
          x.count, d, true, none⟩
        let (f, ok) := s.fault.newRec r
        (s.modFault (fun _ => f), if ok then s.fault.openRec src |>.orElse (fun _ => f.openRec src) else none)
    if !severe then s
    else
      let action := s.severeAction src i
      match rec_ with
      | some r =>
        if r.cls = 2 then s
        else
          let done := action < 2
          (s.modFault (fun f => { f.modRec r.seq (fun r => { r with cls := 2, action := max r.action action, localDone := done }) with
            faultN := true })).act src action r.detail
      | none => if x.count = x.n then s.act src action d else s

/-- Step 2's closing of records whose actions have completed (13 R349). -/
def State.closeRecs (s : State) : State :=
  s.modFault (fun f => { f with recs := f.recs.map (fun r =>
    if r.isOpen && r.scope.isNone && decide (r.action < 3) && r.localDone && r.last != s.now then { r with isOpen := false } else r) })

/-- Step 1: the lines of the tide just ended are latched; answers the source codes that have an event. -/
def State.latchLines (s : State) : State :=
  let codes := fun (base : Nat) (w : U64) => ((List.range 62).filter (fun i => w.getLsbD i)).map (fun i => base + i)
  let mg := (List.range 9).filter (fun i => s.fault.pMgmt.getLsbD i)
  let pkgLines := if mg.isEmpty then s.fault.lines else s.fault.lines ||| (256 : U64)
  let got := codes 0 s.east.lines ++ codes 0x40 s.west.lines ++ codes 0x80 pkgLines ++ mg.map (fun i => 0x100 + i)
  let s := s.modHalves (fun _ x => { x with light := x.light ||| x.lines, lines := 0 })
  s.modFault (fun f => { f with
    pkg := f.pkg ||| pkgLines, lines := 0, mgmt := f.mgmt &&& ~~~f.pMgmt, pMgmt := 0, latched := got.filter (fun c => (srcInfo c).isSome) })

/-- A safe state ends (13 R354): its records and those that caused them close, the counts return to 0, and the berths retrain. Of a
word of SAFE_BERTHS only the berths leave whose source latched nothing at this boundary. -/
def State.exitSafe (s : State) (scope index : Nat) : State :=
  let cause := fun (b : Nat) => srcHalf (berthHalf b) (berthLine b)
  let bs := if scope = 0 then (rangeFrom (32 * index) 32).filter (fun b => (s.berth b).safe && decide (cause b ∉ s.fault.latched)) else []
  let s : State := match scope with
    | 0 => bs.foldl (fun (s : State) b => s.modBerth b (fun y => { y with safe := false })) s
    | 1 => s.modHalf .east (fun x => { x with safe := false, latchLost := false })
    | 2 => s.modHalf .west (fun x => { x with safe := false, latchLost := false })
    | _ => s.modFault (fun f => { f with pkgSafe := false })
  let ends := fun (c : BwScope) => match c with
    | .berths l => scope == 0 && l.all (fun b => !(s.berth b).safe)
    | .half h => scope == h.num + 1
    | .pkg => scope == 3
  let srcs := (s.fault.recs.filter (fun (r : Rec) => r.isOpen && r.scope.any ends)).map (fun (r : Rec) => r.source)
  let s := s.modFault (fun f => { f with
    force := if scope = 0 then f.force else f.force &&& ~~~(BitVec.ofNat 3 (2 ^ (scope % 3))),
    recs := f.recs.map (fun (r : Rec) => if r.isOpen && (r.scope.any ends || (decide (r.source ∈ srcs) && r.scope.isNone && decide (3 ≤ r.action)))
      then { r with isOpen := false } else r),
    sources := Tab.mapV f.sources (fun k x => if BitVec.ofNat 16 k ∈ srcs then { x with count := 0 } else x) })
  { s with berths := Tab.mapV s.berths (fun b y => if s.berthSafe b then y else { y with bwTx := false }) }

/-- Step 2: classification, the Breakwater, and the closing of records. -/
def State.classifyAll (s : State) : State :=
  let s := s.modFault (fun f => { f with sources := Tab.mapV f.sources (fun _ x => match x.pCfg with
    | some (n, w) => { x with n := n, wLog2 := w, pCfg := none }
    | none => x) })
  let s := s.fault.pExit.foldl (fun s e => s.exitSafe e.1 e.2) s
  let s := s.modFault (fun f => { f with pExit := [] })
  let pkgDue := s.fault.pPkgSafe
  let cause := ((s.fault.recs.find? (fun r => r.isOpen && r.action == 5 && r.scope.isNone)).map (fun r => r.source.toNat)).getD srcForced
  let s := s.modFault (fun f => { f with pPkgSafe := false })
  let s := s.fault.latched.foldl (fun s c => s.sourceEvent c) s
  let pf := s.fault.pForce
  let s := if pf.getLsbD 1 then s.enterSafe srcForced 4 (.half .east) else s
  let s := if pf.getLsbD 2 then s.enterSafe srcForced 4 (.half .west) else s
  let s := s.modFault (fun f => { f with pForce := 0, pPkgSafe := f.pPkgSafe || pf.getLsbD 0, details := [] })
  let s := if pkgDue then s.enterSafe cause 5 .pkg else s
  s.closeRecs

/-- Is a swap into a half withheld at this boundary: its safe state, or a severe source in it or of the package latched now
(01 R19, 13 R352)? -/
def State.withheld (s : State) (h : Half) : Bool :=
  s.halfSafe h || s.fault.pPkgSafe || s.fault.latched.any (fun c =>
    (srcInfo c).any (fun i => i.isFault) && (s.fault.openRec c).any (fun r => r.cls == 2)
      && (decide (0x80 ≤ c) || Half.ofNum (c / 64) == h))

/-! ## Lighthouse words (13 Tables 13-2, 13-3) -/

/-- Has a source of a word an open severe record? -/
def State.severeIn (s : State) (lo hi : Nat) : Bool :=
  s.fault.recs.any (fun r => r.isOpen && r.cls == 2 && r.scope.isNone && decide (lo ≤ r.source.toNat ∧ r.source.toNat < hi))

/-- A half's Lighthouse word, and the package fault word, as read. -/
def State.lighthouse (s : State) (h : Half) : U64 :=
  (s.half h).light ||| BitVec.ofNat 64 (bitNat (s.severeIn (64 * h.num) (64 * h.num + 64)) * 2 ^ 62 + bitNat (s.halfSafe h) * 2 ^ 63)

def State.pkgWord (s : State) : U64 :=
  s.fault.pkg ||| BitVec.ofNat 64 (bitNat (s.severeIn 0x80 0xC0) * 2 ^ 62 + bitNat s.fault.pkgSafe * 2 ^ 63)

/-! ## Events of the hardware -/

/-- MGMT_INTERRUPT: a management block's status is shown, recorded and raised at the next boundary (13 R344). -/
def execMgmtInterrupt (block : Fin 9) (s : State) : Host.Outcome State Fault Refusal :=
  let bit := BitVec.ofNat 9 (2 ^ block.val)
  .next (s.modFault (fun f => { f with mgmt := f.mgmt ||| bit, pMgmt := f.pMgmt ||| bit }))

/-- May an identity write the fault block: host function 0 or the management identities (12 R327)? -/
def privileged (who : BitVec 4) : Bool := who == 0 || who == 8 || who == 9

/-- Writes of SAFE_CTRL: the scope is forced at the next boundary (13 R351). -/
def State.forceSafe (s : State) (who : BitVec 4) (bit : Nat) : State :=
  if !privileged who || s.fault.force.getLsbD bit then s
  else
    let m := BitVec.ofNat 3 (2 ^ bit)
    s.modFault (fun f => { f with force := f.force ||| m, pForce := f.pForce ||| m })

def execForcePkg (who : BitVec 4) (s : State) : Host.Outcome State Fault Refusal := .next (s.forceSafe who 0)
def execForceE (who : BitVec 4) (s : State) : Host.Outcome State Fault Refusal := .next (s.forceSafe who 1)
def execForceW (who : BitVec 4) (s : State) : Host.Outcome State Fault Refusal := .next (s.forceSafe who 2)

/-- ACK: FAULT_N is deasserted (13 R350). -/
def execAck (who : BitVec 4) (s : State) : Host.Outcome State Fault Refusal :=
  if privileged who then .next (s.modFault (fun f => { f with faultN := false })) else .next s

/-- A processor fails: a Harbour Master pair stops, a deputy raises its half's line (13 Table 13-5). -/
def State.procFails (s : State) (p : Proc) : State :=
  let pair := fun (s : State) (i : Nat) =>
    ((s.modFault (fun f => { f with hmFailed := insertNew i f.hmFailed })).modSec (fun x =>
      if i = 0 then { x with readyA := false } else { x with readyB := false })).raisePkg (5 + i)
  match p with
  | .pairA => pair s 0
  | .pairB => pair s 1
  | .deputyE => s.raiseLine .east 46
  | .deputyW => s.raiseLine .west 46

/-- WATCHDOG. -/
def execWatchdog (p : Proc) (s : State) : Host.Outcome State Fault Refusal := .next (s.procFails p)

/-- LOCKSTEP_MISMATCH. -/
def execLockstepMismatch (p : Proc) (s : State) : Host.Outcome State Fault Refusal := .next (s.procFails p)

/-- LATCH_LOST: no valid latch value for 2 tides (14 R386). -/
def execLatchLost (h : Half) (s : State) : Host.Outcome State Fault Refusal :=
  .next ((s.modHalf h (fun x => { x with latchLost := true, latchSeen := 0 })).raiseLine h 47)

/-- CLOCK. -/
def execClock (h : Half) (s : State) : Host.Outcome State Fault Refusal := .next (s.raiseLine h 48)

/-- PLL. -/
def execPll (_h : Half) (s : State) : Host.Outcome State Fault Refusal := .next (s.raisePkg 1)

/-- VOLTAGE. -/
def execVoltage (_rail : Fin 26) (s : State) : Host.Outcome State Fault Refusal := .next (s.raisePkg 26)

/-- A reading at or above 110 °C keeps the state after a thermal trip; one below it lets the sensor go. The reading itself is not held (log
entry 106). -/
def State.noteTemp (s : State) (sensor celsius : Nat) : State :=
  s.modFault (fun f => { f with hot := if 110 ≤ celsius then insertNew sensor f.hot else f.hot.filter (fun i => i != sensor) })

/-- Is a sensor watched now? Sensors 0 to 15 are the halves', 16 and 17 the Harbour die's (16 R426); in ANCHOR only the Harbour
die is watched (14 R380). -/
def State.watched (s : State) (sensor : Nat) : Bool := s.sec.power != 2 || decide (16 ≤ sensor)

/-- TEMP_HIGH: a reading above 105 °C. -/
def execTempHigh (sensor : Fin 18) (celsius : Nat) (s : State) : Host.Outcome State Fault Refusal :=
  if !s.watched sensor.val then .next s
  else .next (if 105 < celsius then (s.noteTemp sensor.val celsius).raisePkg 25 else s.noteTemp sensor.val celsius)

/-- THERM_TRIP: a reading of 125 °C or above; the part wakes from DOZE (14 R380). -/
def execThermTrip (sensor : Fin 18) (celsius : Nat) (s : State) : Host.Outcome State Fault Refusal :=
  if !s.watched sensor.val ∨ celsius < 125 then .next s
  else
    let s := ((s.noteTemp sensor.val celsius).raisePkg 25).raisePkg 2
    .next ((s.modFault (fun f => { f with therm := true, thermtripN := true })).modSec (fun x =>
      if x.power = 1 then { x with power := 0 } else x))

/-- THERMTRIP_N_DEASSERT: every die sensor reads below 110 °C (16 R427). -/
def execThermtripNDeassert (s : State) : Host.Outcome State Fault Refusal :=
  .next (s.modFault (fun f => { f with therm := false, thermtripN := false, hot := [] }))

/-! ## Fences (13 R355, R356) -/

/-- The logical engine behind a physical one, if any. -/
def State.logicalEng (s : State) (h : Half) (phys : Nat) : Option Nat := (List.range 20).find? (fun e => s.physEng h e == phys)

/-- The LIVE streams of an object. -/
def State.liveOn (s : State) (o : FenceObj) : List Nat :=
  (s.streams.filter (fun e => e.2.state == .live && e.2.cfg.any (fun m => match o with
    | .engine h p => (s.logicalEng h p.val).any (fun l => m.usesEngine h l)
    | .berth _ => false
    | .job j => m.job == j.toNat))).map (fun e => e.1)

/-- Does a packet belong to an object? -/
def pktOn (h : Half) (p : Pkt) (o : FenceObj) : Bool :=
  match o with
  | .engine eh ph =>
    h == eh && (p.copies ++ p.pendingCopies).any (fun c => decide (128 + 8 * ph.val ≤ c.out ∧ c.out < 136 + 8 * ph.val))
  | .berth b => (p.copies ++ p.pendingCopies).any (fun c => c.dest == Dest.berth b.val && decide (c.out < 288)) && h == berthHalf b.val
  | .job j => p.hdr.job == j.toNat

/-- Recipe sections admitted for an object. -/
def State.sectionsOn (s : State) (o : FenceObj) : Bool :=
  s.shards.any (fun e => e.2.work.any (fun w => w.2.pc != 0 && (match o with
    | .engine h p => e.2.half == h && s.physEng h w.2.eng == p.val
    | .berth _ => false
    | .job j => e.2.job == j.toNat)))

/-- Is a fence's object empty (13 Table 13-12)? -/
def State.objEmpty (s : State) (o : FenceObj) : Bool :=
  let noPkts := [Half.east, Half.west].all (fun h => (s.half h).pkts.all (fun p => !pktOn h p o))
  match o with
  | .engine h p =>
    let tiles := (s.logicalEng h p.val).map (fun l => (List.range 8).map (fun i => s.tile (tileKey h l i)))
    noPkts && (s.liveOn o).isEmpty && !s.sectionsOn o && (tiles.getD []).all (fun t => t.drainsWaiting.isEmpty && t.draining.isNone && t.cells.isEmpty)
  | .berth b => noPkts && (s.berth b.val).queue.isEmpty && [Half.east, Half.west].all (fun h =>
    ((s.half h).ctrl ++ (s.half h).ctrlWait).all (fun q => q.dest != Dest.berth b.val))
  | .job j =>
    noPkts && (s.liveOn o).isEmpty && !s.sectionsOn o && (s.job j.toNat).outstanding.isEmpty

/-- FENCE_EMPTY. -/
def execFenceEmpty (o : FenceObj) (s : State) : Host.Outcome State Fault Refusal :=
  if s.fault.fences.any (fun f => f.obj == o && f.active && !f.empty) && s.objEmpty o then
    .next (s.modFault (fun f => { f with fences := f.fences.map (fun x => if x.obj = o then { x with empty := true } else x) }))
  else .next s

/-- FENCE_DEADLINE: 64 tides after the fence boundary. -/
def execFenceDeadline (o : FenceObj) (s : State) : Host.Outcome State Fault Refusal :=
  match s.fault.fences.find? (fun f => f.obj == o && f.active && !f.empty) with
  | none => .next s
  | some f =>
    if !tideReached s.now (f.boundary + 64) then .next s
    else
      let s := (s.liveOn o).foldl (fun s n => s.askAbort n ⟨7, 0xFFFF, 0xFF, false, none⟩) s
      let s := [Half.east, Half.west].foldl (fun s h => ((s.half h).pkts.filter (fun p => pktOn h p o)).foldl (fun s p =>
        (s.jobDrop p.hdr.job).dropPkt h p.id) s) s
      match o with
      | .job j =>
        let s := { s with gathers := s.gathers.filter (fun g => g.job != j.toNat),
                          prefetches := s.prefetches.filter (fun p => p.job != j.toNat) }
        .next (s.modJob j.toNat (fun x => { x with outstanding := [] }))
      | .berth b => .next ((s.dropQueued b.val).modBerth b.val (fun y => { y with queue := [] }))
      | .engine _ _ => .next s

/-- A fence takes effect at its boundary, or is lifted. That of an engine drains its tiles (04 R96). -/
def State.fenceOn (s : State) (o : FenceObj) : State :=
  match o with
  | .engine h p => s.drainEngine h p.val .fence
  | .berth b => s.modBerth b.val (fun y => { y with quarFence := true })
  | .job j =>
    let s := s.modJob j.toNat (fun x => { x with fenced := true })
    (s.gathers.filter (fun g => g.job == j.toNat && g.waiting)).foldl (fun s g => s.dropGather g 8) s

def State.fenceOff (s : State) (o : FenceObj) : State :=
  match o with
  | .engine _ _ => s
  | .berth b => s.modBerth b.val (fun y => { y with quarFence := false })
  | .job j => s.modJob j.toNat (fun x => { x with fenced := false })

/-- The boundary's part of fences: begin, answer the commands of those that are empty, and lift. -/
def State.fencesAt (s : State) : State :=
  let due := s.fault.fences.filter (fun f => !f.active && tideReached s.now f.boundary)
  let s := due.foldl (fun s f => s.fenceOn f.obj) s
  let s := s.modFault (fun f => { f with fences := f.fences.map (fun x => if tideReached s.now x.boundary then { x with active := true } else x) })
  let s := (s.fault.fences.filter (fun f => f.empty && !f.internal)).foldl (fun s f => s.finishWait (.fence f.obj) []) s
  let off := s.fault.fences.filter (fun f => f.enableAt.any (fun t => tideReached s.now t))
  let s := off.foldl (fun s f => (s.fenceOff f.obj).finishWait (.fence f.obj) []) s
  s.modFault (fun f => { f with fences := f.fences.filter (fun x => !x.enableAt.any (fun t => tideReached s.now t)) })

end Sys2Proof.Machine
end

