-- ==== Sys2Proof/Machine/Mailbox.lean ====
section
/-! DEFINITION. The mailbox BAR: channels, the register blocks, and the commands on channels (12 R314 to R325, 02 R55, R56, 11
R303, 13 R343, 15 R400). -/

namespace Sys2Proof.Machine

/-! ## Registers of the lane block (11 R303) -/

/-- The RO fields of BERTH_STATUS as the hardware has them (11 Table 11-8). -/
def State.berthNow (s : State) (b : Nat) : U32 :=
  let y := s.berth b
  let efs := (List.range 4).map (fun i => (y.lane i).ef)
  let spares := y.lanes.countP (fun e => e.2.spare.isSome)
  let inSet := s.live b && ((s.active.bundleOf b).isSome || (s.active.groupOf b).isSome)
  BitVec.ofNat 32 (efs.foldl min 255 * 2 ^ 24 + spares * 2 ^ 16 + bitNat y.bwRx * 2 ^ 9 + bitNat y.bwTx * 2 ^ 8
    + bitNat (y.loopKind != 0 || y.farLoop) * 2 ^ 7 + bitNat (s.quarantined b) * 2 ^ 6 + bitNat inSet * 2 ^ 5 + bitNat y.up * 2 ^ 4
    + bitNat y.eth * 2 ^ 3 + y.lstate.toNat * 2)

/-- The RO fields of OE_STATUS as the hardware has them (11 Table 11-9). -/
def State.oeNow (s : State) (k : Nat) : U32 :=
  let o := s.oe k
  let free := (List.range 8).countP (fun i => s.spareFree (16 * k + 2 * i))
  BitVec.ofNat 32 (free * 2 ^ 24 + o.failed.length % 256 * 2 ^ 16 + bitNat o.standbyOk * 2 ^ 10 + bitNat o.primaryOk * 2 ^ 9
    + bitNat o.feed * 2 ^ 8 + bitNat o.deep)

/-- BERTH_STATUS and OE_STATUS: RO fields from the mirror of the latest boundary once the tide runs, W1C bits as they are;
0 while the half has not started (15 R390). -/
def State.berthStatus (s : State) (b : Nat) : U32 :=
  let y := s.berth b
  if !(s.half (berthHalf b)).started then 0
  else (if s.tide.running then y.mirror else s.berthNow b) ||| BitVec.ofNat 32 (bitNat y.stompSeen * 2 ^ 12 + bitNat y.downSeen * 2 ^ 11 + bitNat y.retrySeen * 2 ^ 10)

def State.oeStatus (s : State) (k : Nat) : U32 :=
  if !(s.half (berthHalf (16 * k))).started then 0
  else (if s.tide.running then (s.oe k).mirror else s.oeNow k) ||| BitVec.ofNat 32 (bitNat (s.oe k).failoverSeen * 2 ^ 11)

/-- Step 3: the mirrors take their values. -/
def State.mirrorLanes (s : State) : State :=
  { s with
    berths := (List.range 260).foldl (fun t b => if (Tab.get? s.berths b).isSome then Tab.upd {} t b (fun y => { y with mirror := s.berthNow b }) else t)
      s.berths
    oes := (List.range 16).foldl (fun t k => if (Tab.get? s.oes k).isSome then Tab.upd {} t k (fun o => { o with mirror := s.oeNow k }) else t) s.oes }

/-! ## Registers of the tide block (02 Tables 2-5 to 2-13) -/

/-- TIDE_STATUS (02 Table 2-8). -/
def State.tideStatus (s : State) : U32 :=
  let t := s.tide
  BitVec.ofNat 32 (t.refPhase % 10 * 2 ^ 24 + (if t.running then t.cfg.mode.toNat else 0) * 2 ^ 12 + bitNat t.running * 2 ^ 11
    + bitNat t.holdover * 2 ^ 10 + bitNat t.skewNow * 2 ^ 9 + bitNat t.mismatch * 2 ^ 6 + bitNat t.overrun * 2 ^ 5 + bitNat t.slip * 2 ^ 4
    + bitNat t.inLost * 2 ^ 3 + bitNat t.holdEntered * 2 ^ 2 + bitNat t.skewHigh * 2 + bitNat t.stepped)

/-- Is a stream's Manifest change pending (05 R120)? -/
def StreamSt.armed (x : StreamSt) : Bool :=
  x.pCreate.isSome || x.pArm.isSome || x.pCommit || x.pTeardown || x.pAbortCmd || x.pNoise.isSome

/-- Does a stream do work in a half: a leaf, its root or its home? -/
def StreamSt.inHalf (x : StreamSt) (h : Half) : Bool :=
  ((x.cfg.toList) ++ x.pCreate.toList).any (fun m => m.inHalf h || m.home == h)

/-- Is a Manifest change of a stream armed for boundary t? A run that goes LIVE later is not armed yet (as 08 R229 has it for Charts; log
entry 51). -/
def StreamSt.armedAt (x : StreamSt) (t : TideNo) : Bool :=
  x.pCreate.isSome || x.pArm.any (fun a => tideReached t a.1) || x.pCommit || x.pTeardown || x.pAbortCmd || x.pNoise.isSome

/-- Is a swap withheld in some half that carries traffic? -/
def State.heldAny (s : State) : Bool := [Half.east, Half.west].any (fun h => (s.half h).started && s.withheld h)

/-- Are the Manifest changes of a stream withheld: is a half in which it does work? -/
def State.heldStream (s : State) (x : StreamSt) : Bool :=
  [Half.east, Half.west].any (fun h => (s.half h).started && x.inHalf h && s.withheld h)

/-- The shadow sets of Table 1-4 that are armed in a half for boundary t, each with whether it would be withheld now (01 R18, R19). A
Chart and a recipe image are one set for both halves (log entry 51). -/
def State.armedSets (s : State) (t : TideNo) (h : Half) : List Bool :=
  if !(s.half h).started then []
  else
    (if s.chart.armed then [s.heldAny] else []) ++ (if (s.half h).tmArmed then [s.withheld h] else [])
      ++ (if s.jobs.any (fun e => !e.2.imgArmed.isEmpty || !e.2.pUnload.isEmpty) then [s.heldAny] else [])
      ++ (s.shards.filter (fun e => e.2.pCfg.isSome && e.2.half == h)).map (fun _ => s.withheld h)
      ++ (s.streams.filter (fun e => e.2.armedAt t && e.2.inHalf h)).map (fun e => s.heldStream e.2)
      ++ (s.mbox.xferDone.filter (fun i => match Tab.get? s.mbox.xfers i with
        | some (.tileWrite k _ _) => tileHalf k == h
        | _ => false)).map (fun _ => s.withheld h)

/-- Has a half an armed shadow set now (02 R56)? -/
def State.armedIn (s : State) (h : Half) : Bool := !(s.armedSets (s.now + 1) h).isEmpty

/-- SWAP_STATUS (02 Table 2-10). -/
def State.swapStatus (s : State) : U32 :=
  let t := s.tide
  BitVec.ofNat 32 (bitNat t.withheldW * 2 ^ 5 + bitNat t.withheldE * 2 ^ 4 + bitNat t.swappedW * 2 ^ 3 + bitNat t.swappedE * 2 ^ 2
    + bitNat (s.armedIn .west) * 2 + bitNat (s.armedIn .east))

/-- Clear the W1C bits of TIDE_STATUS. -/
def TideSt.clearStatus (t : TideSt) (v : U32) : TideSt :=
  { t with
    mismatch := t.mismatch && !v.getLsbD 6
    overrun := t.overrun && !v.getLsbD 5
    slip := t.slip && !v.getLsbD 4
    inLost := t.inLost && !v.getLsbD 3
    holdEntered := t.holdEntered && !v.getLsbD 2
    skewHigh := t.skewHigh && !v.getLsbD 1 }

/-- Clear the W1C bits of SWAP_STATUS. -/
def TideSt.clearSwap (t : TideSt) (v : U32) : TideSt :=
  { t with
    withheldW := t.withheldW && !v.getLsbD 5
    withheldE := t.withheldE && !v.getLsbD 4 }

/-! ## Registers of the fault block (13 Tables 13-1 to 13-11) -/

/-- Is SAFE_N asserted: until the first boundary, while a half or the package is in the safe state, and while a half restarts (13
R352, 15 R388, R403)? -/
def State.safeNOn (s : State) : Bool := s.boot.safeN || s.east.safe || s.west.safe || s.fault.pkgSafe || s.east.restart != 0 || s.west.restart != 0

/-- SAFE_STATUS (13 Table 13-9). -/
def State.safeStatus (s : State) : U32 :=
  let f := s.fault
  let forced := (f.force.getLsbD 0 && f.pkgSafe) || (f.force.getLsbD 1 && s.east.safe) || (f.force.getLsbD 2 && s.west.safe)
  BitVec.ofNat 32 (min 255 (f.recs.countP (fun r => r.isOpen && r.cls == 2)) * 2 ^ 16 + bitNat (f.therm && !f.hot.isEmpty) * 2 ^ 7
    + bitNat f.faultN * 2 ^ 6 + bitNat s.safeNOn * 2 ^ 5 + bitNat forced * 2 ^ 4 + bitNat (s.berths.any (fun e => e.2.safe)) * 2 ^ 3
    + bitNat s.west.safe * 2 ^ 2 + bitNat s.east.safe * 2 + bitNat f.pkgSafe)

/-- SAFE_BERTHS[i] (13 Table 13-10). -/
def State.safeBerths (s : State) (i : Nat) : U32 :=
  BitVec.ofNat 32 (((List.range 32).map (fun j => bitNat (decide (32 * i + j < 260) && (s.berth (32 * i + j)).safe) * 2 ^ j)).sum)

/-- The W1C bits of a half's Lighthouse word and of the package fault word. -/
def lightMask (h : Half) : U64 :=
  match h with
  | .east => 0x0003_DFFF_FFFF_FFFF
  | .west => 0x0003_FFFF_FFFF_FFFF

def pkgMask : U64 := 0x0000_0000_1FFF_01FF

/-- What a write of one 32-bit half of a 64-bit word clears. -/
def clearWord (w mask : U64) (hi : Bool) (v : U32) : U64 :=
  w &&& ~~~(mask &&& (if hi then BitVec.ofNat 64 (v.toNat * 2 ^ 32) else BitVec.ofNat 64 v.toNat))

/-! ## BOOT_STATUS (15 Table 15-4) -/

/-- Is a half in service: started, its Quay trained, and not restarting? -/
def HalfSt.inUse (x : HalfSt) : Bool := x.started && x.trained && x.restart == 0

/-- Has stage 10 what it waits for: a SELF section and every berth's plan (15 R395)? -/
def State.chartReady (s : State) : Bool :=
  s.chart.slot0.hasSelf && (List.range 260).all (fun b => (Tab.get? s.chart.plan b).isSome)

/-- Has stage 12 its settings: a mode, and every started half's free store (15 R398)? -/
def State.tideReady (s : State) : Bool := s.tide.cfg.mode != 0 && [s.east, s.west].all (fun x => !x.started || x.pool.built)

/-- Does BOOT_STATUS show WAIT_CONFIG: stage 10 or 12 waits for settings? -/
def State.waitConfig (s : State) : Bool := (s.boot.stage == 10 && !s.chartReady) || (s.boot.stage == 12 && !s.tideReady)

/-- BOOT_STATUS. -/
def State.bootStatus (s : State) : U32 :=
  let b := s.boot
  BitVec.ofNat 32 (b.stage.toNat * 2 ^ 24 + b.fail.toNat * 2 ^ 16 + bitNat s.waitConfig * 2 ^ 12 + bitNat b.westUp * 2 ^ 11
    + bitNat b.eastUp * 2 ^ 10 + bitNat b.hostImage * 2 ^ 9 + bitNat b.bank * 2 ^ 8 + bitNat b.block.isSome * 2 ^ 3 + bitNat b.degraded * 2 ^ 2
    + bitNat b.waitHost * 2 + bitNat b.failed)

/-! ## Access to the BAR (12 R314 to R320) -/

/-- Does the port of an identity reach the BAR now? The host port needs its link and does not answer in ANCHOR (14 R379); a
deputy needs its half; 0xF is no identity of a port. -/
def State.portOk (s : State) (who : BitVec 4) : Bool :=
  s.boot.resetN && s.sec.power != 3 && (match who.toNat with
    | 13 => s.east.inUse && s.sec.power != 2
    | 14 => s.west.inUse && s.sec.power != 2
    | 15 => false
    | n => if n < 8 then s.boot.hostPort && s.sec.power != 2 else true)

/-- TIDE_NOW_LO_READ: the read captures TIDE_NOW_HI and TIDE_CYCLE; all three read 0 before the first tide. -/
def execTideNowLoRead (who : BitVec 4) (cyc : Nat) (s : State) : Host.Outcome State Fault Refusal :=
  if !s.portOk who then .next s
  else if s.tide.running then
    let n := s.now.toNat
    .next ((s.modTide (fun t => { t with capHi := BitVec.ofNat 16 (n / 2 ^ 32), capCycle := BitVec.ofNat 12 (min cyc 4095) })).answer
      who.toNat [BitVec.ofNat 32 n])
  else .next ((s.modTide (fun t => { t with capHi := 0, capCycle := 0 })).answer who.toNat [0])

/-- FAULT_WORD_READ: a read of a _LO register captures its _HI register (13 R343). -/
def execFaultWordRead (who : BitVec 4) (word : Fin 3) (s : State) : Host.Outcome State Fault Refusal :=
  let lo := fun (w : U64) => [BitVec.ofNat 32 w.toNat]
  let hi := fun (w : U64) => BitVec.ofNat 32 (w.toNat / 2 ^ 32)
  if !s.portOk who then .next s
  else match word with
  | 0 =>
    let w := s.lighthouse .east
    .next ((s.modHalf .east (fun x => { x with lightCap := hi w })).answer who.toNat (lo w))
  | 1 =>
    let w := s.lighthouse .west
    .next ((s.modHalf .west (fun x => { x with lightCap := hi w })).answer who.toNat (lo w))
  | _ =>
    let w := s.pkgWord
    .next ((s.modFault (fun f => { f with pkgCap := hi w })).answer who.toNat (lo w))

/-- MB_CTRL[c] as read. -/
def ChanSt.ctrl (c : ChanSt) : U32 :=
  BitVec.ofNat 32 (bitNat c.rejected * 2 ^ 19 + bitNat c.aborted * 2 ^ 18 + bitNat c.full * 2 ^ 17 + c.len.toNat)

/-- MB_BIND[c]. -/
def ChanSt.bindWord (c : ChanSt) : U32 :=
  match c.bind with
  | some b => BitVec.ofNat 32 (256 + b.send.toNat * 16 + b.recv.toNat)
  | none => 0

/-- A word with a bit for each of 32 channels from a base. -/
def chanMask (base : Nat) (f : Nat → Bool) : U32 := BitVec.ofNat 32 (((List.range 32).map (fun i => bitNat (f (base + i)) * 2 ^ i)).sum)

/-- The 4 bytes of a slot word as an identity reads them, and whether the read is refused (12 R317, R318). -/
def State.readSlot (s : State) (who : BitVec 4) (ch off : Nat) : U32 × Bool :=
  let w := BitVec.ofNat 32 (leNat (s.mbox.slots.readBytes (4096 * ch + off) 4))
  if s.isSender ch who then (w, false)
  else if s.isReceiver ch who then (if (s.chan ch).full then w else 0, false)
  else (0, true)

/-- A register outside the slots whose read changes nothing. -/
def State.readWord (s : State) (who : BitVec 4) (off : Nat) : U32 :=
  let o := off - 0x40000
  let t := s.tide
  if off < 0x40000 then 0
  else if o < 0x100 then (s.chan (o / 4)).ctrl
  else if o = 0x100 ∨ o = 0x104 then chanMask (8 * (o - 0x100)) (fun c => (s.chan c).full && s.isReceiver c who)
  else if o = 0x108 ∨ o = 0x10C then chanMask (8 * (o - 0x108)) (fun c => !(s.chan c).full && s.isSender c who)
  else if o = 0x110 ∨ o = 0x114 then chanMask (8 * (o - 0x110)) (fun c => (s.chan c).aborted && s.isSender c who)
  else if 0x200 ≤ o ∧ o < 0x300 then (s.chan ((o - 0x200) / 4)).bindWord
  else if o = 0x300 then BitVec.ofNat 32 (bitNat s.mbox.locked * 2 ^ 9 + bitNat s.mbox.uciReady * 2 ^ 8 + who.toNat)
  else if o = 0x308 then s.mbox.fwId
  else if o = 0x30C then s.bootStatus
  else if o = 0x310 then s.boot.stageTime
  else if o = 0x2004 then BitVec.ofNat 32 t.capHi.toNat
  else if o = 0x2008 then BitVec.ofNat 32 t.capCycle.toNat
  else if o = 0x200C then s.tideStatus
  else if o = 0x2010 then BitVec.ofNat 32 (if t.cfg.mode = modeGenerate then t.skew.toNat else 0)
  else if o = 0x2014 then s.swapStatus
  else if o = 0x2018 then t.swapTide
  else if o = 0x201C then BitVec.ofNat 32 t.overruns
  else if o = 0x2020 then BitVec.ofNat 32 t.steps
  else if o = 0x3004 then s.east.lightCap
  else if o = 0x300C then s.west.lightCap
  else if o = 0x3014 then s.fault.pkgCap
  else if o = 0x3018 then s.safeStatus
  else if o = 0x301C then BitVec.ofNat 32 s.fault.force.toNat
  else if o = 0x3020 then BitVec.ofNat 32 (bitNat s.fault.eventsN * 2)
  else if o = 0x3024 then BitVec.ofNat 32 s.fault.head
  else if o = 0x3028 then BitVec.ofNat 32 s.fault.mgmt.toNat
  else if 0x3040 ≤ o ∧ o < 0x3064 then s.safeBerths ((o - 0x3040) / 4)
  else if 0x4000 ≤ o ∧ o < 0x4410 then s.berthStatus ((o - 0x4000) / 4)
  else if 0x4800 ≤ o ∧ o < 0x4840 then s.oeStatus ((o - 0x4800) / 4)
  else 0

/-- A read of TIDE_NOW_LO captures the rest (02 R55). Through a bus that tells no cycle the cycle is a free value (log entry
13). -/
def State.readTideLo (s : State) : State × U32 :=
  if s.tide.running then
    let (i, s) := s.freeIx
    let cyc := (Config.freeWord i).toNat % min s.tide.len 4096
    (s.modTide (fun t => { t with capHi := BitVec.ofNat 16 (s.now.toNat / 2 ^ 32), capCycle := BitVec.ofNat 12 cyc }), BitVec.ofNat 32 s.now.toNat)
  else (s.modTide (fun t => { t with capHi := 0, capCycle := 0 }), 0)

/-- Read one word: the state after it, the word, and whether the binding table refuses it (12 R314, R318). -/
def State.readReg (s : State) (who : BitVec 4) (off : Nat) : State × U32 × Bool :=
  let hi := fun (w : U64) => BitVec.ofNat 32 (w.toNat / 2 ^ 32)
  let lo := fun (w : U64) => BitVec.ofNat 32 w.toNat
  if off < 0x40000 then
    let (w, refused) := s.readSlot who (off / 4096) (off % 4096)
    (s, w, refused)
  else if off = 0x42000 then
    let (s, w) := s.readTideLo
    (s, w, false)
  else if off = 0x43000 then (s.modHalf .east (fun x => { x with lightCap := hi (s.lighthouse .east) }), lo (s.lighthouse .east), false)
  else if off = 0x43008 then (s.modHalf .west (fun x => { x with lightCap := hi (s.lighthouse .west) }), lo (s.lighthouse .west), false)
  else if off = 0x43010 then (s.modFault (fun f => { f with pkgCap := hi s.pkgWord }), lo s.pkgWord, false)
  else (s, s.readWord who off, false)

/-- A write of MB_CTRL; answers whether it is rejected (12 R316 to R318). -/
def State.writeCtrl (s : State) (who : BitVec 4) (ch : Nat) (v : U32) : State × Bool :=
  let c := s.chan ch
  let len := v.toNat % 2 ^ 13
  let door := v.getLsbD 16
  let rel := v.getLsbD 15
  if s.isSender ch who then
    if rel || (door && (c.full || len == 0 || decide (4096 < len))) then (s.modChan ch (fun c => { c with rejected := true }), true)
    else
      let c1 := { c with rejected := c.rejected && !v.getLsbD 19, aborted := c.aborted && !v.getLsbD 18 }
      (s.modChan ch (fun _ => if door then { c1 with full := true, len := BitVec.ofNat 13 len } else c1), false)
  else if s.isReceiver ch who then
    if door then (s, true) else (s.modChan ch (fun c => if rel then { c with full := false } else c), false)
  else (s, true)

/-- A write of bytes in a slot; answers whether it is rejected. -/
def State.writeSlot (s : State) (who : BitVec 4) (ch off : Nat) (bs : List Byte) : State × Bool :=
  if s.isSender ch who then
    if (s.chan ch).full then (s.modChan ch (fun c => { c with rejected := true }), true)
    else (s.modMbox (fun m => { m with slots := m.slots.writeBytes (4096 * ch + off) bs }), false)
  else (s, true)

/-- Write one register of the blocks that only privileged identities write (02 R55, 11 R303, 13 R343). -/
def State.writePriv (s : State) (who : BitVec 4) (o : Nat) (v : U32) : State :=
  let light := fun (h : Half) (hi : Bool) => s.modHalf h (fun x => { x with light := clearWord x.light (lightMask h) hi v })
  if o = 0x200C then s.modTide (fun t => t.clearStatus v)
  else if o = 0x2014 then s.modTide (fun t => t.clearSwap v)
  else if o = 0x3000 then light .east false
  else if o = 0x3004 then light .east true
  else if o = 0x3008 then light .west false
  else if o = 0x300C then light .west true
  else if o = 0x3010 then s.modFault (fun f => { f with pkg := clearWord f.pkg pkgMask false v })
  else if o = 0x3014 then s.modFault (fun f => { f with pkg := clearWord f.pkg pkgMask true v })
  else if o = 0x301C then
    ((List.range 3).filter (fun i => v.getLsbD i)).foldl (fun s i => s.forceSafe who i) s
  else if o = 0x3020 then
    s.modFault (fun f => { f with eventsN := v.getLsbD 1, faultN := f.faultN && !v.getLsbD 0 })
  else if 0x4000 ≤ o ∧ o < 0x4410 then
    s.modBerth ((o - 0x4000) / 4) (fun y => { y with stompSeen := y.stompSeen && !v.getLsbD 12, downSeen := y.downSeen && !v.getLsbD 11,
                                                      retrySeen := y.retrySeen && !v.getLsbD 10 })
  else if 0x4800 ≤ o ∧ o < 0x4840 then s.modOe ((o - 0x4800) / 4) (fun x => { x with failoverSeen := x.failoverSeen && !v.getLsbD 11 })
  else s

/-- Write one word: the state after it, and whether it is rejected (12 R314, R318). -/
def State.writeReg (s : State) (who : BitVec 4) (off : Nat) (v : U32) : State × Bool :=
  let o := off - 0x40000
  if off < 0x40000 then s.writeSlot who (off / 4096) (off % 4096) (leBytes 4 v.toNat)
  else if o < 0x100 then s.writeCtrl who (o / 4) v
  else if o = 0x304 then (if v.getLsbD 0 then s.receiverReset who else s, false)
  else if privileged who then (s.writePriv who o v, false)
  else (s, false)

/-- The bus error of a rejected write: on the host port a Completer Abort, recorded by the function (12 R318). The answers of
I3C and RGMII are those of their own commands. -/
def State.busError (s : State) (who : BitVec 4) (rejected : Bool) : State :=
  if rejected && decide (who.toNat < 8) then
    s.modMbox (fun m => { m with resp := some (.completerAbort who.toNat), aer := insertNew who.toNat m.aer })
  else s

/-! ## Commands on channels -/

/-- DOORBELL: the sender's write of MB_CTRL with DOORBELL 1 and LEN. -/
def execDoorbell (who : BitVec 4) (ch : Fin 64) (len : BitVec 13) (s : State) : Host.Outcome State Fault Refusal :=
  if !s.portOk who then .next s
  else
    let (s, r) := s.writeCtrl who ch.val (BitVec.ofNat 32 (2 ^ 16 + len.toNat))
    .next (s.busError who r)

/-- MB_CTRL_RELEASE: the receiver's write of MB_CTRL with RELEASE 1. -/
def execMbCtrlRelease (who : BitVec 4) (ch : Fin 64) (s : State) : Host.Outcome State Fault Refusal :=
  if !s.portOk who then .next s
  else
    let (s, r) := s.writeCtrl who ch.val (BitVec.ofNat 32 (2 ^ 15))
    .next (s.busError who r)

/-- Is a slot write one that the port can make: within the slot, of bytes on the host port up to 512 at once, and of whole
aligned words on I3C and RGMII (12 R314)? -/
def slotAccessOk (who : BitVec 4) (off n : Nat) : Bool :=
  decide (0 < n) && decide (off + n ≤ 4096) && (if who.toNat < 8 then decide (n ≤ 512)
    else if who = 8 ∨ who = 9 then off % 4 == 0 && n % 4 == 0 else true)

/-- MAILBOX_SLOT_WRITE. -/
def execMailboxSlotWrite (who : BitVec 4) (ch : Fin 64) (offset : BitVec 12) (data : List Byte) (s : State) :
    Host.Outcome State Fault Refusal :=
  if !s.portOk who || !slotAccessOk who offset.toNat data.length then .next s
  else
    let (s, r) := s.writeSlot who ch.val offset.toNat data
    .next (s.busError who r)

/-- SELF_RESET: a receiver reset of the writer. -/
def execSelfReset (who : BitVec 4) (s : State) : Host.Outcome State Fault Refusal :=
  if s.portOk who then .next (s.receiverReset who) else .next s

/-- REGISTER_WRITE: a write of one word at an aligned offset; any other is refused whole (12 R314). -/
def execRegisterWrite (who : BitVec 4) (offset : BitVec 20) (value : U32) (s : State) : Host.Outcome State Fault Refusal :=
  if !s.portOk who then .next s
  else if offset.toNat % 4 ≠ 0 then .next (s.busError who true)
  else
    let (s, r) := s.writeReg who offset.toNat value
    .next (s.busError who r)

/-- REPLY_PART: the reply channel of a command channel is free, and the next part of the reply is posted. -/
def execReplyPart (ch : Fin 64) (s : State) : Host.Outcome State Fault Refusal := .next (s.postPart ch.val)

/-! ## Transfers of movers (12 R331) -/

/-- The first tide in which a transfer can complete: it starts at the first boundary after acceptance. -/
def State.xferStarted (s : State) (id : Nat) : Bool :=
  match s.mbox.waiting.find? (fun w => w.what == Await.transfer id) with
  | some w => !s.tide.running || w.reply.accept != s.now
  | none => true

/-- The half of a Hold address: stacks 0 to 7 East (07 R171). -/
def holdHalfOf (addr : Nat) : Half := Half.ofNum (bitsOf addr 40 1)

/-- The writes of finished transfers reach the Hold and the Quay (12 R331). -/
def State.landWrites (s : State) : State :=
  s.mbox.landed.foldl (fun (s : State) x => match x with
    | .holdWrite job addr data => (s.holdWrite job addr data).noteRewrite job addr data.length
    | .quayWrite h addr data => s.modQuay h (fun m => m.writeBytes addr data)
    | _ => s) (s.modMbox (fun m => { m with landed := [] }))

/-- A transfer's write is done: the data plane sees it from the next boundary; without a tide there is none to wait for
(log entry 110). -/
def State.landWrite (s : State) (x : Xfer) : State :=
  let s := s.modMbox (fun m => { m with landed := m.landed ++ [x] })
  if s.tide.running then s else s.landWrites

/-- MOVER_TRANSFER_DONE: a transfer completes. In a half in the safe state Hold writes are discarded (13 R352); tile images wait
for the next boundary (04 R115). -/
def execMoverTransferDone (id : Nat) (s : State) : Host.Outcome State Fault Refusal :=
  if !s.xferStarted id then .next s
  else
    let done := fun (s : State) (body : List Byte) =>
      (s.modMbox (fun m => { m with xfers := Tab.erase m.xfers id })).finishWait (.transfer id) body
    match Tab.get? s.mbox.xfers id with
    | none => .next s
    | some (.holdWrite job addr data) =>
      .next (done (if s.halfSafe (holdHalfOf addr) then s else s.landWrite (.holdWrite job addr data)) [])
    | some (.holdRead job addr len) => .next (done s (s.holdRead job addr len))
    | some (.quayWrite h addr data) => .next (done (s.landWrite (.quayWrite h addr data)) [])
    | some (.quayRead h addr len) => .next (done s ((s.quay h).readBytes addr len))
    | some (.tileRead _ _ _) => .next s
    | some (.tileWrite _ _ _) => .next (s.modMbox (fun m => { m with xferDone := insertNew id m.xferDone }))

end Sys2Proof.Machine
end

