-- ==== Sys2Proof/Machine/Ports.lean ====
section
/-! DEFINITION. The electrical berths in Ethernet mode, the host port and its data rings, and the management ports I3C and RGMII (11
R304 to R313, 15 R390). -/

namespace Sys2Proof.Machine

/-! ## Ethernet mode (11 R306, R307) -/

/-- The berth of an LSX port. -/
def lsxBerth (lsx : Fin 4) : Nat := 256 + lsx.val

/-- A berth in Ethernet mode that sends and receives frames now. -/
def State.ethOn (s : State) (b : Nat) : Bool := (s.berth b).eth && (s.berth b).up

/-- The packet of a frame enters through the attach port as one from an endpoint (11 R306, 08 R213, R214). -/
def State.ethArrive (s : State) (b : Nat) (payload : List Byte) : State :=
  let h := berthHalf b
  let hd := Hdr.ofBytes (payload.take 64)
  let cw := mkCw 0 6 s.chart.epoch 0 false false 0 false
  match s.headFault h b cw hd true s.chart.epoch with
  | some k => s.bump k b
  | none =>
    let c := s.active
    let input := 128 + 8 * lsxEngine b + 4 + spreadIndex hd.spreadKey c.salt 4
    let (s, col, drop) := s.policePkt h input b hd.job 3 hd.cells
    if drop then s
    else
      let (pid, s) := s.fresh
      let bytes := putBirth payload 30 (s.now.toNat % 4096)
      let p : Pkt := {
        id := pid, input := input, origin := some b, attach := true, cw := cwWithColour cw col, payload := bytes, cells := hd.cells,
        crc := crc32 bytes, crcIn := crc32 payload, whole := true, crcOk := true, birthIn := field payload 30 2,
        key := (s.half h).resKey (some b) (creditKey (berthPort b) 6) hd.job }
      let s := s.modHalf h (fun x => { x with pkts := x.pkts ++ [p] })
      ((s.addCopies h pid hd (some b) (s.selfHalf hd h) none
        (s.targets c hd.spreadKey hd.mcast hd.dst hd.job 3 6 false none)).letIn h pid).storeCheck b

/-- ETHERNET_FRAME. -/
def execEthernetFrame (lsx : Fin 4) (f : EthFrame) (s : State) : Host.Outcome State Fault Refusal :=
  let b := lsxBerth lsx
  let y := s.berth b
  let hd := Hdr.ofBytes (f.payload.take 64)
  if !s.ethOn b then .next s
  else if s.berthSafe b then .next (s.bwDrop b ((f.payload.length + 63) / 64))
  else if !s.tide.running then .next s
  else if f.dstMac ≠ y.ownMac ∨ f.etherType ≠ y.etherType then .next (s.bump .ethDrop b)
  else if !f.fcsOk then .next (s.bump .crcBad b)
  else if 262144 < s.storeFill b + frameBytes f.payload.length then .next (s.bump .ethDrop b)
  else if hd.kind ≠ 6 ∨ f.payload.length ≠ 64 * (1 + hd.body) then .next (s.bump .hdrBad b)
  else .next (s.ethArrive b f.payload)

/-- PAUSE_FRAME: a nonzero time stops frames; time 0 lets them go. -/
def execPauseFrame (lsx : Fin 4) (quanta : U16) (s : State) : Host.Outcome State Fault Refusal :=
  let b := lsxBerth lsx
  if !s.ethOn b || s.berthSafe b then .next s else .next (s.modBerth b (fun y => { y with paused := quanta != 0 }))

/-- PAUSE_REPEAT: 8 tides after the last XOFF with the store above 64 KiB. -/
def execPauseRepeat (lsx : Fin 4) (s : State) : Host.Outcome State Fault Refusal :=
  let b := lsxBerth lsx
  match (s.berth b).xoffAt with
  | some t =>
    if s.ethOn b && tideReached s.now (t + 8) && decide (65536 < s.storeFill b) then
      .next (s.modBerth b (fun y => { y with xoffAt := some s.now, pauseTx := y.pauseTx ++ [0xFFFF] }))
    else .next s
  | none => .next s

/-- PAUSE_EXPIRY. Log entry 8. -/
def execPauseExpiry (lsx : Fin 4) (s : State) : Host.Outcome State Fault Refusal :=
  .next (s.modBerth (lsxBerth lsx) (fun y => { y with paused := false }))

/-! ## The host port (11 R308) -/

/-- What every function reports of itself (11 R308): the identifiers, the class code, and BAR0, a 64-bit non-prefetchable memory BAR of
1 MiB. -/
structure PciIdent where
  vendor : U16 := 0x1F4B
  device : U16 := 0x0909
  revision : Byte := 0x01
  subVendor : U16 := 0x1F4B
  subDevice : U16 := 0x0001
  classCode : BitVec 24 := 0x120000
  barBytes : Nat := 2 ^ 20
  payloadBytes : Nat := 512
  readBytes : Nat := 4096
deriving DecidableEq, Repr

/-- The same in every one of the eight functions. -/
def functionIdent (_f : Fin 8) : PciIdent := {}

/-! ## Data rings (11 R310, R311) -/

/-- Slots that the host has filled and the P9 has not fetched. -/
def RingSt.waiting (r : RingSt) : Nat := (r.txProd - r.txCons).toNat

/-- HOST_RING_POLL: the producer index, and the consumer index of the receive ring, as they stand in host memory. -/
def execHostRingPoll (f : Fin 8) (producer rxConsumer : U32) (s : State) : Host.Outcome State Fault Refusal :=
  match Tab.get? s.port.rings f.val with
  | some r =>
    if r.running && s.tide.running && s.portOk (BitVec.ofNat 4 f.val) && decide ((producer - r.txCons).toNat ≤ 2 ^ r.log2) then
      let r' := { r with txProd := producer, rxCons := if (r.rxProd - rxConsumer).toNat ≤ 2 ^ r.log2 then rxConsumer else r.rxCons }
      .next (s.modPort (fun p => { p with rings := Tab.set p.rings f.val r' }))
    else .next s
  | none => .next s

/-- A function's own address (08 Table 8-8). -/
def State.functionAddr (s : State) (f : Nat) : Nat := addrSwitch s.own * 4096 + f * 16 + 0xD

/-- May a function fetch n cells on a VC in this tide: the lowest live throttle level that masks it (10 R276, 11 R311)? -/
def RingSt.allows (r : RingSt) (vc n : Nat) : Bool :=
  r.limits.all (fun l => !l.mask.getLsbD vc ||
    decide ((((List.range 8).filter (fun v => l.mask.getLsbD v)).map (fun v => Tab.get 0 r.sentCells v)).sum + n ≤ l.level * 3764 / 256))

/-- The unit that a host function's drops are counted in: 260 and up, after the berths. -/
def hostUnit (f : Nat) : Nat := 260 + f

/-- Why a host packet is dropped, if it is. -/
def State.hostFault (s : State) (f : Nat) (hd : Hdr) (cells : Nat) : Option Ctr :=
  if cells < 2 ∨ 67 < cells ∨ cells ≠ hd.cells then some .hdrBad
  else if !hd.ok then some .hdrBad
  else if hd.src ≠ s.functionAddr f then some .srcBad
  else if (f ≠ 0 ∧ (s.job hd.job).owner.toNat ≠ f) ∨ (s.job hd.job).fenced = true then some .jobDenied
  else none

/-- A slot is consumed. -/
def State.slotDone (s : State) (f vc cells : Nat) : State :=
  s.modPort (fun p => { p with rings := p.rings.map (fun (e : Nat × RingSt) => if e.1 = f then
    (e.1, { e.2 with txCons := e.2.txCons + 1, sentCells := Tab.upd 0 e.2.sentCells vc (fun v => v + cells) }) else e) })

/-- HOST_SLOT_FETCH: a slot whose packet can be written whole into pallets is fetched. -/
def execHostSlotFetch (f : Fin 8) (slot : List Byte) (cells : U16) (s : State) : Host.Outcome State Fault Refusal :=
  match Tab.get? s.port.rings f.val with
  | none => .next s
  | some r =>
    let hd := Hdr.ofBytes (padTo 64 (slot.take 64))
    let vc := 2 * hd.tc 6
    if !r.running || r.waiting == 0 || !s.tide.running || !s.west.inUse || s.halfSafe .west || !s.portOk (BitVec.ofNat 4 f.val) then .next s
    else match s.hostFault f.val hd cells.toNat with
      | some k => .next ((s.bump k (hostUnit f.val)).slotDone f.val 0 0)
      | none =>
        if !r.allows vc hd.cells then .next s
        else
          let input := 128 + 8 * 17 + 4 + spreadIndex hd.spreadKey s.active.salt 4
          let s' := s.injectAs .west input true none hd ((slot.drop 64).take (64 * (hd.cells - 1))) false
          match s'.west.pkt? s.nextId with
          | some p => if p.waiting then .next s else .next (s'.slotDone f.val vc hd.cells)
          | none => .next (s'.slotDone f.val vc hd.cells)

/-! ## Resets of the host port -/

/-- Packets that are being written to the rings of some functions are dropped and counted (11 R309; log entry 104). -/
def State.dropHostWrites (s : State) (fs : Nat → Bool) : State :=
  s.west.pkts.foldl (fun s p => (p.copies.filter (fun c => c.left != p.cells)).foldl (fun s c => match c.dest with
    | .host f => if fs f then (s.bump .noRoute (hostUnit f)).dropCopy .west p.id c.order else s
    | _ => s) s) s

/-- FUNCTION_LEVEL_RESET. -/
def execFunctionLevelReset (f : Fin 8) (s : State) : Host.Outcome State Fault Refusal :=
  if !s.portOk (BitVec.ofNat 4 f.val) then .next s
  else
    .next (((s.dropHostWrites (fun g => g == f.val)).receiverReset (BitVec.ofNat 4 f.val)).modPort (fun p => { p with
      rings := p.rings.map (fun e => if e.1 = f.val then (e.1, { e.2 with running := false, limits := [] }) else e) }))

/-- The host port goes down: a receiver reset of the eight functions, whose rings stop (12 Table 12-5). -/
def State.hostPortDown (s : State) : State :=
  let s := (List.range 8).foldl (fun s f => s.receiverReset (BitVec.ofNat 4 f)) (s.dropHostWrites (fun _ => true))
  (s.modPort (fun p => { p with rings := p.rings.map (fun e => (e.1, { e.2 with running := false, limits := [] })) })).modBoot
    (fun b => { b with hostPort := false })

/-- PERST_N: an assertion, as a hot reset or a link going down, resets the host port only; its release starts the port once the
boot ROM has released its logic. It is not released while RESET_N is low (15 R388, R390). -/
def execPerstN (asserted : Bool) (s : State) : Host.Outcome State Fault Refusal :=
  if asserted then .next (s.hostPortDown.modBoot (fun b => { b with perstN := false }))
  else if !s.boot.resetN then .next s
  else .next (s.modBoot (fun b => { b with perstN := true, hostPort := decide (4 ≤ b.stage.toNat) && s.west.restart == 0 }))

/-! ## I3C (11 R312) -/

/-- Write words from an offset, ascending; answers whether one was rejected. -/
def State.writeWords (s : State) (who : BitVec 4) : Nat → List (List Byte) → State × Bool
  | _, [] => (s, false)
  | off, w :: ws =>
    let (s, r) := s.writeReg who off (BitVec.ofNat 32 (leNat w))
    let (s, rs) := s.writeWords who (off + 4) ws
    (s, r || rs)

/-- Read n words from an offset, ascending; answers whether one was refused. -/
def State.readWords (s : State) (who : BitVec 4) : Nat → Nat → State × List U32 × Bool
  | _, 0 => (s, [], false)
  | off, n + 1 =>
    let (s, w, r) := s.readReg who off
    let (s, ws, rs) := s.readWords who (off + 4) n
    (s, w :: ws, r || rs)

/-- The whole 32-bit words of some bytes. -/
def wholeWords (bs : List Byte) : List (List Byte) := (chunksOf 4 bs.length bs).filter (fun w => w.length == 4)

/-- I3C_PRIVATE_WRITE: a 4-byte offset sets the pointer, and further bytes write whole words from it (log entry 31: the pointer
moves past them). A rejected write is discarded (12 R318). -/
def execI3cPrivateWrite (bytes : List Byte) (s : State) : Host.Outcome State Fault Refusal :=
  if s.port.i3cAddr.isNone || !s.portOk 8 || decide (bytes.length < 4) then .next s
  else
    let off := leNat (bytes.take 4)
    let ws := if off % 4 = 0 then wholeWords (bytes.drop 4) else []
    let (s, _) := s.writeWords 8 off ws
    .next (s.modPort (fun p => { p with i3cPtr := BitVec.ofNat 32 (off + 4 * ws.length) }))

/-- I3C_PRIVATE_READ: words from the pointer; a refused read returns 0 (12 R318). -/
def execI3cPrivateRead (words : Nat) (s : State) : Host.Outcome State Fault Refusal :=
  if s.port.i3cAddr.isNone || !s.portOk 8 then .next s
  else
    let off := s.port.i3cPtr.toNat
    let (s, ws, _) := if off % 4 = 0 then s.readWords 8 off words else (s, List.replicate words 0, false)
    .next ((s.modPort (fun p => { p with i3cPtr := BitVec.ofNat 32 (off + 4 * words) })).answer 8 ws)

/-- ENTDAA: a target without a dynamic address takes one. -/
def execEntdaa (addr : BitVec 7) (s : State) : Host.Outcome State Fault Refusal :=
  if !s.portOk 8 then .next s
  else .next (s.modPort (fun p => { p with i3cAddr := match p.i3cAddr with
    | some a => some a
    | none => some addr }))

/-- RSTDAA: the dynamic address is given up, and the identity is reset. -/
def execRstdaa (s : State) : Host.Outcome State Fault Refusal :=
  if !s.portOk 8 then .next s
  else .next ((s.modPort (fun p => { p with i3cAddr := none })).receiverReset 8)

/-! ## RGMII (11 R313) -/

/-- Is a management frame well formed: an aligned offset, a length of whole words up to 1,024 B? -/
def rgmiiOk (offset : U32) (length : U16) : Bool :=
  offset.toNat % 4 == 0 && length.toNat % 4 == 0 && decide (length.toNat ≤ 1024)

/-- Answer on RGMII. -/
def State.rgmii (s : State) (r : BusResp) : State := s.modMbox (fun m => { m with resp := some r })

/-- RGMII_READ. -/
def execRgmiiRead (tag : Byte) (offset : U32) (length : U16) (s : State) : Host.Outcome State Fault Refusal :=
  if !s.portOk 9 then .next s
  else if !rgmiiOk offset length then .next (s.rgmii (.rgmiiError tag 1))
  else
    let (s, ws, refused) := s.readWords 9 offset.toNat (length.toNat / 4)
    .next (s.rgmii (if refused then .rgmiiError tag 2 else .rgmiiReply 0x81 tag ws))

/-- RGMII_WRITE. -/
def execRgmiiWrite (tag : Byte) (offset : U32) (length : U16) (data : List Byte) (s : State) : Host.Outcome State Fault Refusal :=
  if !s.portOk 9 then .next s
  else if !rgmiiOk offset length || data.length != length.toNat then .next (s.rgmii (.rgmiiError tag 1))
  else
    let (s, rejected) := s.writeWords 9 offset.toNat (wholeWords data)
    .next (s.rgmii (if rejected then .rgmiiError tag 2 else .rgmiiReply 0x82 tag []))

/-- RGMII_LINK_DOWN: down for 1 ms is a reset of the identity. -/
def execRgmiiLinkDown (ms : Nat) (s : State) : Host.Outcome State Fault Refusal :=
  if ms < 1 then .next s else .next (s.receiverReset 9)

end Sys2Proof.Machine
end

