-- ==== Sys2Proof/Machine/QuayView.lean ====
section
/-! DEFINITION. What the offsets of a half's Quay hold (01 Table 1-10): the Manifests as the bytes of 05 Table 5-1, Uzorik's area, and
the general area. -/

namespace Sys2Proof

/-- The configuration bytes 0x04 to 0x7F of a Manifest (05 Table 5-1, R5); the reserved ones read 0. -/
def ManifestCfg.bytes (m : ManifestCfg) : List Byte :=
  let b4 := fun (x : U32) => Machine.leBytes 4 x.toNat
  let b8 := fun (x : U64) => Machine.leBytes 8 x.toNat
  b4 m.opctl ++ b4 m.range ++ b4 m.elemCount ++ Machine.leBytes 2 m.outMult.toNat ++ Machine.leBytes 2 m.cOut.toNat ++ b4 m.bias ++ b4 m.clipLo
    ++ b4 m.clipHi ++ b4 m.indexStride ++ Machine.leBytes 2 m.mcastGroup.toNat ++ [m.members, m.slots] ++ b4 m.treeE ++ b4 m.treeW
    ++ b4 m.upAddr ++ b4 m.downAddr ++ b4 m.peers ++ b4 m.parentAddr ++ b8 m.rankmapAddr ++ b8 m.retainAddr ++ b8 m.spillAddr
    ++ b8 m.fuseAddr ++ b4 m.fuseDesc ++ b4 m.recipe ++ List.replicate 24 0

end Sys2Proof

namespace Sys2Proof.Machine

/-- The code of a stream state (05 Table 5-8). -/
def StreamState.code : StreamState → Nat
  | .free => 0
  | .idle => 1
  | .live => 2
  | .retaining => 3
  | .stopped => 4
  | .fencing => 5

/-- The COMPLETION word of a half's status with the other half's flags (05 Table 5-7, R144). -/
def completionWord (h o : StreamStat) : Nat :=
  h.lateRank.toNat * 2 ^ 24 + h.failChunk.toNat * 2 ^ 8 + bitNat (h.special || o.special) * 2 ^ 7 + bitNat (h.sat || o.sat) * 2 ^ 6
    + bitNat (h.resent || o.resent) * 2 ^ 5 + bitNat (h.remote || o.remote) * 2 ^ 4 + h.status.toNat

/-- The status and counter bytes 0x80 to 0xC7 that a half keeps (05 R116, Table 5-1). -/
def StreamStat.bytes (y : StreamStat) : List Byte :=
  leBytes 4 (completionWord y y) ++ leBytes 4 y.lostElem ++ leBytes 8 (y.lostMass % 2 ^ 64) ++ leBytes 8 y.armTide.toNat
    ++ leBytes 8 y.doneTide.toNat ++ leBytes 4 0 ++ leBytes 4 y.released ++ leBytes 4 y.accepted ++ leBytes 4 y.stale ++ leBytes 4 y.dup
    ++ leBytes 4 y.bad ++ leBytes 4 y.discarded ++ leBytes 4 y.resends ++ leBytes 4 y.spills ++ leBytes 4 y.misses

/-- The first 0xC8 bytes of Manifest slot n in a half's Quay (05 R116, R117): IDENT, the configuration, and the half's own counts. An
identifier without a Manifest shows configuration bytes of 0 (log entry 87). -/
def State.manifestBytes (s : State) (h : Half) (n : Nat) : List Byte :=
  let x := s.stream n
  leBytes 4 (x.state.code * 2 ^ 28 + x.gen.toNat * 2 ^ 20 + n) ++ ((x.cfg.map (fun m => m.bytes)).getD (List.replicate 124 0))
    ++ (match h with
      | .east => x.statE
      | .west => x.statW).bytes

/-- The byte at an offset of a half's Quay (01 Table 1-10). The P9's working bytes of a Manifest and Uzorik's area, whose layout the spec
does not give, read as the free value of index `free` (log entry 87). -/
def State.quayByte (s : State) (h : Half) (free off : Nat) : Byte :=
  if off < 0x1000_0000 then (s.manifestBytes h (off / 256)).getD (off % 256) (Config.freeByte free)
  else if off < 0x2000_0000 then Config.freeByte free
  else (s.quay h).read off

/-- A Quay word of 32 bits as a mover reads it; what of it is free is new at each read. -/
def State.peekWord (s : State) (h : Half) (off : Nat) : Nat × State :=
  (leNat ((List.range 4).map (fun i => s.quayByte h (s.freeCtr + i) (off + i))), { s with freeCtr := s.freeCtr + 4 })

end Sys2Proof.Machine
end

