-- ==== Sys2Proof/Machine/Security.lean ====
section
/-! DEFINITION. Attestation over SPDM, the TAP, keys and zeroization (14 R365 to R376, 11 R312, R313). -/

namespace Sys2Proof.Machine

/-! ## What the security core knows -/

/-- Bytes 0 to n - 1 of a bit vector, little-endian. -/
def bvBytes {w : Nat} (n : Nat) (x : BitVec w) : List Byte := leBytes n x.toNat

/-- The state word (14 R365, 12 Table 12-11). -/
def State.stateWord (s : State) : Nat :=
  s.sec.lifecycle.toNat + s.sec.dbg.toNat * 2 ^ 8 + s.sec.power.toNat * 2 ^ 16 + bitNat s.sec.primaryB * 2 ^ 24

/-- Does the part hold an identity key: in PROVISIONED and FIELD (14 Table 14-7)? -/
def SecSt.identity (x : SecSt) : Bool := x.idKey && (x.lifecycle == 2 || x.lifecycle == 3)

/-- SVN of the running image. -/
def BootSt.svn (b : BootSt) : Nat := ((b.image.map (fun (i : ImageInfo) => i.svn)).getD 0).toNat

/-- SHA-384 of the running image. -/
def BootSt.imageDigest (b : BootSt) : BitVec 384 := (b.image.map (fun (i : ImageInfo) => i.digest)).getD 0

/-- SHA-384 of the configuration block: 0 with none accepted. -/
def BootSt.configDigest (b : BootSt) : BitVec 384 := (b.block.map (fun (c : ConfigBlock) => c.digest)).getD 0

/-- A repair log entry less its signature (13 Table 13-16). -/
def RepairEntry.head (e : RepairEntry) : List Byte :=
  leBytes 4 e.seq ++ leBytes 4 e.boot ++ leBytes 8 e.tide.toNat ++ leBytes 1 e.kind ++ leBytes 1 e.unit ++ leBytes 2 e.index
    ++ leBytes 8 e.addr ++ leBytes 2 e.source.toNat ++ leBytes 2 0

/-- The kinds of keys that sign: 1 Kethito root, 2 Kethito debug, 3 owner, 4 device identity, 5 repair log. -/
def keyRoot : Nat := 1
def keyDebug : Nat := 2
def keyOwner : Nat := 3
def keyIdentity : Nat := 4
def keyRepair : Nat := 5

/-- The 128 bytes of a repair log entry. -/
def RepairEntry.bytes (e : RepairEntry) : List Byte := e.head ++ bvBytes 96 (Config.ecdsaSign keyRepair e.head e.seq)

/-! ## SPDM (14 R373) -/

/-- Does the port of a request answer: DOE with function 0, RGMII with its own identity? -/
def State.spdmPort (s : State) : SpdmPort → Bool
  | .doe => s.portOk 0
  | .rgmii _ => s.portOk 9

/-- Answer a request. -/
def State.spdmAnswer (s : State) (p : SpdmPort) (r : BusResp) : State := if s.spdmPort p then s.rgmii r else s

/-- The response and error codes of SPDM 1.3 (log entry 32: PRESUMED, from the standard that R373 names). -/
def spdmVersion : Byte := 0x04
def spdmCapabilities : Byte := 0x61
def spdmAlgorithms : Byte := 0x63
def spdmDigests : Byte := 0x01
def spdmCertificate : Byte := 0x02
def spdmInvalid : Byte := 0x01
def spdmUnsupported : Byte := 0x07

/-- GET_VERSION: 1.3 only. -/
def execGetVersion (p : SpdmPort) (s : State) : Host.Outcome State Fault Refusal :=
  .next (s.spdmAnswer p (.spdm p spdmVersion [0x00, 0x13]))

/-- GET_CAPABILITIES: certificates, challenges and signed measurements. -/
def execGetCapabilities (p : SpdmPort) (s : State) : Host.Outcome State Fault Refusal :=
  .next (s.spdmAnswer p (.spdm p spdmCapabilities (leBytes 4 0x16)))

/-- NEGOTIATE_ALGORITHMS: of those offered, ECDSA with P-384, and SHA-384. -/
def execNegotiateAlgorithms (p : SpdmPort) (asym hash : U32) (s : State) : Host.Outcome State Fault Refusal :=
  .next (s.spdmAnswer p (.spdm p spdmAlgorithms (leBytes 4 (asym &&& 0x80).toNat ++ leBytes 4 (hash &&& 2).toNat)))

/-- GET_DIGESTS: of slot 0. -/
def execGetDigests (p : SpdmPort) (s : State) : Host.Outcome State Fault Refusal :=
  .next (s.spdmAnswer p (.spdm p spdmDigests (bvBytes 48 (Config.sha384 Config.certChain))))

/-- GET_CERTIFICATE: a part of the chain of slot 0, with the length of the part and of what remains. -/
def execGetCertificate (p : SpdmPort) (slot : Byte) (offset length : U16) (s : State) : Host.Outcome State Fault Refusal :=
  let chain := Config.certChain
  if slot ≠ 0 ∨ chain.length ≤ offset.toNat then .next (s.spdmAnswer p (.spdmError p spdmInvalid))
  else
    let part := (chain.drop offset.toNat).take length.toNat
    .next (s.spdmAnswer p (.spdm p spdmCertificate
      (leBytes 2 part.length ++ leBytes 2 (chain.length - offset.toNat - part.length) ++ part)))

/-- CHALLENGE: signed with the device identity key, which FACTORY and RETURNED parts do not have. -/
def execChallenge (p : SpdmPort) (slot : Byte) (nonce : BitVec 256) (s : State) : Host.Outcome State Fault Refusal :=
  if !s.spdmPort p then .next s
  else if !s.sec.identity then .next (s.rgmii (.spdmError p spdmUnsupported))
  else if slot ≠ 0 then .next (s.rgmii (.spdmError p spdmInvalid))
  else
    let (i, s) := s.freeIx
    .next (s.rgmii (.dataObject p [] (some (Config.ecdsaSign keyIdentity (bvBytes 32 nonce) i))))

/-- A measurement by its index. -/
def State.measurement (s : State) : Nat → List Byte
  | 1 => (List.range 4).map Config.versionByte
  | 2 => bvBytes 48 s.boot.imageDigest
  | 3 => bvBytes 48 s.boot.configDigest
  | 4 => leBytes 4 s.stateWord
  | 5 => bvBytes 48 (Config.sha384 (Config.repairMap ++ s.fault.log.flatMap RepairEntry.bytes))
  | 6 => leBytes 4 s.boot.svn ++ leBytes 4 s.sec.minSvn.toNat
  | _ => []

/-- GET_MEASUREMENTS: one of indices 1 to 6, or with 0xFF all of them. -/
def execGetMeasurements (p : SpdmPort) (index : Byte) (signed : Bool) (nonce : BitVec 256) (s : State) :
    Host.Outcome State Fault Refusal :=
  let ixs := if index = 0xFF then [1, 2, 3, 4, 5, 6] else if 1 ≤ index ∧ index ≤ 6 then [index.toNat] else []
  if !s.spdmPort p then .next s
  else if signed && !s.sec.identity then .next (s.rgmii (.spdmError p spdmUnsupported))
  else if ixs.isEmpty then .next (s.rgmii (.spdmError p spdmInvalid))
  else
    let ms := ixs.map (fun i => (BitVec.ofNat 8 i, s.measurement i))
    if signed then
      let (i, s) := s.freeIx
      .next (s.rgmii (.dataObject p ms (some (Config.ecdsaSign keyIdentity (bvBytes 32 nonce ++ ms.flatMap (fun e => e.1 :: e.2)) i))))
    else .next (s.rgmii (.dataObject p ms none))

/-! ## The TAP (11 R312, R313, 14 R370) -/

/-- Does the TAP answer: in every power state but OFF (11 R312)? -/
def State.tapOn (s : State) : Bool := s.sec.power != 3

/-- Is an instruction beyond Table 11-10 answered: at this debug state or above (14 Table 14-3)? -/
def State.debugAt (s : State) (level : Byte) : Bool := s.tapOn && decide (level ≤ s.sec.dbg)

/-- The bits of a number, least significant first. -/
def bitsLsb (n x : Nat) : List Bool := (List.range n).map (fun i => bitOf x i)

/-- Load an instruction and what it shifts out. -/
def State.tapShift (s : State) (ir : Byte) (out : List Bool) : State := s.modTap (fun t => { t with ir := ir, tdo := out })

/-- What a capture of the boundary cells shows. -/
def State.capture (s : State) (n : Nat) : List Bool × State :=
  let (i, s) := s.freeIx
  ((List.range n).map (fun k => Config.scanBit i k), s)

/-- BYPASS. -/
def execBypass (s : State) : Host.Outcome State Fault Refusal := if s.tapOn then .next (s.tapShift 0 [false]) else .next s

/-- IDCODE: 0x1950_99CB. -/
def execIdcode (s : State) : Host.Outcome State Fault Refusal :=
  if s.tapOn then .next (s.tapShift 1 (bitsLsb 32 0x195099CB)) else .next s

/-- SAMPLE/PRELOAD: the low-speed balls are captured, and the cells are loaded. -/
def execSamplePreload (scanIn : List Bool) (s : State) : Host.Outcome State Fault Refusal :=
  if !s.tapOn then .next s
  else
    let (out, s) := s.capture scanIn.length
    .next ((s.tapShift 2 out).modTap (fun t => { t with boundary := scanIn }))

/-- EXTEST: as SAMPLE/PRELOAD, with the balls driven by the cells. -/
def execExtest (scanIn : List Bool) (s : State) : Host.Outcome State Fault Refusal :=
  if !s.tapOn then .next s
  else
    let (out, s) := s.capture scanIn.length
    .next ((s.tapShift 3 out).modTap (fun t => { t with boundary := scanIn }))

/-- HIGHZ. -/
def execHighz (s : State) : Host.Outcome State Fault Refusal := if s.tapOn then .next (s.tapShift 4 [false]) else .next s

/-- CLAMP. -/
def execClamp (s : State) : Host.Outcome State Fault Refusal := if s.tapOn then .next (s.tapShift 5 [false]) else .next s

/-- Free bits shifted out by an access to logic that the spec does not lay out. -/
def State.tapFree (s : State) (ir : Byte) : State :=
  let (i, s) := s.freeIx
  s.tapShift ir (Config.scanData i)

/-- Halt or resume a core pair or deputy: 0 and 1 the pairs, 2 and 3 the deputies. -/
def State.haltCore (s : State) (i : Nat) (halt : Bool) : State :=
  s.modSec (fun x => { x with halted := if halt then insertNew i x.halted else x.halted.filter (fun j => j != i) })

/-- DEBUG_HM: halt or resume a Harbour Master pair, and look into it. -/
def execDebugHm (p : Fin 2) (halt : Bool) (s : State) : Host.Outcome State Fault Refusal :=
  if s.debugAt 1 then .next ((s.haltCore p.val halt).tapFree 0x10) else .next s

/-- DEBUG_DEP: the same of a deputy; in ANCHOR the halves are out of reach. -/
def execDebugDep (h : Half) (halt : Bool) (s : State) : Host.Outcome State Fault Refusal :=
  if s.debugAt 1 && s.sec.power != 2 then .next ((s.haltCore (2 + h.num) halt).tapFree 0x11) else .next s

/-- SCAN_HALF. -/
def execScanHalf (_h : Half) (s : State) : Host.Outcome State Fault Refusal :=
  if s.debugAt 1 && s.sec.power != 2 then .next (s.tapFree 0x12) else .next s

/-- MEM_PEEK: a Quay word of 32 bits (log entry 33: the width of one access), read through a mover, of any area of the Quay map. -/
def execMemPeek (h : Half) (offset : BitVec 33) (s : State) : Host.Outcome State Fault Refusal :=
  if s.debugAt 1 && s.sec.power != 2 then
    let (w, s) := s.peekWord h offset.toNat
    .next (s.tapShift 0x13 (bitsLsb 32 w))
  else .next s

/-- FACTORY-OPEN, which exists only in FACTORY (14 R368, R370). -/
def State.factoryOpen (s : State) : Bool := s.debugAt 2 && s.sec.lifecycle == 1

/-- FAULT_INJ: the error line of a source is forced (13 R364). -/
def execFaultInj (source : U16) (s : State) : Host.Outcome State Fault Refusal :=
  let n := source.toNat
  if !s.factoryOpen || (srcInfo n).isNone then .next s
  else
    let s := s.modTap (fun t => { t with ir := 0x20, tdo := [], injected := t.injected ++ [n] })
    if n < 0x80 then .next (s.raiseLine (Half.ofNum (n / 64)) (n % 64))
    else if n < 0xC0 then .next (s.raisePkg (n - 0x80))
    else
      let bit := BitVec.ofNat 9 (2 ^ (n - 0x100))
      .next (s.modFault (fun f => { f with mgmt := f.mgmt ||| bit, pMgmt := f.pMgmt ||| bit }))

/-- OTP_PROG: bits of an OTP word are burnt; none is ever cleared. The spec places no field at an address, so what the
other fields of the state hold of the OTP stays (log entry 33). -/
def execOtpProg (addr : U16) (value : U32) (s : State) : Host.Outcome State Fault Refusal :=
  if s.factoryOpen then
    .next ((s.tapShift 0x21 []).modSec (fun x => { x with otp := Tab.upd 0 x.otp addr.toNat (fun w => w ||| value) }))
  else .next s

/-- SEC_DEBUG. -/
def execSecDebug (s : State) : Host.Outcome State Fault Refusal := if s.factoryOpen then .next (s.tapFree 0x22) else .next s

/-- TRST_N: the TAP is reset (16 R417). -/
def execTrstN (s : State) : Host.Outcome State Fault Refusal := .next { s with tap := {} }

/-- NONCE_EXPIRY: 10 s after its challenge. Log entry 8. -/
def execNonceExpiry (s : State) : Host.Outcome State Fault Refusal := .next (s.modSec (fun x => { x with nonce := none }))

/-! ## Keys and zeroization (07 R173, 14 R372 to R376) -/

/-- Draw a job's keys: contents written under others read as free values from now on. -/
def State.drawKeys (s : State) (j : Nat) : State :=
  let e := s.sec.keySerial
  (s.modSec (fun x => { x with keySerial := e + 1 })).modJob j (fun x => { x with keyEpoch := some e })

/-- Destroy a job's keys. -/
def State.destroyKeys (s : State) (j : Nat) : State := s.modJob j (fun x => { x with keyEpoch := none })

/-- Destroy every job's keys. -/
def State.destroyAllKeys (s : State) : State := { s with jobs := Tab.mapV s.jobs (fun _ x => { x with keyEpoch := none }) }

/-- Is a job in the scope of a zeroization? -/
def ZeroSt.covers (z : ZeroSt) (j : Nat) : Bool :=
  match z.job with
  | none => true
  | some k => k == j

/-- The jobs in scope. -/
def ZeroSt.jobs (z : ZeroSt) : List Nat := (List.range 64).filter (fun j => z.covers j)

/-- Remove the streams and shards of a zeroization's jobs: their Manifests and records read FREE, their images are unloaded,
their chunk slots cleared, and their granules given back (log entry 34 for a single job). -/
def State.zeroFree (s : State) (z : ZeroSt) : State :=
  let gone := (s.streams.filter (fun e => e.2.cfg.any (fun m => z.covers m.job))).map (fun e => e.1)
  let slotGone := fun (c : ChunkSlot) => decide (c.sid ∈ gone)
  let s := s.modHalves (fun _ x => { x with mcache := { x.mcache with held := x.mcache.held.filter (fun n => n ∉ gone), pinned := x.mcache.pinned.filter (fun n => n ∉ gone), fetching := x.mcache.fetching.filter (fun n => n ∉ gone) } })
  let s : State := { s with
    streams := s.streams.map (fun e => if e.1 ∈ gone then (e.1, { gen := e.2.gen, home := e.2.home, statE := e.2.statE, statW := e.2.statW, genEnds := e.2.genEnds }) else e)
    shards := s.shards.filter (fun e => !z.covers e.2.job)
    tiles := Tab.mapV s.tiles (fun _ t =>
      if z.job.isNone then { t with windows := [], exact := [], rows := [], slots := [], cells := [] }
      else
        let keys := (t.slots.filter (fun e => slotGone e.2)).map (fun e => e.1)
        let lost := fun (k : Nat) => decide (k / 4096 ∈ keys)
        { t with windows := t.windows.filter (fun e => !lost e.1), exact := t.exact.filter (fun e => !lost e.1),
                 rows := t.rows.filter (fun e => !lost e.1), slots := t.slots.filter (fun e => !slotGone e.2),
                 cells := t.cells.filter (fun c => c.sid ∉ gone) }) }
  z.jobs.foldl (fun s j => s.modJob j (fun x => { x with
    keyEpoch := none, granules := [], images := [], imageBad := [], loading := [], imgArmed := [], pUnload := [], params := [],
    pParams := [], retired := none, closed := [], pClose := [], outstanding := [] })) s

/-- Overwrite with zeros what a zeroization covers: the Hold granules named, and the jobs' Quay ranges; a full one all of both
(14 Table 14-5). -/
def State.zeroFill (s : State) (z : ZeroSt) : State :=
  match z.job with
  | none => { s with hold := [], holdEpoch := [], quayE := [], quayW := [] }
  | some j =>
    let x := s.job j
    let inG := fun (a : Nat) => z.granules.any (fun r => decide (r.1 ≤ granuleOf a ∧ granuleOf a < r.1 + r.2))
    let clear := fun (q : Option (Nat × Nat)) (m : Mem) => match q with
      | some (b, n) => Mem.zeroRange m b n
      | none => m
    { s with
      hold := s.hold.filter (fun c => !inG c.1)
      holdEpoch := s.holdEpoch.filter (fun c => !inG c.1)
      quayE := clear x.quayE s.quayE
      quayW := clear x.quayW s.quayW }

/-- Close or open debug; closing resumes halted cores (14 R371). -/
def State.setDebug (s : State) (d : Byte) : State :=
  s.modSec (fun x => { x with dbg := d, halted := if d = 0 then [] else x.halted })

/-- A lifecycle change and its effects (14 Table 14-2). -/
def State.setLifecycle (s : State) (target : Byte) : State :=
  match target.toNat with
  | 2 => (s.setDebug 0).modSec (fun x => { x with lifecycle := 2, idKey := true, logKey := true })
  | 3 => s.modSec (fun x => { x with lifecycle := 3, ownerKey := true })
  | 4 => s.modSec (fun x => { x with lifecycle := 4, idKey := false })
  | _ => s

/-- The jobs that a zeroization fenced itself lose their fences. -/
def State.zeroUnfence (s : State) (z : ZeroSt) : State :=
  let mine := s.fault.fences.filter (fun f => f.internal && (match f.obj with
    | .job j => z.covers j.toNat
    | _ => false))
  let s := mine.foldl (fun s f => s.fenceOff f.obj) s
  s.modFault (fun f => { f with fences := f.fences.filter (fun x => !(x.internal && (match x.obj with
    | .job j => z.covers j.toNat
    | _ => false))) })

/-- Begin a zeroization: every job in scope that is not fenced is fenced at the next boundary (14 R376). -/
def State.zeroStart (s : State) (z : ZeroSt) : State :=
  let new := (z.jobs.filter (fun j => !(s.fault.fences.any (fun f => f.obj == FenceObj.job (BitVec.ofNat 6 j))))).map (fun j =>
    (⟨.job (BitVec.ofNat 6 j), s.now + 1, false, false, none, true⟩ : FenceSt))
  (s.modFault (fun f => { f with fences := f.fences ++ new })).modSec (fun x => { x with zero := some z })

/-- The boundary's part: at the first boundary at which every fence in scope is empty, the keys are destroyed and the overwrite
starts. The Hold's granules stay named until it is done. -/
def State.zeroKeys (s : State) : State :=
  match s.sec.zero with
  | none => s
  | some z =>
    let ready := z.jobs.all (fun j => s.objEmpty (.job (BitVec.ofNat 6 j))
      && !s.fault.fences.any (fun f => f.obj == FenceObj.job (BitVec.ofNat 6 j) && !f.active))
    if z.keysGone || !ready then s
    else
      let g := match z.job with
        | some j => (s.job j).granules
        | none => []
      (s.zeroFree z).modSec (fun x => { x with zero := some { z with keysGone := true, granules := g } })

/-- A reply that waits for a transition says when it takes effect, and is posted. Log entry 72. -/
def State.finishAt (s : State) (w : Await) : State :=
  let eff := if s.tide.running then some s.now else none
  (s.modMbox (fun m => { m with waiting := m.waiting.map (fun x => if x.what = w then { x with reply := { x.reply with effect := eff } } else x) })).finishWait w []

/-- The debug and lifecycle transitions that wait take effect (14 R366, R369, R371, R380). -/
def State.securityAt (s : State) : State :=
  let served := s.sec.zero.isNone && (s.sec.pDebug.isSome || s.sec.pLifecycle.isSome)
  let s := match s.sec.pDebug with
    | some d => s.setDebug d
    | none => s
  let s := match s.sec.pLifecycle with
    | some l => s.setLifecycle l
    | none => s
  let s := s.modSec (fun x => { x with pDebug := none, pLifecycle := none })
  if served then s.finishAt .zeroize else s

/-- ZEROIZE_DONE: the overwrite is complete. A debug or lifecycle change that it served takes effect at the next boundary, or at
once while the tide generator does not count. -/
def execZeroizeDone (s : State) : Host.Outcome State Fault Refusal :=
  match s.sec.zero with
  | some z =>
    if !z.keysGone then .next s
    else
      let s := ((s.zeroFill z).zeroUnfence z).modSec (fun x => { x with zero := none })
      if !z.debugOpen && z.lifecycle.isNone then .next (s.finishAt .zeroize)
      else
        let s := s.modSec (fun x => { x with
          pDebug := if z.debugOpen then some 1 else x.pDebug
          pLifecycle := match z.lifecycle with
            | some l => some l
            | none => x.pLifecycle })
        .next (if s.tide.running then s else s.securityAt)
  | none => .next s

end Sys2Proof.Machine
end

