-- ==== Sys2Proof/Machine/Uci.lean ====
section
/-! DEFINITION. How firmware serves a UCI command: what it takes, what it refuses, and what it answers (12 R323 to R330, 15 R389,
R396, 14 R378, R379, R382). -/

namespace Sys2Proof.Machine

/-- Who may send a command (12 R327 and the rows). -/
inductive Sender where
  | any
  | priv
  | privSec
  | owner
  | func
deriving DecidableEq, Repr

/-- What a command's row gives for serving it: code, body length, sender, whether it acts for a job, and where it is accepted:
before the first tide, in DOZE, in ANCHOR, by the boot ROM. -/
structure CmdInfo where
  code : Nat
  len : Nat
  sender : Sender := .priv
  job : Bool := false
  window : Bool := false
  doze : Bool := true
  anchor : Bool := false
  rom : Bool := false
deriving DecidableEq, Repr

/-- What an executed command leaves: the state, its status, EFFECT, its reply's body, and what the reply waits for. -/
structure Done where
  st : State
  status : Nat := 0
  effect : Option TideNo := none
  body : List Byte := []
  wait : Option Await := none
deriving DecidableEq, Repr

/-- Round up to a whole word (12 R446). -/
def word4 (n : Nat) : Nat := (n + 3) / 4 * 4

/-! ## What firmware takes (12 R324, 15 R389) -/

/-- Does the primary pair take commands: in service, not halted, not handing over, no reset about to start? -/
def State.primaryServes (s : State) : Bool :=
  let i := bitNat s.sec.primaryB
  s.hmUp i && decide (i ∉ s.sec.halted) && !s.sec.pHandover

/-- Does somebody answer the channel: the primary pair, or before it the boot ROM on the channels of the default table? -/
def State.serves (s : State) (ch : Nat) : Bool :=
  !s.boot.resetDue && s.sec.power != 3 &&
    (if s.mbox.uciReady then s.primaryServes
     else s.mbox.opened && !s.boot.failed && decide (4 ≤ s.boot.stage.toNat ∧ s.boot.stage.toNat ≤ 5 ∧ ch < 22))

/-- Firmware takes a message: one is posted on a command channel, it is the slot's bytes, and no earlier command of the channel waits
for its reply. Log entries 3 and 4. -/
def State.takes (s : State) (u : Uci) : Bool :=
  let ch := u.ch.val
  (s.chan ch).full && (s.chan ch).len == u.len && s.mbox.slots.readBytes (4096 * ch) u.len.toNat == u.bytes && s.isCommand ch && s.serves ch
    && s.mbox.replies.all (fun r => r.ch != ch) && s.mbox.waiting.all (fun w => w.reply.ch != ch)

/-- The identity that a channel's messages come from. -/
def State.senderOf (s : State) (u : Uci) : BitVec 4 := ((s.chan u.ch.val).bind.map (fun (b : Binding) => b.send)).getD 0xF

/-- May the sender issue the command (12 R327)? -/
def State.mayIssue (s : State) (u : Uci) (k : Sender) : Bool :=
  let who := s.senderOf u
  match k with
  | .any => true
  | .priv => privileged who
  | .privSec => privileged who || who == 0xA
  | .owner => privileged who || (decide (u.job.toNat < 64) && (s.job u.job.toNat).owner == who)
  | .func => decide (who.toNat < 8)

/-- Is the message malformed in its header (12 R326)? -/
def uciMalformed (u : Uci) (c : CmdInfo) : Bool :=
  decide (u.len.toNat < 32) || u.len.toNat != 32 + u.bodyLen.toNat || u.hdrVer != 1 || u.flags != 0 || u.rsv
    || u.bodyLen.toNat != c.len || (decide (64 ≤ u.job.toNat) && (c.job || u.job != 0xFF))

/-- Is the part in the configuration window: Uzorik runs and the first tide has not come (15 R396)? -/
def State.inWindow (s : State) : Bool := s.mbox.uciReady && !s.tide.running && s.sec.power == 0

/-- The causes that every command has: its message, its sender, and the state of the part. -/
def State.gate (s : State) (u : Uci) (c : CmdInfo) : List (Nat × Bool) :=
  [(stMalformed, uciMalformed u c), (stDenied, !s.mayIssue u c.sender), (stState, !s.mbox.uciReady && !c.rom),
   (stState, s.inWindow && !c.window), (stSecurity, s.sec.power == 1 && !c.doze), (stSecurity, s.sec.power == 2 && !c.anchor)]

/-- The lowest code whose cause holds (12 R328). -/
def lowest (cs : List (Nat × Bool)) : Option Nat :=
  (cs.filter (fun c => c.2)).foldl (fun m c => match m with
    | none => some c.1
    | some k => some (min k c.1)) none

/-- Reply to a command (12 R324). -/
def State.replyTo (s : State) (u : Uci) (code : Nat) (d : Done) (accept : TideNo) : State :=
  let r : Reply := ⟨u.ch.val, BitVec.ofNat 16 code, u.tag, u.job, BitVec.ofNat 16 d.status, accept, d.effect, d.body, 0⟩
  match d.wait with
  | none => s.pushReply r
  | some w => s.modMbox (fun m => { m with waiting := m.waiting ++ [⟨r, w⟩] })

/-- Serve a command: take it, release the slot, refuse it or run it, and reply. A refusal may leave a trace of its own (a nonce
spent under 14 R367): `onRefuse`. Log entry 3. -/
def State.uciWith (s : State) (u : Uci) (c : CmdInfo) (causes : List (Nat × Bool)) (onRefuse : Nat → State → State) (run : State → Done) :
    State :=
  if !s.takes u then s
  else
    let s1 := s.modChan u.ch.val (fun x => { x with full := false })
    match lowest (s.gate u c ++ causes) with
    | some k =>
      let s2 := onRefuse k s1
      s2.replyTo u c.code { st := s2, status := k } s.now
    | none =>
      let d := run s1
      d.st.replyTo u c.code d s.now

def State.uci (s : State) (u : Uci) (c : CmdInfo) (causes : List (Nat × Bool)) (run : State → Done) : State :=
  s.uciWith u c causes (fun _ s => s) run

/-! ## Causes that several commands share -/

/-- Is a half out of service or restarting (15 R403; log entry 35)? -/
def State.halfOut (s : State) (h : Half) : Bool := s.tide.running && !(s.half h).inUse

/-- Is one of the halves that a stream works in out of service? -/
def State.streamOut (s : State) (m : ManifestCfg) : Bool :=
  [Half.east, Half.west].any (fun h => (m.inHalf h || m.home == h) && s.halfOut h)

/-- Is one of the halves that a stream works in, or the package, in the safe state (13 R352)? -/
def State.streamSafe (s : State) (m : ManifestCfg) : Bool :=
  [Half.east, Half.west].any (fun h => (m.inHalf h || m.home == h) && s.halfSafe h)

/-- Is any half in the safe state? -/
def State.anySafe (s : State) : Bool := s.halfSafe .east || s.halfSafe .west

/-- Has a job a stream that is LIVE? -/
def State.jobLive (s : State) (j : Nat) : Bool := s.streams.any (fun e => e.2.state == .live && e.2.cfg.any (fun m => m.job == j))

/-- Has a job a shard that is UPDATING? -/
def State.jobUpdating (s : State) (j : Nat) : Bool := s.shards.any (fun e => e.2.state == 2 && e.2.job == j)

/-- The boundary at which an ordinary command's effects take place (12 R330). -/
def State.nextBoundary (s : State) : Option TideNo := if s.tide.running then some (s.now + 1) else none

end Sys2Proof.Machine
end

