-- ==== Sys2Proof/Machine/StreamCmds.lean ====
section
/-! DEFINITION. UCI group 0x03, streams (12 R335, Table 12-14; 05 R119 to R122, R127, R134, R144 to R148). -/

namespace Sys2Proof

/-- Is a number a positive, normal, finite BF16 value (03 R69)? -/
def bf16Ok (x : Nat) : Bool := decide (0x0080 ≤ x ∧ x ≤ 0x7F7F)

namespace ManifestCfg

variable (m : ManifestCfg)

/-- The fused operand's format code. -/
def fuseCode : Nat := Machine.bitsOf m.fuseDesc.toNat 0 4
def fuseHold : Bool := Machine.bitOf m.fuseDesc.toNat 4

/-- Leaf tiles in both halves. -/
def leafCount : Nat := (m.leavesOf .east).length + (m.leavesOf .west).length

/-- Is a reserved value used, or a value out of its range (05 Tables 5-1 to 5-6)? -/
def reservedUsed : Bool :=
  let o := m.opctl.toNat
  Machine.bitsOf o 30 2 != 0 || Machine.bitOf o 19 || m.consumer == 0 || decide (1 < m.csp) || m.fuse == 3 || decide (m.op < 1 ∨ 5 < m.op)
    || (Machine.Fmt.ofCode m.inCode).isNone || (Machine.Fmt.ofCode m.outCode).isNone || m.patience == 0 || decide (m.cexp < -126)
    || decide (m.elems < 1 ∨ 268431360 < m.elems) || decide (240 < m.nMembers) || Machine.bitsOf m.treeE.toNat 28 4 != 0
    || Machine.bitsOf m.treeW.toNat 28 4 != 0 || Machine.bitsOf m.peers.toNat 22 10 != 0 || decide (8 < m.children)
    || decide (m.ringN < 1 ∨ 16 < m.ringN) || decide (m.ringN ≤ m.ringPos) || Machine.bitsOf m.recipe.toNat 16 16 != 0
    || Machine.bitsOf m.fuseDesc.toNat 5 11 != 0 || (m.fuseCode != 0 && (Machine.Fmt.ofCode m.fuseCode).isNone)

/-- Is an FP32 pattern finite? -/
def finite32 (x : U32) : Bool := Machine.bitsOf x.toNat 23 8 != 255

/-- The causes of R119 that the fields alone show. -/
def fieldsBad : Bool :=
  let inI := m.inFmt.isInt
  let outI := m.outFmt.isInt
  let ff := Machine.Fmt.ofCode m.fuseCode
  let fused := m.fuse != 0
  let fine := m.inFmt.fine || m.outFmt.fine || (fused && ff.any (fun f => f.fine))
  m.reservedUsed || (m.norm && !m.isLse) || (fused && m.isExact) || (decide (m.inCode ≤ 8) && m.outCode == 10) || (m.isLse && inI != outI)
    || (m.leafCount == 0 && decide (m.ringN ≤ 1) && m.children == 0) || decide (m.nMembers < m.leafCount) || (fine && m.elems % 32 != 0)
    || decide (16 < m.slotBase + m.slotCount) || (m.spillAddr == 0 && decide (m.k < m.nMembers + m.ringN - 1 + m.children))
    || !bf16Ok m.outMult.toNat || (m.csp == 0 && !bf16Ok m.cOut.toNat) || (m.isLse && m.csp == 0 && m.cOut.toNat % 128 != 0)
    || (fused && (match ff with
      | some f => !Machine.coarseOk f (Machine.bitsOf m.fuseDesc.toNat 16 16)
      | none => true))
    || (m.clipEn && (!finite32 m.clipLo || !finite32 m.clipHi || (Machine.fp32Val m.clipHi.toNat).lt (Machine.fp32Val m.clipLo.toNat)))

/-- Cells of the packets that carry n elements of a width, head cells included. -/
def cellsFor (w : Nat) (fine : Bool) (n : Nat) : Nat :=
  let per := Machine.perPacket w
  let one := fun (k : Nat) => 1 + (k * w + 511) / 512 + if fine then (k + 2047) / 2048 else 0
  n / per * one per + if n % per = 0 then 0 else one (n % per)

/-- Bytes of the retention area: every chunk's released packets at 68 bytes a cell (log entry 40). -/
def retainBytes : Nat :=
  let chunk := fun (n : Nat) => cellsFor m.outFmt.width m.outFmt.fine n + (if m.isExact then cellsFor 32 false n else 0)
  68 * (m.elems / 4096 * chunk 4096 + if m.elems % 4096 = 0 then 0 else chunk (m.elems % 4096))

/-- Bytes of the fused operand, its fine scales included (04 R112). -/
def fuseBytes : Nat :=
  match Machine.Fmt.ofCode m.fuseCode with
  | some f => (m.elems * f.width + 7) / 8 + if f.fine then (m.elems + 31) / 32 else 0
  | none => 0

/-- The Quay ranges that a Manifest names: half, offset and bytes (05 R119, 01 R444). -/
def quayRanges : List (Half × Nat × Nat) :=
  let hs := [Half.east, Half.west].filter (fun h => m.leavesOf h != [])
  (if m.nMembers = 0 then [] else hs.map (fun h => (h, m.rankmapAddr.toNat, 8 * m.nMembers)))
    ++ (if m.releaser then [(m.home, m.retainAddr.toNat, m.retainBytes)] else [])
    ++ (if m.spillAddr = 0 then [] else hs.map (fun h => (h, m.spillAddr.toNat, 65536 * (m.leavesOf h).length * m.slotCount)))
    ++ (if m.fuse ≠ 0 ∧ !m.fuseHold then [(m.home, m.fuseAddr.toNat, m.fuseBytes)] else [])

/-- Is an address field misaligned, or has it a bit that its address form does not have (05 Table 5-1, R119)? -/
def addrBad : Bool :=
  (m.nMembers != 0 && m.rankmapAddr.toNat % 4096 != 0) || m.spillAddr.toNat % 4096 != 0 || (m.releaser && m.retainAddr.toNat % 4096 != 0)
    || [m.rankmapAddr, m.retainAddr, m.spillAddr].any (fun a => decide (2 ^ 33 ≤ a.toNat))
    || decide ((if m.fuseHold then 2 ^ 41 else 2 ^ 33) ≤ m.fuseAddr.toNat)

end ManifestCfg

end Sys2Proof

namespace Sys2Proof.Machine

/-- Is a Manifest one that R119 refuses for a job? -/
def State.manifestBad (s : State) (m : ManifestCfg) (job : Nat) : Bool :=
  let j := s.job job
  m.fieldsBad || m.addrBad || m.quayRanges.any (fun r => !j.inQuay r.1 r.2.1 r.2.2)
    || (m.fuse != 0 && m.fuseHold && !j.inHold m.fuseAddr.toNat m.fuseBytes)

/-- The Manifest of a stream, or the one about to be created. -/
def StreamSt.man (x : StreamSt) : Option ManifestCfg := if x.cfg.isSome then x.cfg else x.pCreate

/-- The causes that every command of a stream has (12 R335). -/
def State.streamCauses (s : State) (u : Uci) (sid : U32) : List (Nat × Bool) :=
  [(stMalformed, decide (2 ^ 20 ≤ sid.toNat)), (stDenied, (s.stream sid.toNat).man.any (fun m => m.job != u.job.toNat))]

/-- Is a logical engine of a half unmapped (04 R99)? -/
def State.unmapped (s : State) (h : Half) (e : Nat) : Bool := decide (20 ≤ s.physEng h e)

/-- The engines that a stream's leaves and root use. -/
def manifestEngines (m : ManifestCfg) : List (Half × Nat) := m.slotTiles.map (fun k => (tileHalf k, tileEng k))

def State.usesUnmapped (s : State) (m : ManifestCfg) : Bool := (manifestEngines m).any (fun e => s.unmapped e.1 e.2)

/-- Is an object fenced (13 Table 13-12)? -/
def State.isFenced (s : State) (p : FenceObj → Bool) : Bool := s.fault.fences.any (fun f => f.active && p f.obj)

/-- Is a job, or an engine that a stream uses, fenced? -/
def State.streamFenced (s : State) (m : ManifestCfg) : Bool :=
  (s.job m.job).fenced || s.isFenced (fun o => match o with
    | .engine h p => (manifestEngines m).any (fun e => e.1 == h && s.physEng e.1 e.2 == p.val)
    | _ => false)

/-- STREAM_CREATE. -/
def execStreamCreate (u : Uci) (sid : U32) (m : ManifestCfg) (s : State) : Host.Outcome State Fault Refusal :=
  let n := sid.toNat
  let x := s.stream n
  .next (s.uci u { code := 0x0301, len := 128, sender := .owner, job := true }
    [(stMalformed, decide (2 ^ 20 ≤ n)), (stMalformed, s.manifestBad m u.job.toNat || x.state != .free), (stDenied, m.job != u.job.toNat),
     (stBusy, x.pCreate.isSome), (stResource, s.usesUnmapped m), (stSecurity, s.sec.lifecycle == 4), (stFaulted, s.streamOut m)]
    (fun t => { st := t.modStream n (fun x => { x with pCreate := some m }), effect := t.nextBoundary }))

/-! ## Arms (05 R121, R122, R127) -/

/-- May the GEN of a stream's next run start at boundary t: not carried by a run that ended within the last 64 tides (05 R122)? -/
def StreamSt.genFree (x : StreamSt) (g : Byte) (t : TideNo) : Bool :=
  match x.genEnds.find? (fun e => e.1 == g) with
  | some (_, e) => tideReached t (e + 64)
  | none => true

/-- Does another stream that is LIVE, or about to be, use a slot of this one on a tile they share (05 R127)? -/
def State.slotClash (s : State) (n : Nat) (m : ManifestCfg) : Bool :=
  s.streams.any (fun e =>
    let y := e.2
    e.1 != n && ((y.state == .live && !y.pAbortCmd && !y.pTeardown) || (y.pArm.isSome && !y.pTeardown)) && y.cfg.any (fun o =>
      decide (o.slotBase < m.slotBase + m.slotCount ∧ m.slotBase < o.slotBase + o.slotCount) && o.slotTiles.any (fun k => decide (k ∈ m.slotTiles))))

/-- Why a stream cannot be armed for a run that goes LIVE at boundary t; an arm beside an abort command starts a new run after it
(05 R148). -/
def State.armCauses (s : State) (n : Nat) (t : TideNo) : List (Nat × Bool) :=
  let x := s.stream n
  match x.cfg with
  | none => [(stState, true)]
  | some m =>
    [(stState, x.state == .free || x.state == .fencing || (x.state == .live && !x.pAbortCmd) || x.damaged),
     (stState, !x.genFree (x.gen + 1) t || s.streamFenced m), (stBusy, x.pArm.isSome),
     (stResource, s.usesUnmapped m || s.slotClash n m), (stFaulted, s.streamSafe m || s.streamOut m)]

/-- Is the C_OUT of an arm malformed (05 R121; for LSE a power of two, 04 R107, log entry 40)? -/
def StreamSt.armScaleBad (x : StreamSt) (c : U16) : Bool :=
  match x.cfg with
  | none => false
  | some m => if m.csp = 1 then !bf16Ok c.toNat || (m.isLse && c.toNat % 128 != 0) else c != 0

/-- STREAM_ARM. -/
def execStreamArm (u : Uci) (sid : U32) (cOut : U16) (s : State) : Host.Outcome State Fault Refusal :=
  let n := sid.toNat
  let t := s.now + 1
  .next (s.uci u { code := 0x0302, len := 8, sender := .owner, job := true, doze := false }
    (s.streamCauses u sid ++ s.armCauses n t ++ [(stMalformed, (s.stream n).armScaleBad cOut)])
    (fun z => { st := z.modStream n (fun x => { x with pArm := some (t, cOut) }), effect := some t }))

/-! ## Abort, commit, teardown (05 R134, R140, R146, R148) -/

/-- STREAM_ABORT. -/
def execStreamAbort (u : Uci) (sid : U32) (s : State) : Host.Outcome State Fault Refusal :=
  let n := sid.toNat
  let x := s.stream n
  .next (s.uci u { code := 0x0303, len := 4, sender := .owner, job := true }
    (s.streamCauses u sid ++ [(stState, x.state != .live), (stBusy, x.pAbortCmd)])
    (fun t => { st := t.modStream n (fun x => { x with pAbortCmd := true }), effect := t.nextBoundary }))

/-- STREAM_COMMIT. -/
def execStreamCommit (u : Uci) (sid : U32) (s : State) : Host.Outcome State Fault Refusal :=
  let n := sid.toNat
  let x := s.stream n
  .next (s.uci u { code := 0x0304, len := 4, sender := .owner, job := true }
    (s.streamCauses u sid ++ [(stState, x.state == .free || x.state == .fencing || (x.state == .live && !x.pAbortCmd)), (stBusy, x.pCommit)])
    (fun t => { st := t.modStream n (fun x => { x with pCommit := true }), effect := t.nextBoundary }))

/-- STREAM_TEARDOWN. -/
def execStreamTeardown (u : Uci) (sid : U32) (s : State) : Host.Outcome State Fault Refusal :=
  let n := sid.toNat
  let x := s.stream n
  .next (s.uci u { code := 0x0305, len := 4, sender := .owner, job := true }
    (s.streamCauses u sid ++ [(stState, x.state == .free || x.state == .fencing), (stBusy, x.pTeardown)])
    (fun t => { st := t.modStream n (fun x => { x with pTeardown := true }), effect := t.nextBoundary }))

/-! ## STREAM_STATUS and STREAM_PIN (05 R144, R145) -/

/-- The combined view of a stream in the latest snapshot: the STREAM_STATUS reply (12 Table 12-14). -/
def State.statusBytes (s : State) (n : Nat) : List Byte :=
  let x := Tab.get {} s.snapStreams n
  let (h, o) := match x.home with
    | .east => (x.statE, x.statW)
    | .west => (x.statW, x.statE)
  let sum := fun (f : StreamStat → Nat) => leBytes 4 (satAdd 32 (f h) (f o))
  leBytes 4 (x.state.code * 2 ^ 28 + x.gen.toNat * 2 ^ 20 + n) ++ leBytes 4 (completionWord h o) ++ leBytes 8 h.armTide.toNat
    ++ leBytes 8 h.doneTide.toNat ++ sum (fun y => y.lostElem) ++ leBytes 4 0 ++ leBytes 16 (satAdd 128 h.lostMass o.lostMass)
    ++ sum (fun y => y.released) ++ sum (fun y => y.accepted) ++ sum (fun y => y.stale) ++ sum (fun y => y.dup) ++ sum (fun y => y.bad)
    ++ sum (fun y => y.discarded) ++ sum (fun y => y.resends) ++ sum (fun y => y.spills) ++ sum (fun y => y.misses)

/-- STREAM_STATUS. -/
def execStreamStatus (u : Uci) (sid : U32) (s : State) : Host.Outcome State Fault Refusal :=
  .next (s.uci u { code := 0x0306, len := 4, sender := .owner, job := true } (s.streamCauses u sid)
    (fun t => { st := t, body := t.statusBytes sid.toNat }))

/-- Pin a Manifest, or let it go, in both halves' caches. -/
def MCache.pin (c : MCache) (n : Nat) : MCache :=
  if n ∈ c.pinned then c
  else
    let held := c.held.filter (fun i => i != n)
    { c with pinned := c.pinned ++ [n], held := held.drop (held.length + c.pinned.length + 1 - 16384) }
def MCache.unpin (c : MCache) (n : Nat) : MCache :=
  if n ∈ c.pinned then { c with pinned := c.pinned.filter (fun i => i != n), held := c.held ++ [n] } else c

def State.pin (s : State) (n : Nat) (on : Bool) : State :=
  s.modHalves (fun _ x => { x with mcache := if on then x.mcache.pin n else x.mcache.unpin n })

/-- Would pinning these streams pass 8,192 in a half (05 R145)? -/
def State.pinsOver (s : State) (ns : List Nat) : Bool :=
  [s.east, s.west].any (fun x => decide (8192 < x.mcache.pinned.length + (ns.filter (fun n => decide (n ∉ x.mcache.pinned))).length))

/-- STREAM_PIN. A Manifest that is FREE is none to pin. -/
def execStreamPin (u : Uci) (sid : U32) (pin : Byte) (s : State) : Host.Outcome State Fault Refusal :=
  let n := sid.toNat
  .next (s.uci u { code := 0x0307, len := 8, sender := .owner, job := true }
    (s.streamCauses u sid ++ [(stMalformed, decide (1 < pin.toNat)), (stState, (s.stream n).cfg.isNone || (pin == 0 && (s.collOf n).isSome)),
      (stResource, pin == 1 && s.pinsOver [n])])
    (fun t => { st := t.pin n (pin == 1) }))

end Sys2Proof.Machine
end

