-- ==== Sys2Proof/Machine/CollCmds.lean ====
section
/-! DEFINITION. UCI group 0x04, collectives (12 R336, Table 12-15; 06 R151 to R157, R165, R168). -/

namespace Sys2Proof.Machine

/-! ## Records (06 Tables 6-2, 6-3) -/

def CollSt.kind (c : CollSt) : Nat := bitsOf c.ctl.toNat 28 4
def CollSt.axis (c : CollSt) : Nat := bitsOf c.ctl.toNat 26 2
def CollSt.pair (c : CollSt) : Bool := bitOf c.ctl.toNat 25
def CollSt.sidA (c : CollSt) : Nat := bitsOf c.ctl.toNat 0 20

/-- Does a kind run as reduction streams (06 R150)? -/
def kindReduces (k : Nat) : Bool := k == 1 || k == 2 || k == 3 || k == 10

/-- The streams that a record binds: none for a data-movement kind. -/
def CollSt.sids (c : CollSt) : List Nat := if kindReduces c.kind then c.sidA :: (if c.pair then [c.sidB.toNat] else []) else []

/-- The RW fields of CTL. -/
def ctlRw (ctl : U32) : U32 := ctl &&& 0xFE0F_FFFF

/-- Is a peer lost (06 R168)? -/
def State.isLost (s : State) (a : U32) : Bool := s.lost.any (fun e => addrSwitch e.1 == addrSwitch a.toNat)

/-- Does a way to a peer cross a berth marked TIDE_MISMATCH (02 R43)? -/
def State.crossesMismatch (s : State) (a : U32) : Bool := (s.facing a.toNat).any (fun b => (s.berth b).mismatch)

/-- Does a stream's ring break R155, as far as this switch sees it: its neighbours on the axis, one and the same switch exactly in a ring
of two, and its place on a whole axis? -/
def State.ringBad (s : State) (m : ManifestCfg) (axis : Nat) (minus : Bool) : Bool :=
  if m.ringN ≤ 1 then false
  else if axis = 3 ∨ (m.ringN = 2 ∧ addrSwitch m.upAddr.toNat ≠ addrSwitch m.downAddr.toNat)
      ∨ (2 < m.ringN ∧ addrSwitch m.upAddr.toNat = addrSwitch m.downAddr.toNat) then true
  else
    let own := s.own
    let size := s.active.size axis
    let me := addrCoord own axis
    let off := fun (a : Nat) => addrH a != addrH own || [0, 1, 2].any (fun ax => ax != axis && addrCoord a ax != addrCoord own ax)
    let step := fun (plus : Bool) => if plus then (me + 1) % size else (me + size - 1) % size
    decide (size < m.ringN)
      || [m.upAddr, m.downAddr].any (fun a => off a.toNat || addrCoord a.toNat axis == me || decide (size ≤ addrCoord a.toNat axis))
      || (m.ringN == size && (m.ringPos != (if minus then size - 1 - me else me) || addrCoord m.downAddr.toNat axis != step (!minus)
        || addrCoord m.upAddr.toNat axis != step minus))

/-- Why a stream cannot be bound (06 R152). -/
def State.bindCauses (s : State) (job n kind axis : Nat) (minus : Bool) (gb : Byte) : List (Nat × Bool) :=
  let x := s.stream n
  match x.cfg with
  | none => [(stState, true)]
  | some m =>
    let ps := s.peersOf m
    [(stMalformed, s.ringBad m axis minus), (stDenied, m.job != job),
     (stState, x.state != .idle || (kind == 10 && !m.isLse) || !x.genFree gb s.now),
     (stPeer, ps.any (fun a => s.crossesMismatch a || s.isLost a))]

/-- COLL_DEFINE: the record is DEFINED, its streams' Manifests are pinned and take GEN_BASE - 1 (06 R152). -/
def execCollDefine (u : Uci) (cid : U16) (ctl sids : U32) (s : State) : Host.Outcome State Fault Refusal :=
  let n := cid.toNat
  let gb := BitVec.ofNat 8 (bitsOf sids.toNat 20 8)
  let rec_ : CollSt := { ctl := ctlRw ctl, gen := gb, sidB := BitVec.ofNat 20 sids.toNat, state := 1, job := u.job.toNat }
  let binds := rec_.sids.zipIdx.flatMap (fun e => s.bindCauses u.job.toNat e.1 rec_.kind rec_.axis (e.2 == 1) gb)
  let mans := rec_.sids.filterMap (fun i => s.mfst i)
  let crossed := rec_.pair && (match mans with
    | [a, b] => a.upAddr != b.downAddr || a.downAddr != b.upAddr
    | _ => false)
  .next (s.uci u { code := 0x0401, len := 12, sender := .owner, job := true }
    ([(stMalformed, decide (4096 ≤ n) || decide (rec_.kind < 1 ∨ 10 < rec_.kind) || decide (2 ^ 28 ≤ sids.toNat) || (!rec_.pair && rec_.sidB != 0)
        || (rec_.pair && (!kindReduces rec_.kind || rec_.sidA == rec_.sidB.toNat)) || crossed),
      (stState, (s.coll n).state != 0), (stResource, s.pinsOver rec_.sids)] ++ binds)
    (fun t =>
      let t := rec_.sids.foldl (fun (t : State) i => (t.modStream i (fun x => { x with gen := gb - 1 })).pin i true) t
      { st := t.modColl n (fun _ => { rec_ with pinned := !rec_.sids.isEmpty }), effect := s.nextBoundary }))

/-! ## COLL_ARM (06 R153) -/

/-- The C_OUT that an arm of a record gives a stream: its Manifest's (log entry 41). -/
def StreamSt.recordScale (x : StreamSt) : U16 :=
  match x.cfg with
  | some m => if m.csp = 1 then m.cOut else 0
  | none => 0

/-- Ask for the arm of each stream at T, gathering why one cannot be armed. -/
def State.armAll (s : State) (t : TideNo) : List Nat → List (Nat × Bool) × State
  | [] => ([], s)
  | n :: ns =>
    let x := s.stream n
    let mine := s.armCauses n t ++ [(stMalformed, x.armScaleBad x.recordScale), (stPeer, x.cfg.any (fun m => (s.peersOf m).any s.isLost))]
    let (cs, s') := (s.modStream n (fun x => { x with pArm := some (t, x.recordScale) })).armAll t ns
    (mine ++ cs, s')

/-- COLL_ARM: every stream of the record goes LIVE at T; a data-movement record is DONE at T. -/
def execCollArm (u : Uci) (cid : U16) (t : U64) (s : State) : Host.Outcome State Fault Refusal :=
  let n := cid.toNat
  let c := s.coll n
  let at_ : TideNo := t.setWidth 48
  let far := tideSince at_ s.now
  let ready := c.state == 1 || c.state == 4 || c.state == 5
  let arms := if ready then (s.armAll at_ c.sids).1 else []
  .next (s.uci u { code := 0x0402, len := 16, sender := .owner, job := true, doze := false }
    ([(stMalformed, decide (4096 ≤ n) || decide (2 ^ 48 ≤ t.toNat)), (stDenied, c.state != 0 && c.job != u.job.toNat),
      (stState, !ready || c.kind == 8 || c.teardown || (s.job u.job.toNat).fenced), (stTiming, decide (far < 4 ∨ 65536 < far)),
      (stFaulted, c.sids.isEmpty && s.anySafe)] ++ arms)
    (fun z => { st := (z.armAll at_ c.sids).2.modColl n (fun c => { c with state := 2, armT := some at_ }), effect := some at_ }))

/-! ## COLL_STATUS and COLL_TEARDOWN -/

/-- The COLL_STATUS reply (12 Table 12-15), from the snapshot (12 R330). -/
def State.collBytes (s : State) (n : Nat) : List Byte :=
  let c := Tab.get {} s.snapColls n
  let view := fun (i : Nat) => match c.sids[i]? with
    | some sid => s.statusBytes sid
    | none => List.replicate 84 0
  leBytes 4 (c.ctl.toNat + bitNat c.pinned * 2 ^ 24 + c.state.toNat * 2 ^ 20) ++ leBytes 4 (c.gen.toNat * 2 ^ 20 + c.sidB.toNat) ++ view 0 ++ view 1

/-- COLL_STATUS. -/
def execCollStatus (u : Uci) (cid : U16) (s : State) : Host.Outcome State Fault Refusal :=
  let c := s.coll cid.toNat
  .next (s.uci u { code := 0x0403, len := 4, sender := .owner, job := true }
    [(stMalformed, decide (4096 ≤ cid.toNat)), (stDenied, c.state != 0 && c.job != u.job.toNat)]
    (fun t => { st := t, body := t.collBytes cid.toNat }))

/-- COLL_TEARDOWN: every bound stream is torn down, and the record is EMPTY when all are FREE. -/
def execCollTeardown (u : Uci) (cid : U16) (s : State) : Host.Outcome State Fault Refusal :=
  let n := cid.toNat
  let c := s.coll n
  .next (s.uci u { code := 0x0404, len := 4, sender := .owner, job := true }
    [(stMalformed, decide (4096 ≤ n)), (stDenied, c.state != 0 && c.job != u.job.toNat), (stState, c.state == 0), (stBusy, c.teardown)]
    (fun t =>
      let t := c.sids.foldl (fun (t : State) i => t.modStream i (fun x =>
        if x.state = .free ∨ x.state = .fencing then x else { x with pTeardown := true })) t
      { st := t.modColl n (fun c => { c with teardown := true }), effect := s.nextBoundary }))

/-! ## RESHARD (06 R165) -/

/-- A line of the mapping table (12 R336). -/
def reshardEntryOf (e : List Byte) : ReshardEntry := ⟨field e 0 8, field e 8 8, BitVec.ofNat 32 (field e 16 4), field e 24 8, false⟩

/-- Is a line out of range: a length of whole 4 KiB, and Hold addresses (07 R171)? -/
def ReshardEntry.bad (e : ReshardEntry) : Bool :=
  e.length % 4096 != 0 || e.length == 0 || decide (2 ^ 41 < e.srcAddr + e.length) || decide (2 ^ 41 < e.dstAddr + e.length)

/-- The table of a round, read from Quay as the command is accepted. -/
def State.reshardTable (s : State) (table : U64) (n : Nat) : List ReshardEntry :=
  let q := s.quay (Half.ofNum (bitsOf table.toNat 33 1))
  (List.range n).map (fun i => reshardEntryOf (q.readBytes (bitsOf table.toNat 0 33 + 32 * i) 32))

/-- The bytes that a table brings into the Hold beside a half: of the ranges that come in, it names those of this switch itself (12 R336;
log entry 26). -/
def State.reshardIn (s : State) (es : List ReshardEntry) (h : Half) : Nat :=
  ((es.filter (fun e => addrSwitch e.dstSwitch.toNat == addrSwitch s.own && holdHalf e.dstAddr == h)).map (fun e => e.length)).sum

/-- RESHARD: the round runs from the first boundary after acceptance. Its sources are a free list, since no field of an entry names one
(log entry 26). -/
def execReshard (u : Uci) (cid : U16) (round : U32) (table : U64) (entries : U32) (s : State) : Host.Outcome State Fault Refusal :=
  let n := cid.toNat
  let c := s.coll n
  let j := s.job u.job.toNat
  let here := j.inQuayAt table.toNat (32 * entries.toNat)
  let es := if here then s.reshardTable table entries.toNat else []
  .next (s.uci u { code := 0x0405, len := 20, sender := .owner, job := true }
    [(stMalformed, decide (4096 ≤ n) || decide (2 ^ 34 ≤ table.toNat) || es.any (fun e => e.bad)), (stDenied, !here),
     (stDenied, c.state != 0 && c.job != u.job.toNat),
     (stState, c.kind != 8 || !(c.state == 1 || c.state == 4 || c.state == 5) || c.teardown || j.fenced || s.jobLive u.job.toNat
        || j.outOf j.step != 0),
     (stBusy, c.reshard.isSome), (stResource, decide (2 ^ 32 < s.reshardIn es .east ∨ 2 ^ 32 < s.reshardIn es .west)),
     (stFaulted, s.halfOut (Half.ofNum (bitsOf table.toNat 33 1)))]
    (fun t => { st := t.modColl n (fun c => { c with reshard := some ⟨round, t.now + 65536, es, Config.reshardSources n round.toNat, [], [], false⟩ }), effect := t.nextBoundary }))

end Sys2Proof.Machine
end

