-- ==== Sys2Proof/Machine/ChartCmds.lean ====
section
/-! DEFINITION. UCI group 0x02, Charts and traffic management (12 R334, Tables 12-12, 12-13; 08 R226 to R234; 10 R263 to R280). -/

namespace Sys2Proof.Machine

/-! ## Chart sections (12 Table 12-13) -/

/-- Bytes of an entry of a section (a MCAST group's own length apart), and its number of entries. -/
def chartEntry : Nat → Option (Nat × Nat)
  | 0 => some (32, 1)
  | 1 => some (32, 16)
  | 2 => some (32, 240)
  | 3 => some (4, 256)
  | 4 => some (16, 64)
  | 5 => some (4, 65536)
  | 6 => some (2, 1)
  | 7 => some (40, 1)
  | 8 => some (8, 260)
  | _ => none

/-- The numbers of w bytes each from an offset of an entry. -/
def fields (e : List Byte) (o w n : Nat) : List Nat := (List.range n).map (fun i => field e (o + w * i) w)

/-- Is an entry inside the limits of 08 Table 8-12, its reserved bits 0? -/
def chartEntryOk (sec : Nat) (e : List Byte) : Bool :=
  let sizeOk := fun (n : Nat) => decide (1 ≤ n ∧ n ≤ 16)
  match sec with
  | 0 => sizeOk (field e 4 1) && sizeOk (field e 5 1) && sizeOk (field e 6 1) && decide (field e 7 1 < 8) && field e 16 16 == 0
  | 1 => decide (field e 0 1 ≤ 8) && (field e 0 1 == 0 || decide (1 ≤ field e 1 1 ∧ field e 1 1 ≤ 8)) && field e 2 2 == 0 && field e 24 8 == 0
  | 2 => decide (1 ≤ field e 4 1 ∧ field e 4 1 ≤ 4) && decide (field e 5 1 < 4) && field e 6 2 == 0
      && ((fields e 8 2 4).take (field e 4 1)).all (fun b => decide (b < 260)) && field e 24 8 == 0
  | 3 => bitsOf (field e 0 4) 2 14 == 0
  | 4 => (fields e 1 3 3).all (fun n => decide (n % 256 ≤ 16)) && (fields e 0 3 3 ++ fields e 2 3 3).all (fun n => decide (n % 256 < 16)) && decide (field e 9 1 < 2) && field e 10 6 == 0
  | 7 => decide (leNat e < 2 ^ 260)
  | 8 => decide (field e 6 2 < 2)
  | _ => true

/-- The entry of JOBS: base, length and date line of each axis. -/
def sliceOf (e : List Byte) : List SliceAxis := [0, 3, 6].map (fun o => ⟨field e o 1, field e (o + 1) 1, field e (o + 2) 1⟩)

/-- Write one entry of a section (0 to 4, 6, 7). -/
def Chart.put (c : Chart) (sec i : Nat) (e : List Byte) : Chart :=
  match sec with
  | 0 => { c with own := BitVec.ofNat 32 (field e 0 4), nx := field e 4 1, ny := field e 5 1, nz := field e 6 1,
                  wrap := BitVec.ofNat 3 (field e 7 1), salt := BitVec.ofNat 64 (field e 8 8), hasSelf := true }
  | 1 =>
    let b : BundleE := ⟨field e 0 1, BitVec.ofNat 32 (field e 4 4), (fields e 8 1 8).take (field e 1 1), (fields e 16 1 8).take (field e 1 1)⟩
    { c with bundles := Tab.set c.bundles i b }
  | 2 =>
    let f := field e 5 1
    let g : GroupE := ⟨BitVec.ofNat 32 (field e 0 4), bitOf f 0, bitOf f 1, (fields e 8 2 4).take (field e 4 1), BitVec.ofNat 64 (field e 16 8)⟩
    { c with groups := Tab.set c.groups i g }
  | 3 => { c with harbour := Tab.set c.harbour i (BitVec.ofNat 32 (field e 0 4)) }
  | 4 => { c with jobs := if bitOf (field e 9 1) 0 then Tab.set c.jobs i (sliceOf e) else Tab.erase c.jobs i }
  | 6 => { c with bypass := BitVec.ofNat 16 (field e 0 2) }
  | 7 => { c with quarantine := BitVec.ofNat 260 (leNat e) }
  | _ => c

/-- One entry of a section as its bytes (12 Table 12-13). -/
def Chart.bytesOf (c : Chart) (sec i : Nat) : List Byte :=
  match sec with
  | 0 => padTo 32 (leBytes 4 c.own.toNat ++ leBytes 1 c.nx ++ leBytes 1 c.ny ++ leBytes 1 c.nz ++ leBytes 1 c.wrap.toNat ++ leBytes 8 c.salt.toNat)
  | 1 =>
    match Tab.get? c.bundles i with
    | none => List.replicate 32 0
    | some b => padTo 32 (leBytes 1 b.role ++ leBytes 1 b.berths.length ++ [0, 0] ++ leBytes 4 b.addr.toNat
        ++ padTo 8 (b.berths.map (fun x => BitVec.ofNat 8 x)) ++ padTo 8 (b.peerBerths.map (fun x => BitVec.ofNat 8 x)))
  | 2 =>
    match Tab.get? c.groups i with
    | none => List.replicate 32 0
    | some g => padTo 32 (leBytes 4 g.addr.toNat ++ leBytes 1 g.berths.length ++ leBytes 1 (bitNat g.noSpares + 2 * bitNat g.analysis) ++ [0, 0]
        ++ padTo 8 (g.berths.flatMap (fun x => leBytes 2 x)) ++ leBytes 8 g.jobs.toNat)
  | 3 => leBytes 4 (Tab.get 0 c.harbour i).toNat
  | 4 =>
    match Tab.get? c.jobs i with
    | none => List.replicate 16 0
    | some l => padTo 16 (l.flatMap (fun a => leBytes 1 a.base ++ leBytes 1 a.len ++ leBytes 1 a.dl) ++ [1])
  | 5 =>
    match Tab.get? c.mcast i with
    | none => []
    | some ts => leBytes 4 ts.length ++ ts.flatMap (fun a => leBytes 4 a.toNat)
  | 6 => leBytes 2 c.bypass.toNat
  | 7 => leBytes 40 c.quarantine.toNat
  | _ => []

/-- A PLAN entry, as written and as its bytes. -/
def planOf (e : List Byte) : PlanE := ⟨BitVec.ofNat 32 (field e 0 4), BitVec.ofNat 16 (field e 4 2), bitOf (field e 6 2) 0⟩
def planBytes (p : Option PlanE) : List Byte :=
  match p with
  | some p => leBytes 4 p.addr.toNat ++ leBytes 2 p.berth.toNat ++ leBytes 2 (bitNat p.unused)
  | none => List.replicate 8 0

/-- The slot that CHART_WRITE writes: slot 0 before the first tide (15 Table 15-2), then the shadow slot. -/
def State.writeSlotIx (s : State) : Bool := s.tide.running && !s.chart.epoch

/-- Change the slot of an EPOCH. -/
def State.modChartSlot (s : State) (e : Bool) (f : Chart → Chart) : State :=
  s.modChart (fun c => if e then { c with slot1 := f c.slot1 } else { c with slot0 := f c.slot0 })

/-- Is the shadow slot closed to writes: armed, waiting for its T, or draining (08 R229, R230)? -/
def State.chartBusy (s : State) : Bool := s.chart.armed || s.chart.armT.isSome || s.chart.draining

/-- Is a CHART_WRITE well formed (12 R326, R334)? -/
def chartWriteOk (sec index count : Nat) (entries : List Byte) : Bool :=
  match chartEntry sec with
  | none => false
  | some (w, n) =>
    if sec = 5 then
      let k := field entries 0 2
      count == 1 && decide (1 ≤ k ∧ k ≤ 256) && field entries 2 2 == 0 && entries.length == 4 + 4 * k
    else decide (index + count ≤ n) && entries.length == w * count && (chunksOf w count entries).all (chartEntryOk sec)

/-- Write entries of a section: the plan, or the slot that is open to writes. -/
def State.chartSet (s : State) (sec i : Nat) (entries : List Byte) : State :=
  let w := ((chartEntry sec).map (fun e => e.1)).getD 1
  let es := (chunksOf w entries.length entries).zipIdx
  if sec = 8 then s.modChart (fun c => { c with plan := es.foldl (fun p e => Tab.set p (i + e.2) (planOf e.1)) c.plan })
  else if sec = 5 then
    let ts := (fields entries 4 4 (field entries 0 2)).map (fun a => BitVec.ofNat 32 a)
    let s := s.modChartSlot s.writeSlotIx (fun c => { c with mcast := Tab.set c.mcast i ts })
    s.modChart (fun c => { c with badGroups := c.badGroups.filter (fun g => g != i) })
  else s.modChartSlot s.writeSlotIx (fun c => es.foldl (fun (c : Chart) e => c.put sec (i + e.2) e.1) c)

/-- CHART_WRITE. -/
def execChartWrite (u : Uci) (section_ : Byte) (index count : U16) (entries : List Byte) (s : State) : Host.Outcome State Fault Refusal :=
  let sec := section_.toNat
  let i := index.toNat
  .next (s.uci u { code := 0x0201, len := 8 + word4 entries.length, window := true }
    [(stMalformed, !chartWriteOk sec i count.toNat entries), (stBusy, sec != 8 && s.tide.running && s.chartBusy)]
    (fun t => { st := t.chartSet sec i entries }))

/-! ## CHART_ARM -/

/-- Does a job's slice go all round an axis of this switch's ring (08 R226)? -/
def Chart.wrapsRound (c : Chart) (job ax : Nat) : Bool :=
  match Tab.get? c.jobs job with
  | none => false
  | some l =>
    let here := [0, 1, 2].all (fun a =>
      let x := l.getD a ⟨0, 0, 0⟩
      x.len == 0 || inSlice (c.size a) (addrCoord c.own.toNat a) x)
    let x := l.getD ax ⟨0, 0, 0⟩
    here && c.wraps ax && (x.len == 0 || decide (c.size ax ≤ x.len))

/-- Have two jobs partitions of their own on a berth, in the set that a swap leaves active? -/
def State.partitioned (s : State) (b j k : Nat) : Bool :=
  let x := s.half (berthHalf b)
  let ps := Tab.get [] (if x.tmArmed then x.tmShadow else x.tm).partitions b
  match ps.find? (fun p => p.job == j), ps.find? (fun p => p.job == k) with
  | some p, some q => p.part != q.part
  | _, _ => false

/-- Does a Chart put two jobs with different date lines on one berth without separate partitions (08 R226)? -/
def State.dateLineClash (s : State) (c : Chart) : Bool :=
  [0, 1, 2].any (fun ax =>
    let js := c.jobs.keys.filter (fun j => c.wrapsRound j ax)
    let bs := c.roleBerths (axisRole ax true) ++ c.roleBerths (axisRole ax false)
    js.any (fun j => js.any (fun k => (c.slice j ax).dl != (c.slice k ax).dl && bs.any (fun b => !s.partitioned b j k))))

/-- Has a job data in movement: a data-movement record that is not EMPTY, a gather outstanding, a round not finished (08 R231)? -/
def State.moving (s : State) (job : Nat) : Bool :=
  s.colls.any (fun e => e.2.job == job && e.2.state != 0 && (decide (4 ≤ bitsOf e.2.ctl.toNat 28 4 ∧ bitsOf e.2.ctl.toNat 28 4 ≤ 9) || e.2.reshard.isSome))
    || !(s.job job).outstanding.isEmpty

/-- Does a Chart change a table that routes a job's packets (08 R231; which groups a job uses is not told: log entry 38)? -/
def Chart.reroutes (c d : Chart) (job : Nat) : Bool :=
  c.own != d.own || c.nx != d.nx || c.ny != d.ny || c.nz != d.nz || c.wrap != d.wrap || c.salt != d.salt || c.bundles != d.bundles
    || c.groups != d.groups || c.harbour != d.harbour || c.mcast != d.mcast || Tab.get? c.jobs job != Tab.get? d.jobs job

/-- CHART_ARM: the swap is at T (08 R229). -/
def execChartArm (u : Uci) (t : U64) (s : State) : Host.Outcome State Fault Refusal :=
  let at_ : TideNo := t.setWidth 48
  let new := s.chartOf (!s.chart.epoch)
  .next (s.uci u { code := 0x0202, len := 8, doze := false }
    [(stMalformed, decide (2 ^ 48 ≤ t.toNat)),
     (stState, s.dateLineClash new || (List.range 64).any (fun j => s.moving j && s.active.reroutes new j)),
     (stBusy, s.chartBusy), (stTiming, tideReached (s.now + 3) at_), (stFaulted, s.anySafe)]
    (fun x => { st := x.modChart (fun c => { c with armT := some at_ }), effect := some at_ }))

/-! ## CHART_READ, DISCOVERY_REPORT, LIFT -/

/-- CHART_READ. PLAN is not part of a slot. -/
def execChartRead (u : Uci) (slot section_ : Byte) (index count : U16) (s : State) : Host.Outcome State Fault Refusal :=
  let sec := section_.toNat
  let i := index.toNat
  let n := if sec = 5 then 1 else count.toNat
  let c := s.chartOf (if slot = 0 then s.chart.epoch else !s.chart.epoch)
  .next (s.uci u { code := 0x0203, len := 8, window := true }
    [(stMalformed, decide (1 < slot.toNat) || (match chartEntry sec with
      | some (_, k) => decide (k < i + n)
      | none => true))]
    (fun t => { st := t, body := (rangeFrom i n).flatMap (fun j => if sec = 8 then planBytes (Tab.get? s.chart.plan j) else c.bytesOf sec j) }))

/-- DISCOVERY_REPORT. -/
def execDiscoveryReport (u : Uci) (s : State) : Host.Outcome State Fault Refusal :=
  .next (s.uci u { code := 0x0204, len := 0, window := true } []
    (fun t => { st := t, body := (List.range 260).flatMap (fun b =>
      let y := t.berth b
      let (sb, sa) := (y.seen.map (fun (d : DiscoverCell) => (d.berth, d.addr))).getD (0, 0)
      [y.outcome.setWidth 8, sb, 0, 0] ++ leBytes 4 sa.toNat) }))

/-- Lift the discovery quarantine of a berth, or the bypass select of a bundle (08 R232, R234). -/
def State.liftQ (s : State) (b : Nat) : State := s.modBerth b (fun y => { y with quarDisc := false })
def State.liftB (s : State) (i : Nat) : State := s.modChart (fun c => { c with bypassSel := c.bypassSel &&& ~~~(BitVec.ofNat 16 (2 ^ i)) })

/-- LIFT. -/
def execLift (u : Uci) (kind : Byte) (index : U16) (s : State) : Host.Outcome State Fault Refusal :=
  let i := index.toNat
  let bs := if kind = 0 then [i] else ((Tab.get? s.active.bundles i).map (fun (b : BundleE) => if b.role = 0 then [] else b.berths)).getD []
  .next (s.uci u { code := 0x0205, len := 4, window := true }
    [(stMalformed, decide (1 < kind.toNat) || decide ((if kind = 0 then 260 else 16) ≤ i)),
     (stState, bs.isEmpty || bs.any (fun b => (s.berth b).outcome != 0))]
    (fun t =>
      let t' :=
        if t.tide.running then
          t.modChart (fun c => if kind = 0 then { c with pLiftQ := insertNew i c.pLiftQ } else { c with pLiftB := insertNew i c.pLiftB })
        else if kind = 0 then t.liftQ i else t.liftB i
      { st := t', effect := t.nextBoundary }))

/-! ## TM_WRITE and TM_ARM -/

/-- Bytes of an entry of a section of the set, and its number of entries (12 Table 12-12; log entry 38 for partitions). Output and throttle
entries are of the sub-ports that face berths (10 R263, R275). -/
def tmEntry : Nat → Option (Nat × Nat)
  | 0 => some (8, 288)
  | 1 => some (4, 3072)
  | 2 => some (16, 4096)
  | 3 => some (8, 1152)
  | 4 => some (32, 1040)
  | _ => none

/-- Is a quantum in range (10 R263, R266)? -/
def quantOk (q : Nat) : Bool := decide (4620 ≤ q ∧ q ≤ 65535)

/-- Is an entry one that firmware accepts at an index (10 R263, R270, R272, R275)? -/
def tmEntryOk (h : Half) (sec i : Nat) (e : List Byte) : Bool :=
  let x := leNat e
  match sec with
  | 0 => facesBerth i && quantOk (bitsOf x 0 16) && quantOk (bitsOf x 16 16) && quantOk (bitsOf x 32 16) && bitsOf x 48 10 == 0
  | 1 => if i % 8 < 2 then x == 0 else !bitOf x 31 || decide (6 ≤ i % 8)
  | 2 =>
    let p := BitVec.ofNat 128 x
    decide (polIngress p ≤ 0x81) && bitsOf x 8 2 == 0 && bitsOf x 1 3 == 0 && decide (polRed p < 2) && decide (polYel p < 2)
      && decide (polCir p ≤ polPir p) && decide (16 * polCir p ≤ polCbs p) && decide (16 * polPir p ≤ polPbs p)
  | 3 => facesBerth (i / 4) && i % 4 != 0 && decide (thrLo x < thrHi x) && thrLevel x != 0 && thrDur x != 0 && bitsOf x 32 8 == 0 && bitsOf x 56 8 == 0
  | _ =>
    let b := field e 0 2
    decide (b < 260) && berthHalf b == h && decide (field e 2 1 < 8) && decide (field e 3 1 < 64) && quantOk (field e 4 2) && field e 6 2 == 0
      && field e 12 4 == 0

/-- Write an entry into a set. A partition entry names its berth and place itself. -/
def TmSet.put (t : TmSet) (sec i : Nat) (e : List Byte) : TmSet :=
  match sec with
  | 0 => { t with outputs := Tab.set t.outputs i (BitVec.ofNat 64 (leNat e)) }
  | 1 => { t with credits := Tab.set t.credits i (BitVec.ofNat 32 (leNat e)) }
  | 2 => { t with policers := Tab.set t.policers i (BitVec.ofNat 128 (leNat e)) }
  | 3 => { t with throttles := Tab.set t.throttles i (BitVec.ofNat 64 (leNat e)) }
  | _ =>
    let p : PartitionE := ⟨field e 2 1, field e 3 1, field e 4 2, field e 8 4, fields e 16 2 8⟩
    { t with partitions := Tab.upd [] t.partitions (field e 0 2) (fun l => l.filter (fun q => q.part != p.part) ++ [p]) }

def TmSet.puts (t : TmSet) (sec i : Nat) (es : List (List Byte)) : TmSet := es.zipIdx.foldl (fun (t : TmSet) e => t.put sec (i + e.2) e.1) t

/-- Name two valid policers the same berth and job (10 R272)? -/
def TmSet.twoPolicers (t : TmSet) : Bool :=
  let v := (t.policers.filter (fun e => polValid e.2)).map (fun e => (polIngress e.2, polJob e.2))
  v.zipIdx.any (fun a => v.zipIdx.any (fun b => a.1 == b.1 && a.2 != b.2))

/-- Is a TM_WRITE well formed (12 R334)? -/
def tmWriteOk (sec half i count : Nat) (entries : List Byte) : Bool :=
  let w := ((tmEntry sec).map (fun e => e.1)).getD 1
  let n := ((tmEntry sec).map (fun e => e.2)).getD 0
  decide (half < 2) && decide (i + count ≤ n) && (entries.length == w * count)
    && (chunksOf w count entries).zipIdx.all (fun e => tmEntryOk (Half.ofNum half) sec (i + e.2) e.1)

/-- Write entries of a section of a half's set. -/
def State.tmSet (s : State) (h : Half) (sec i : Nat) (entries : List Byte) : State :=
  let es := chunksOf (((tmEntry sec).map (fun e => e.1)).getD 1) entries.length entries
  s.modHalf h (fun x =>
    let set := x.tmShadow.puts sec i es
    if s.tide.running then { x with tmShadow := set } else { x with tmShadow := set, tm := set })

/-- TM_WRITE: writes the shadow set; before the first tide the first set itself (15 Table 15-2). -/
def execTmWrite (u : Uci) (section_ half : Byte) (index count : U16) (entries : List Byte) (s : State) : Host.Outcome State Fault Refusal :=
  let sec := section_.toNat
  let i := index.toNat
  let h := Half.ofNum half.toNat
  let es := chunksOf (((tmEntry sec).map (fun e => e.1)).getD 1) count.toNat entries
  .next (s.uci u { code := 0x0206, len := 8 + word4 entries.length, window := true }
    [(stMalformed, !tmWriteOk sec half.toNat i count.toNat entries || ((s.half h).tmShadow.puts sec i es).twoPolicers), (stBusy, (s.half h).tmArmed)]
    (fun t => { st := t.tmSet h sec i entries }))

/-- The pallets that a set reserves (09 R248, 10 R270). -/
def TmSet.reserved (t : TmSet) : Nat := (t.credits.map (fun e => if e.1 % 8 < 2 then 0 else bitsOf e.2.toNat 0 16)).sum

/-- Does a berth's partitioning keep 10 R280: at most 251,600 B per tide committed, and each PQUANT proportional to its rate
within 1 %? -/
def ratesOk (ps : List PartitionE) : Bool :=
  let r := (ps.map (fun p => p.cir)).sum
  let q := (ps.map (fun p => p.quant)).sum
  decide (r ≤ 251600) && ps.all (fun p => decide (100 * (p.quant * r) ≤ 101 * (p.cir * q) ∧ 99 * (p.cir * q) ≤ 100 * (p.quant * r)))

/-- The halves that a selector names: 0 East, 1 West, 2 both. -/
def halvesOf (n : Nat) : List Half := if n = 2 then [.east, .west] else [Half.ofNum n]

/-- TM_ARM: the set is swapped in at the next boundary. -/
def execTmArm (u : Uci) (half : Byte) (s : State) : Host.Outcome State Fault Refusal :=
  let hs := halvesOf half.toNat
  .next (s.uci u { code := 0x0207, len := 4, doze := false }
    [(stMalformed, decide (2 < half.toNat)), (stState, hs.any (fun h => (s.half h).tmShadow.partitions.any (fun e => !ratesOk e.2))),
     (stBusy, hs.any (fun h => (s.half h).tmArmed)), (stResource, hs.any (fun h => decide (147456 < (s.half h).tmShadow.reserved))),
     (stFaulted, hs.any (fun h => s.halfSafe h || s.halfOut h))]
    (fun t => { st := hs.foldl (fun s h => s.modHalf h (fun x => { x with tmArmed := true })) t, effect := t.nextBoundary }))

end Sys2Proof.Machine
end

