-- ==== Sys2Proof/Machine/System.lean ====
section
/-! DEFINITION. UCI group 0x01, system: identification, jobs' owners, the tide, berths, the host's rings, resets and firmware (12
R332, R333, Tables 12-10, 12-11). -/

namespace Sys2Proof.Machine

/-! ## VERSION -/

/-- The other bank's code (12 Table 12-11): 3 while an update fills it. -/
def BootSt.otherBank (b : BootSt) : Byte :=
  if b.fwSize.isSome && !b.waitHost then 3 else (if b.bank then b.bank0 else b.bank1).state

/-- The VERSION reply (12 Table 12-11). -/
def State.versionBytes (s : State) : List Byte :=
  let b := s.boot
  (List.range 4).map Config.versionByte ++ leBytes 4 s.mbox.fwId.toNat ++ leBytes 4 ((b.image.map (fun (i : ImageInfo) => i.build)).getD 0).toNat
    ++ leBytes 4 b.svn ++ leBytes 4 s.sec.minSvn.toNat ++ [if b.bank then 1 else 0, b.otherBank] ++ leBytes 2 1
    ++ leBytes 8 Config.serial.toNat ++ bvBytes 48 b.imageDigest ++ bvBytes 48 b.configDigest ++ leBytes 4 s.stateWord

/-- VERSION. -/
def execVersion (u : Uci) (s : State) : Host.Outcome State Fault Refusal :=
  .next (s.uci u { code := 0x0101, len := 0, sender := .any, window := true, anchor := true, rom := true } []
    (fun t => { st := t, body := t.versionBytes }))

/-! ## JOB_OWNER -/

/-- JOB_OWNER. -/
def execJobOwner (u : Uci) (job owner : Byte) (s : State) : Host.Outcome State Fault Refusal :=
  let j := job.toNat
  .next (s.uci u { code := 0x0102, len := 4, window := true }
    [(stMalformed, decide (64 ≤ j) || (decide (9 < owner.toNat) && owner != 0xF)),
     (stState, s.jobLive j || s.jobUpdating j || !(s.job j).granules.isEmpty)]
    (fun t => { st := t.modJob j (fun x => { x with owner := owner.setWidth 4 }) }))

/-! ## The tide (02 R57) -/

/-- Do the fields of a TIDE_CONFIG fit its mode? -/
def tideFits (mode : Byte) (parent backup : U16) (start : U64) : Bool :=
  let par := parent.toNat
  let bak := backup.toNat
  decide (start.toNat < 2 ^ 48) && (match mode.toNat with
    | 1 => start == 0 && par == 0xFFFF && bak == 0xFFFF
    | 2 => start == 0 && decide (par < 260) && (bak == 0xFFFF || (decide (bak < 260) && bak != par))
    | 3 => par == 0xFFFF && bak == 0xFFFF
    | _ => false)

/-- TIDE_CONFIG: before the first tide at once, after it at the next boundary. -/
def execTideConfig (u : Uci) (mode trim : Byte) (parent backup : U16) (start : U64) (s : State) : Host.Outcome State Fault Refusal :=
  let cfg : TideCfg := ⟨mode.setWidth 3, trim, parent, backup, start.setWidth 48⟩
  let run := s.tide.running
  .next (s.uci u { code := 0x0103, len := 16, window := true }
    [(stMalformed, !tideFits mode parent backup start), (stState, run && s.anyLive), (stLocked, run && start != 0)]
    (fun t => { st := t.modTide (fun x => if run then { x with pCfg := some cfg } else { x with cfg := cfg, pCfg := none }), effect := t.nextBoundary }))

/-- TIDE_ASYM. -/
def execTideAsym (u : Uci) (berth asym : U16) (s : State) : Host.Outcome State Fault Refusal :=
  let run := s.tide.running
  .next (s.uci u { code := 0x0104, len := 4, window := true } [(stMalformed, decide (259 < berth.toNat))]
    (fun t =>
      let t' := t.modTide (fun x =>
        if run then { x with pAsym := Tab.set x.pAsym berth.toNat asym } else { x with asym := Tab.set x.asym berth.toNat asym })
      { st := t', effect := t.nextBoundary }))

/-- TIDE_RELOCK: the next accepted edge lengthens the tide (02 R34). -/
def execTideRelock (u : Uci) (s : State) : Host.Outcome State Fault Refusal :=
  .next (s.uci u { code := 0x0105, len := 0 }
    [(stState, s.anyLive || s.tide.cfg.mode != modeFollow || !s.tide.running)]
    (fun t => { st := t.modTide (fun x => { x with relock := true }) }))

/-! ## Berths (11 R299 to R307) -/

/-- A berth in Ethernet mode comes up once the lanes are brought up (log entry 36). -/
def State.ethUp (s : State) (b : Nat) : State :=
  let y := s.berth b
  if y.eth && !y.up && s.boot.lanesUp && (s.half (berthHalf b)).inUse && y.lstate != 2 && !s.berthSafe b then
    s.modBerth b (fun y => { y with up := true, lstate := 0, xoffAt := none, paused := false, pauseTx := [] })
  else s

/-- BERTH_MODE: before the first tide, or while its half restarts (15 R396, R403); a berth already trained in the other mode
retrains. -/
def execBerthMode (u : Uci) (lsx mode : Byte) (etherType : U16) (ownMac peerMac : BitVec 48) (s : State) :
    Host.Outcome State Fault Refusal :=
  let b := 256 + lsx.toNat % 4
  let eth := mode == 1
  .next (s.uci u { code := 0x0106, len := 16, window := true }
    [(stMalformed, decide (3 < lsx.toNat ∨ 1 < mode.toNat)), (stLocked, s.tide.running && (s.half (berthHalf b)).restart == 0)]
    (fun t =>
      let t := if (t.berth b).eth != eth then t.berthDown b else t
      let t := t.modBerth b (fun y => { y with eth := eth, etherType := etherType, ownMac := ownMac, peerMac := peerMac })
      { st := t.ethUp b }))

/-- A failure of the start-up: FAULT_N is asserted, and the first code since reset stands; the boot ROM keeps one from before the
image runs (15 R401). With no half left in service the boot halts. -/
def State.bootFail (s : State) (code : Nat) : State :=
  let c := BitVec.ofNat 8 code
  let s := (s.modBoot (fun b => { b with
    fail := if b.fail = 0 then c else b.fail
    early := if s.mbox.uciReady then b.early else b.early ++ [c] })).modFault (fun f => { f with faultN := true })
  let gone := fun (x : HalfSt) => !x.started && decide (6 ≤ x.stageDone)
  if gone s.east && gone s.west then s.modBoot (fun b => { b with failed := true, fail := if b.fail = 0 then 0x40 else b.fail }) else s

/-- A page of the ring that cannot be used (12 POOL_SETUP: R259, R444): unaligned, or outside the general area. -/
def pageBad (a : U64) : Bool := a.toNat % 4096 != 0 || decide (a.toNat < 0x2000_0000 ∨ 2 ^ 33 < a.toNat + 4096)

/-- Is a page inside some job's Quay allocation of a half (01 R444)? -/
def State.pageTaken (s : State) (h : Half) (a : U64) : Bool :=
  s.jobs.any (fun e => (e.2.quayOf h).any (fun q => decide (q.1 < a.toNat + 4096 ∧ a.toNat < q.1 + q.2)))

/-- A half's switch in reset: what firmware holds of it stays, and the free store's pages. -/
def HalfSt.inReset (x : HalfSt) (restart : Nat) : HalfSt :=
  { pool := { p6 := x.pool.p6, salt := x.pool.salt, pages := x.pool.pages }, restart := restart, tm := x.tm, tmShadow := x.tmShadow,
    ctrlMover := x.ctrlMover, streamMovers := x.streamMovers, stackMovers := x.stackMovers, bridgeDown := x.bridgeDown, light := x.light, lightCap := x.lightCap, safe := x.safe }

/-- A berth in reset: its mode and what firmware keeps of it stay. -/
def BerthSt.inReset (y : BerthSt) : BerthSt :=
  { eth := y.eth, etherType := y.etherType, ownMac := y.ownMac, peerMac := y.peerMac, quarFence := y.quarFence, quarDisc := y.quarDisc,
    dozeDelay := y.dozeDelay, dozeAllowed := y.dozeAllowed, bwTx := false, safe := y.safe }

/-- The lanes, tiles and switch of a half are in reset. -/
def State.clearHalf (s : State) (h : Half) (restart : Nat) : State :=
  let s := s.modHalf h (fun x => x.inReset restart)
  { s with
    berths := Tab.mapV s.berths (fun b y => if berthHalf b = h then y.inReset else y)
    oes := s.oes.filter (fun e => berthHalf (16 * e.1) != h)
    tiles := s.tiles.filter (fun e => tileHalf e.1 != h) }

/-- Build the free store of a started half from its page list (09 R257, R258, 15 R397): a list that is not there yet builds none, and
one that R259 refuses leaves the half in reset. -/
def State.buildPool (s : State) (h : Half) : State :=
  let x := s.half h
  if !x.started || x.pool.pages.isEmpty then s
  else if x.pool.pagesOk then s.buildStore h
  else
    let s := (s.clearHalf h 0).modHalf h (fun x => { x with stageDone := 7 })
    (s.modBoot (fun b => match h with
      | .east => { b with eastUp := false }
      | .west => { b with westUp := false })).bootFail (0x24 + h.num)

/-- POOL_SETUP: for a started half before the first tide, or while it restarts (15 R396, R403). After stage 11 the store is built at
once. -/
def execPoolSetup (u : Uci) (half mode : Byte) (salt : U64) (pages : List U64) (s : State) : Host.Outcome State Fault Refusal :=
  let h := Half.ofNum half.toNat
  let x := s.half h
  .next (s.uci u { code := 0x0107, len := 1456, window := true }
    [(stMalformed, decide (1 < half.toNat ∨ 1 < mode.toNat) || pages.length != 180 || pages.any pageBad),
     (stState, !x.started && x.restart == 0), (stResource, pages.any (s.pageTaken h)), (stLocked, s.tide.running && x.restart == 0)]
    (fun t =>
      let t := t.modHalf h (fun x => { x with pool := { x.pool with p6 := mode == 1, salt := salt, pages := pages } })
      { st := if s.boot.stage = 12 then t.buildPool h else t }))

/-- Does a berth carry a LIVE stream's ring: does it face the previous or next switch of one (11 R300)? -/
def State.onRing (s : State) (b : Nat) : Bool :=
  s.streams.any (fun e => e.2.state == .live && e.2.cfg.any (fun m => decide (1 < m.ringN)
    && (decide (b ∈ s.facing m.upAddr.toNat) || decide (b ∈ s.facing m.downAddr.toNat))))

/-- What LANE_STATE names: the berths of its target. -/
def laneBerths (target : Nat) : List Nat := if target < 260 then [target] else if 0x8000 ≤ target then oeBerths (target - 0x8000) else []

/-- Is a LANE_STATE well formed (12 Table 12-10)? -/
def laneStateOk (target state dozeDelay : Nat) : Bool :=
  match state with
  | 0 | 1 => decide (target < 260)
  | 2 | 3 => ((decide (256 ≤ target ∧ target < 260)) || decide (0x8000 ≤ target ∧ target < 0x8010)) && dozeDelay == 0
  | _ => false

/-- Apply a LANE_STATE. -/
def State.setLaneState (s : State) (target state dozeDelay : Nat) : State :=
  match state with
  | 0 =>
    s.modBerth target (fun y => { y with
      dozeAllowed := false, dozeAsked := false, dozeDelay := if dozeDelay = 0 then y.dozeDelay else dozeDelay,
      orderedSet := if y.lstate = 1 then osWake else if y.orderedSet = osDozeReq then 0 else y.orderedSet })
  | 1 => s.modBerth target (fun y => { y with dozeAllowed := true, dozeDelay := if dozeDelay = 0 then y.dozeDelay else dozeDelay })
  | 2 =>
    let s := (laneBerths target).foldl (fun s b => (s.downEvent b).modBerth b (fun y => { y with lstate := 2, dozeAsked := false })) s
    if 0x8000 ≤ target then s.modOe (target - 0x8000) (fun o => { o with deep := true, relocking := false }) else s
  | _ =>
    if 0x8000 ≤ target then s.modOe (target - 0x8000) (fun o => if o.deep then { o with relocking := true } else o)
    else s.modBerth target (fun y => if y.lstate = 2 then { y with dozeAsked := true } else y)

/-- Set a loop, or end it: its errors start anew, and the ordered set follows. -/
def State.setLoop (s : State) (b kind pattern : Nat) : State :=
  s.modBerth b (fun y =>
    if y.loopKind.toNat = kind ∧ y.loopPattern.toNat = pattern then y
    else { y with
      loopKind := BitVec.ofNat 2 kind, loopPattern := BitVec.ofNat 8 pattern, loopErrors := 0,
      orderedSet := if kind = 3 then osLoopEnter else if y.loopKind = 3 then osLoopExit else y.orderedSet })

/-- Do what a lane command asks. -/
def State.applyLane (s : State) (c : LaneCmd) : State :=
  match c with
  | .state target st d => s.setLaneState target st d
  | .loop b kind pattern => s.setLoop b kind pattern

/-- The berths of a lane command. -/
def LaneCmd.berths : LaneCmd → List Nat
  | .state target _ _ => laneBerths target
  | .loop b _ _ => [b]

/-- Accept a lane command: it changes its berths at the next boundary, before the first tide at once (12 R330). -/
def State.askLane (s : State) (c : LaneCmd) : State :=
  if s.tide.running then s.modMbox (fun m => { m with pLanes := m.pLanes ++ [c] }) else s.applyLane c

/-- The lane commands at a boundary, in the order of acceptance; those of a half whose swaps are withheld wait (01 R19). Log entry 77. -/
def State.lanesAt (s : State) : State :=
  let held := fun (c : LaneCmd) => c.berths.any (fun b => s.withheld (berthHalf b))
  let go := s.mbox.pLanes.filter (fun c => !held c)
  go.foldl (fun (s : State) c => s.applyLane c) (s.modMbox (fun m => { m with pLanes := m.pLanes.filter held }))

/-- LANE_STATE. -/
def execLaneState (u : Uci) (target : U16) (state : Byte) (dozeDelay : U32) (s : State) : Host.Outcome State Fault Refusal :=
  let t0 := target.toNat
  let bs := laneBerths t0
  .next (s.uci u { code := 0x0108, len := 8, window := true }
    [(stMalformed, !laneStateOk t0 state.toNat dozeDelay.toNat),
     (stState, (state == 1 || state == 2) && bs.any (fun b => s.isParent b)),
     (stState, state == 2 && bs.any (fun b => s.onRing b)),
     (stState, s.inWindow && decide (s.boot.stage.toNat < 8)), (stFaulted, bs.any (fun b => s.halfOut (berthHalf b)))]
    (fun t => { st := t.askLane (.state t0 state.toNat dozeDelay.toNat), effect := t.nextBoundary }))

/-- LANE_LOOP: sets or ends a loop and answers its errors; the same loop named again is only read. -/
def execLaneLoop (u : Uci) (berth : U16) (loop pattern : Byte) (s : State) : Host.Outcome State Fault Refusal :=
  let b := berth.toNat
  let y := s.berth b
  let near := loop == 1 || loop == 2
  let same := y.loopKind == loop.setWidth 2 && y.loopPattern == pattern
  .next (s.uci u { code := 0x0109, len := 4, window := true }
    [(stMalformed, decide (259 < b ∨ 3 < loop.toNat ∨ 1 < pattern.toNat)), (stState, near && y.up && !s.quarantined b),
     (stState, s.inWindow && decide (s.boot.stage.toNat < 8)), (stFaulted, s.halfOut (berthHalf b))]
    (fun t =>
      let errors := if same || loop == 0 then (t.berth b).loopErrors else 0
      if same then { st := t, body := leBytes 8 errors }
      else { st := t.askLane (.loop b loop.toNat pattern.toNat), body := leBytes 8 errors, effect := t.nextBoundary }))

/-! ## Package reset (15 R388, R402) -/

/-- The package is reset: what the OTP, the flash, the memory stacks and the thermal comparators hold stays; the keys go, and debug
follows the lifecycle (14 R368, Table 14-5, 07 R172). An update under way leaves its bank invalid. The queue of commands and the
counters of the free values are the model's own. -/
def State.packageReset (s : State) : State :=
  let sec := s.sec
  let bank := fun (k : BankSt) => if k.state = 3 then { k with state := 2, image := none, bytes := [] } else k
  let b := s.boot
  { State.reset with
    pending := s.pending
    freeCtr := s.freeCtr
    nextId := s.nextId
    tap := s.tap
    hold := s.hold
    holdEpoch := s.holdEpoch
    quayE := s.quayE
    quayW := s.quayW
    fault := { log := s.fault.log, boots := s.fault.boots, therm := s.fault.therm, thermtripN := s.fault.thermtripN, hot := s.fault.hot }
    sec := { lifecycle := sec.lifecycle, dbg := if sec.lifecycle = 1 then 2 else 0, power := 0, idKey := sec.idKey, ownerKey := sec.ownerKey,
             logKey := sec.logKey, keySerial := sec.keySerial, otp := sec.otp, minSvn := sec.minSvn }
    boot := { bank0 := bank b.bank0, bank1 := bank b.bank1, committed := b.committed, rails := b.rails, pgHold := b.pgHold,
              pgQuay := b.pgQuay, pgOe := b.pgOe, perstN := b.perstN } }

/-! ## Host rings and resets -/

/-- HOST_RING: from the function itself (11 R310). -/
def execHostRing (u : Uci) (log2 enable : Byte) (txBase txProd txCons rxBase rxProd rxCons : U64) (s : State) :
    Host.Outcome State Fault Refusal :=
  let f := (s.senderOf u).toNat
  .next (s.uci u { code := 0x010A, len := 56, sender := .func }
    [(stMalformed, decide (log2.toNat < 4 ∨ 12 < log2.toNat ∨ 1 < enable.toNat) || txBase.toNat % 4096 != 0 || rxBase.toNat % 4096 != 0
        || [txProd, txCons, rxProd, rxCons].any (fun a => a.toNat % 4 != 0)),
     (stState, decide (f ∉ s.port.busMaster)), (stFaulted, s.halfOut .west)]
    (fun t =>
      let r : RingSt := { log2 := log2.toNat, bases := [txBase, txProd, txCons, rxBase, rxProd, rxCons] }
      let t' := t.modPort (fun p => { p with rings := if enable = 1 then Tab.set p.rings f r else Tab.erase p.rings f })
      { st := t' }))

/-- RESET: the reply is posted, and the reset starts at the next boundary; without a tide generator, at once (15 R402, R403; log
entry 37). -/
def execReset (u : Uci) (scope : Byte) (s : State) : Host.Outcome State Fault Refusal :=
  let h := Half.ofNum (scope.toNat - 1)
  let half := scope == 1 || scope == 2
  .next (s.uci u { code := 0x010B, len := 4, window := true, anchor := scope == 3 }
    [(stMalformed, decide (scope.toNat < 1 ∨ 3 < scope.toNat)),
     (stState, half && (!(s.half h.other).inUse || (s.half h.other).resetAt.isSome || (s.half h).resetAt.isSome || !(s.half h).inUse))]
    (fun t =>
      if half then { st := t.modHalf h (fun x => { x with resetAt := some (t.now + 1) }), effect := t.nextBoundary }
      else { st := if t.sec.power = 2 then t.packageReset else t.modBoot (fun b => { b with resetDue := true }) }))

/-! ## Firmware (12 R333, 15 R391) -/

/-- Change a bank: 0 or 1. -/
def BootSt.modBank (b : BootSt) (one : Bool) (f : BankSt → BankSt) : BootSt :=
  if one then { b with bank1 := f b.bank1 } else { b with bank0 := f b.bank0 }

/-- A stage begins (15 R400): STAGE_TIME counts the generator's periods of 2.56 us (log entry 47). -/
def State.toStage (s : State) (n : Nat) : State :=
  let ms := s.tide.periods * 256 / 100000
  s.modBoot (fun b => { b with stage := BitVec.ofNat 4 n, stageTime := BitVec.ofNat 32 ms, stagePeriod := s.tide.periods })

/-- What the configuration block sets, as far as firmware would take it from a command; a later write replaces it (15 R395, R397,
R398). -/
def State.applyBlock (s : State) : State :=
  match s.boot.block with
  | none => s
  | some c =>
    let s := c.chart.foldl (fun (s : State) e =>
      let sec := e.1.toNat
      let n := if sec = 5 then 1 else e.2.2.length / (((chartEntry sec).map (fun e => e.1)).getD 1)
      if chartWriteOk sec e.2.1.toNat n e.2.2 then s.chartSet sec e.2.1.toNat e.2.2 else s) s
    let s := c.tm.foldl (fun (s : State) e =>
      let sec := e.1.toNat
      let n := e.2.2.2.length / (((tmEntry sec).map (fun e => e.1)).getD 1)
      if tmWriteOk sec e.2.1.toNat e.2.2.1.toNat n e.2.2.2 then s.tmSet (Half.ofNum e.2.1.toNat) sec e.2.2.1.toNat e.2.2.2 else s) s
    let s := match c.tide with
      | some (mode, trim, parent, backup, start) =>
        if tideFits mode parent backup start then
          s.modTide (fun x => { x with cfg := ⟨mode.setWidth 3, trim, parent, backup, start.setWidth 48⟩ })
        else s
      | none => s
    c.pools.foldl (fun (s : State) (e : Byte × Byte × U64 × List U64) => s.modHalf (Half.ofNum e.1.toNat) (fun x =>
      { x with pool := { x.pool with p6 := e.2.1 == 1, salt := e.2.2.1, pages := e.2.2.2 } })) s

/-- Uzorik enters the failures that the boot ROM kept as fault records (15 R401): faults that name no action beyond the record. Log entry
55. -/
def State.enterEarly (s : State) : State :=
  let r := fun (c : Byte) => ({
    seq := 0, source := Config.bootSource c.toNat, cls := 1, action := 0, first := s.now, merge := 0, isOpen := true, overflow := false,
    last := s.now, count := 0, detail := 0, localDone := true, scope := none } : Rec)
  (s.modFault (fun f => s.boot.early.foldl (fun (f : FaultSt) c => (f.newRec (r c)).1) f)).modBoot (fun b => { b with early := [] })

/-- An image starts on both pairs: UCI_READY becomes 1 and stage 6 begins. -/
def State.startImage (s : State) (i : ImageInfo) (bank host : Bool) : State :=
  let s := s.modBoot (fun b => { b with image := some i, bank := bank, hostImage := host, waitHost := false })
  let s := (s.toStage 6).modMbox (fun m => { m with uciReady := true, fwId := i.version })
  let s := s.modSec (fun x => { x with readyA := s.hmUp 0, readyB := s.hmUp 1 })
  s.enterEarly.applyBlock

/-- The test of an image (12 R333, 14 R374); at boot the lifecycle mask counts too: bit l - 1 for lifecycle l. -/
def State.imageOk (s : State) (i : ImageInfo) (boot : Bool) : Bool :=
  i.sigOk && decide (s.sec.minSvn.toNat ≤ i.svn.toNat) && (!boot || i.lifecycleMask.getLsbD (s.sec.lifecycle.toNat - 1))

/-- Is the boot ROM waiting for a host image? -/
def State.hostLoad (s : State) : Bool := !s.mbox.uciReady

/-- Is a load under way that this sender may go on with? -/
def State.loading (s : State) (u : Uci) : Bool :=
  s.boot.fwSize.isSome && (!s.hostLoad || s.boot.fwWho == (s.senderOf u).toNat)

/-- FW_BEGIN: erases the inactive bank, or at boot starts the load into Harbour Master memory. -/
def execFwBegin (u : Uci) (size : U32) (s : State) : Host.Outcome State Fault Refusal :=
  let who := (s.senderOf u).toNat
  .next (s.uci u { code := 0x010C, len := 4, window := true, anchor := true, rom := true }
    [(stMalformed, decide (size.toNat < 4096 ∨ 2 ^ 24 < size.toNat)), (stState, s.hostLoad && !s.boot.waitHost),
     (stBusy, s.boot.fwSize.isSome && (!s.hostLoad || s.boot.fwWho != who))]
    (fun t => { st := t.modBoot (fun b =>
      let b := { b with fwSize := some size.toNat, fwNext := 0, fwBuf := [], fwWho := who }
      if t.hostLoad then b else b.modBank (!b.bank) (fun _ => { state := 3 })) }))

/-- FW_DATA. -/
def execFwData (u : Uci) (offset : U32) (len : U16) (data : List Byte) (s : State) : Host.Outcome State Fault Refusal :=
  let n := len.toNat
  let o := offset.toNat
  .next (s.uci u { code := 0x010D, len := 8 + word4 n, window := true, anchor := true, rom := true }
    [(stMalformed, decide (n < 1 ∨ 4056 < n) || data.length != n
        || (s.loading u && (decide (s.boot.fwSize.getD 0 < o + n) || o != s.boot.fwNext))),
     (stState, (s.hostLoad && !s.boot.waitHost) || !s.loading u)]
    (fun t => { st := t.modBoot (fun b =>
      let b := { b with fwNext := o + n, fwBuf := b.fwBuf.writeBytes o data }
      if t.hostLoad then b else b.modBank (!b.bank) (fun k => { k with bytes := b.fwBuf })) }))

/-- FW_COMMIT: an accepted image makes its bank valid, or at boot starts; a rejected one leaves the bank invalid. Either ends the
update. -/
def execFwCommit (u : Uci) (img : ImageInfo) (s : State) : Host.Outcome State Fault Refusal :=
  let ok := s.imageOk img s.hostLoad
  let ready := s.loading u && s.boot.fwSize == some s.boot.fwNext
  let ended := fun (b : BootSt) => { b with fwSize := none, fwNext := 0, fwBuf := [] }
  .next (s.uciWith u { code := 0x010E, len := 0, window := true, anchor := true, rom := true }
    [(stState, (s.hostLoad && !s.boot.waitHost) || !ready), (stAuth, ready && !ok)]
    (fun k t =>
      if k ≠ stAuth then t
      else t.modBoot (fun b => if t.hostLoad then ended b else (ended b).modBank (!b.bank) (fun x => { x with state := 2, image := none })))
    (fun t =>
      let body := bvBytes 48 img.digest
      if t.hostLoad then { st := (t.modBoot ended).startImage img false true, body := body }
      else { st := t.modBoot (fun b => { (ended b).modBank (!b.bank) (fun x => { x with state := 1, image := some img }) with
        committed := !b.bank }), body := body }))

/-- FW_SVN_RAISE. -/
def execFwSvnRaise (u : Uci) (svn : U32) (s : State) : Host.Outcome State Fault Refusal :=
  .next (s.uci u { code := 0x010F, len := 4, window := true, anchor := true }
    [(stMalformed, decide (s.boot.svn < svn.toNat ∨ svn.toNat < s.sec.minSvn.toNat))]
    (fun t => { st := t.modSec (fun x => { x with minSvn := svn }) }))

end Sys2Proof.Machine
end

