-- ==== Sys2Proof/Machine/HoldCmds.lean ====
section
/-! DEFINITION. UCI group 0x05, Hold and Quay (12 R337, Table 12-16, R447; 07 R171 to R182, R195, R203). -/

namespace Sys2Proof.Machine

/-! ## Granules (07 R171 to R173) -/

/-- Do two runs of numbers meet? -/
def runsMeet (a n b k : Nat) : Bool := decide (a < b + k ∧ b < a + n)

/-- The granules that a HOLD_ALLOC or HOLD_FREE names: first and count, stack by stack. -/
def granuleRun (stack first count : Nat) : Nat × Nat := (stack * 2 ^ 16 + first, count)

/-- Does a granule range fit its stack? -/
def granulesBad (stack first count : Nat) : Bool := decide (15 < stack ∨ lastGranule + 1 < first + count)

/-- Take a run of granules out of a list of runs. -/
def cutRun (r : Nat × Nat) (gs : List (Nat × Nat)) : List (Nat × Nat) :=
  gs.flatMap (fun g =>
    if runsMeet g.1 g.2 r.1 r.2 then
      (if g.1 < r.1 then [(g.1, r.1 - g.1)] else []) ++ (if r.1 + r.2 < g.1 + g.2 then [(r.1 + r.2, g.1 + g.2 - (r.1 + r.2))] else [])
    else [g])

/-- HOLD_ALLOC: the granules are the job's at once; keys are drawn with the first. A stack that is withdrawn has none to give (15
R393). -/
def execHoldAlloc (u : Uci) (stack : Byte) (first count : U32) (s : State) : Host.Outcome State Fault Refusal :=
  let r := granuleRun stack.toNat first.toNat count.toNat
  let j := u.job.toNat
  .next (s.uci u { code := 0x0501, len := 12, job := true }
    [(stMalformed, granulesBad stack.toNat first.toNat count.toNat),
     (stResource, s.jobs.any (fun e => e.1 != j && e.2.granules.any (fun g => runsMeet g.1 g.2 r.1 r.2))
       || decide (stack.toNat ∈ s.fault.badStacks)), (stSecurity, s.sec.lifecycle == 4)]
    (fun t =>
      let t := if count ≠ 0 ∧ (t.job j).keyEpoch.isNone then t.drawKeys j else t
      { st := t.modJob j (fun x => { x with granules := cutRun r x.granules ++ (if count = 0 then [] else [r]) }) }))

/-- The planes that a shard's image uses, the image being the one that the next boundary leaves loaded. -/
def State.planesDue (s : State) (x : ShardSt) : List Nat :=
  match builtinRecipe x.image, Tab.get? (s.job x.job).imgArmed x.image with
  | none, some r => r.planes
  | _, _ => s.usedPlanes x

/-- The Hold range of a shard's planes, as it is or is about to be: first byte and length. -/
def State.planeRange (s : State) (x : ShardSt) : Nat × Nat :=
  let y := { x with cfg := x.pCfg.getD x.cfg }
  (y.cfg.holdBase.toNat, y.planeBytes (s.planesDue y))

/-- HOLD_FREE: every granule named must be the job's; with its last one the job's keys are destroyed. -/
def execHoldFree (u : Uci) (stack : Byte) (first count : U32) (s : State) : Host.Outcome State Fault Refusal :=
  let r := granuleRun stack.toNat first.toNat count.toNat
  let j := u.job.toNat
  let bad := granulesBad stack.toNat first.toNat count.toNat
  .next (s.uci u { code := 0x0502, len := 12, job := true }
    [(stMalformed, bad), (stDenied, !bad && !(rangeFrom r.1 r.2).all (fun g => (s.job j).owns g)),
     (stState, s.shards.any (fun e =>
       let p := s.planeRange e.2
       (e.2.state != 0 || e.2.pCfg.isSome) && e.2.job == j && runsMeet p.1 p.2 (r.1 * 2 ^ 21) (r.2 * 2 ^ 21)))]
    (fun t =>
      let left := cutRun r (t.job j).granules
      { st := t.modJob j (fun x => { x with granules := left, keyEpoch := if left.isEmpty then none else x.keyEpoch }) }))

/-! ## Quay allocations (12 R447, 01 R444) -/

/-- The Quay areas that a Sampler partition names: address and bytes (17 Table 17-1, R439, R440); a golden table or output counts by
its first byte, since no field gives its length. -/
def PartSt.quayAreas (p : PartSt) : List (Nat × Nat) :=
  p.gens.flatMap (fun e =>
      let g := e.2.cfg
      (if g.source.toNat < 3 then [(g.template.toNat, 68)] else [(g.replayAddr.toNat, g.replayLen.toNat * (67 * 68))]))
    ++ (p.checks ++ p.pChecks).map (fun e => (e.2.ring, e.2.entries * 4608))
    ++ (match p.gold with
      | some g => [(g.table, 1), (g.out, 1)]
      | none => [])

/-- The Quay addresses of a half that a job still uses and that a range of it must go on to hold (R447): offset and bytes. -/
def State.quayUsed (s : State) (j : Nat) (h : Half) : List (Nat × Nat) :=
  let mans := s.streams.flatMap (fun e => (e.2.man).toList.filter (fun m => m.job == j))
  let ofMans := mans.flatMap (fun m => (m.quayRanges.filter (fun r => r.1 == h)).map (fun r => r.2))
  let areas := (s.parts.filter (fun e => e.2.job == j)).flatMap (fun e => e.2.quayAreas)
  let ofParts := (areas.filter (fun a => Half.ofNum (bitsOf a.1 33 1) == h)).map (fun a => (bitsOf a.1 0 33, a.2))
  let busy := s.prefetches.any (fun p => p.job == j) || s.colls.any (fun e => e.2.job == j && e.2.reshard.isSome)
  ofMans ++ ofParts ++ (if busy then ((s.job j).quayOf h).toList else [])

/-- Are n bytes from an offset inside the range of base and size? -/
def insideRange (base size : Nat) (r : Nat × Nat) : Bool := r.2 == 0 || decide (base ≤ r.1 ∧ r.1 + r.2 ≤ base + size)

/-- Do two byte ranges meet? An empty one meets none. -/
def bytesMeet (a n b k : Nat) : Bool := decide (0 < n ∧ 0 < k) && runsMeet a n b k

/-- QUAY_ALLOC: the job's range of the half is replaced at the next boundary. -/
def execQuayAlloc (u : Uci) (half : Byte) (base size : U64) (s : State) : Host.Outcome State Fault Refusal :=
  let h := Half.ofNum half.toNat
  let j := u.job.toNat
  let b := base.toNat
  let n := size.toNat
  .next (s.uci u { code := 0x0503, len := 24, job := true }
    [(stMalformed, decide (1 < half.toNat ∨ b % 4096 ≠ 0 ∨ n % 4096 ≠ 0 ∨ 2 ^ 33 < b + n)),
     (stState, (s.quayUsed j h).any (fun r => !insideRange b n r)),
     (stResource, decide (0 < n ∧ b < 0x2000_0000) || (s.half h).pool.pages.any (fun p => bytesMeet b n p.toNat 4096)
       || s.jobs.any (fun e => e.1 != j && (e.2.quayOf h).any (fun q => bytesMeet b n q.1 q.2)))]
    (fun t => { st := t.modJob j (fun x => match h with
      | .east => { x with pQuayE := some (b, n) }
      | .west => { x with pQuayW := some (b, n) }), effect := t.nextBoundary }))

/-! ## Seed and step (07 R172, R195) -/

/-- May a job's seed and step not change now (R195)? -/
def State.stepHeld (s : State) (j : Nat) : Bool := s.jobLive j || s.jobUpdating j

/-- SEED_SET. -/
def execSeedSet (u : Uci) (seed : U64) (s : State) : Host.Outcome State Fault Refusal :=
  let j := u.job.toNat
  .next (s.uci u { code := 0x0504, len := 8, sender := .owner, job := true } [(stState, s.stepHeld j)]
    (fun t => { st := t.modJob j (fun x => { x with pSeed := some seed }), effect := t.nextBoundary }))

/-- STEP_SET. -/
def execStepSet (u : Uci) (step : U64) (s : State) : Host.Outcome State Fault Refusal :=
  let j := u.job.toNat
  .next (s.uci u { code := 0x0505, len := 8, sender := .owner, job := true }
    [(stMalformed, decide (2 ^ 48 ≤ step.toNat)), (stState, s.stepHeld j)]
    (fun t => { st := t.modJob j (fun x => { x with pStep := some (step.setWidth 48) }), effect := t.nextBoundary }))

/-! ## Shards (07 R174 to R176, R194) -/

/-- Is a shard record malformed: a reserved bit or value (01 R8), a number outside its range, a plane outside one stack of the half
(R174), or a tensor of 2^31 elements (R194)? -/
def State.shardBad (s : State) (h : Half) (r : ShardCfg) : Bool :=
  let x : ShardSt := { half := h, cfg := r }
  let f := r.fmts.toNat
  let mom := bitsOf f 8 4
  let base := r.holdBase.toNat
  let bytes := x.planeBytes (s.planesDue x)
  bitsOf r.ctl.toNat 30 2 != 0 || bitsOf r.ctl.toNat 4 12 != 0 || bitsOf f 18 14 != 0 || bitsOf f 12 2 != 0 || bitsOf f 4 4 != 0 || bitsOf r.tensor.toNat 20 12 != 0
    || bitsOf r.grad.toNat 20 12 != 0 || bitsOf r.params.toNat 8 24 != 0 || bitsOf r.exps.toNat 16 16 != 0
    || bitsOf r.amaxSid.toNat 20 12 != 0
    || !(x.masterMode == 0 || x.masterMode == 2) || !(mom == 7 || mom == 9) || decide (x.copyCode < 1 ∨ 8 < x.copyCode)
    || decide (x.stride < 1 ∨ 16 < x.stride) || x.elems % 32 != 0 || decide (x.elems < 32 ∨ 2 ^ 28 < x.elems)
    || decide (0xF4 ≤ x.image)
    || base % 4096 != 0 || decide (2 ^ 41 ≤ base) || holdHalf base != h || base / 2 ^ 37 != (base + bytes - 1) / 2 ^ 37
    || decide (2 ^ 31 ≤ x.tensorElem (x.chunks - 1) (x.chunkLen (x.chunks - 1)))

/-- SHARD_DEFINE: the record is READY at the next boundary. What a record that is not FREE holds of its own stays (log entry 42). -/
def execShardDefine (u : Uci) (index : U32) (half : Byte) (r : ShardCfg) (s : State) : Host.Outcome State Fault Refusal :=
  let h := Half.ofNum half.toNat
  let k := shardKey h index.toNat
  let x : ShardSt := { half := h, cfg := r }
  let old := s.shard? k
  let p := s.planeRange x
  .next (s.uci u { code := 0x0506, len := 72, sender := .owner, job := true }
    [(stMalformed, decide (2 ^ 20 ≤ index.toNat ∨ 1 < half.toNat) || s.shardBad h r),
     (stDenied, x.job != u.job.toNat || old.any (fun o => (o.state != 0 || o.pCfg.isSome) && o.job != u.job.toNat)
       || !(s.job u.job.toNat).inHold p.1 p.2),
     (stState, old.any (fun o => o.state == 2)), (stBusy, old.any (fun o => o.pCfg.isSome)), (stFaulted, s.halfOut h)]
    (fun t =>
      let rec_ := match t.shard? k with
        | some o => if o.state = 0 then x else o
        | none => x
      { st := { t with shards := Tab.set t.shards k { rec_ with pCfg := some r } }, effect := t.nextBoundary }))

/-! ## Versions (07 R178, R182) -/

/-- Is a version at or below RETIRED? -/
def JobSt.isOld (j : JobSt) (v : TideNo) : Bool := j.retired.any (fun r => decide (v.toNat < (r + 1).toNat))

/-- VERSION_CLOSE: the close takes effect at the next boundary. -/
def execVersionClose (u : Uci) (version : U64) (s : State) : Host.Outcome State Fault Refusal :=
  let j := s.job u.job.toNat
  let v : TideNo := version.setWidth 48
  .next (s.uci u { code := 0x0507, len := 8, sender := .owner, job := true }
    [(stMalformed, decide (2 ^ 48 ≤ version.toNat)),
     (stState, j.retired.isNone || j.isOld v || decide (v ∈ j.closed) || decide (v ∈ j.pClose))]
    (fun t => { st := t.modJob u.job.toNat (fun x => { x with pClose := x.pClose ++ [v] }), effect := t.nextBoundary }))

/-- The bytes that a prefetch range takes in each half's buffer: elements and fine scales of its chunks. -/
def State.prefetchBytes (s : State) (job : Nat) (h : Half) (r : Nat × Nat × Nat) : Nat :=
  match s.shardOf job r.1 r.2.1 r.2.2 with
  | some (_, x) =>
    if x.half ≠ h then 0
    else
      ((rangeFrom r.2.1 r.2.2).map (fun c => match x.chunkOf c with
        | some i => x.chunkLen i * x.copyFmt.width / 8 + if x.copyFmt.fine then x.chunkLen i / 32 else 0
        | none => 0)).sum
  | none => 0

/-- A prefetch begins. -/
def State.addPrefetch (s : State) (p : Prefetch) : State := { s with prefetches := s.prefetches ++ [p] }

/-- One range of a prefetch, as one gather (07 R203): refused and counted, with no cell, for want of a requester; accepted and read into the
buffer; or, while its version is not written yet, waiting with the gathers of the job (07 R179, R180; log entry 90). Answers the ranges to
read. -/
def State.prefetchRange (s : State) (job : Nat) (v : TideNo) (group : U16) (acc : List (Nat × Nat × Nat)) (r : Nat × Nat × Nat) :
    List (Nat × Nat × Nat) × State :=
  match s.gatherReason job r.1 r.2.1 r.2.2 v, s.shardOf job r.1 r.2.1 r.2.2 with
  | none, some (k, x) =>
    let s := s.gatherUp job v
    if x.verOf v.toNat = v then (acc ++ [r], s)
    else
      let (id, s) := s.fresh
      (acc, { s with gathers := s.gathers ++ [{
        id := id, job := job, shard := k, tensor := r.1, first := r.2.1, count := r.2.2, version := v, dest := group.setWidth 32,
        mcast := true, asked := s.now, waiting := true, requester := none }] })
  | _, _ => (acc, s.countRefused job)

/-- PREFETCH: its gathers count from acceptance. -/
def execPrefetch (u : Uci) (version : U64) (group : U16) (ranges : List (U32 × U32 × U32)) (s : State) :
    Host.Outcome State Fault Refusal :=
  let j := u.job.toNat
  let v : TideNo := version.setWidth 48
  let rs := ranges.map (fun r => (r.1.toNat, r.2.1.toNat, r.2.2.toNat))
  let sum := fun (h : Half) => (rs.map (s.prefetchBytes j h)).sum
  let held := fun (f : Prefetch → Nat) => ((s.prefetches.filter (fun p => p.job == j)).map f).sum
  .next (s.uci u { code := 0x0508, len := 16 + 12 * rs.length, sender := .owner, job := true, doze := false }
    [(stMalformed, decide (2 ^ 48 ≤ version.toNat)
       || rs.any (fun r => decide (2 ^ 20 ≤ r.1 ∨ 2 ^ 20 < r.2.1 + r.2.2))),
     (stState, (s.job j).fenced),
     (stResource, decide (2 ^ 30 < held (fun p => p.bytesE) + sum .east ∨ 2 ^ 30 < held (fun p => p.bytesW) + sum .west)),
     (stFaulted, s.halfOut .east || s.halfOut .west)]
    (fun t =>
      let (id, t) := t.fresh
      let (read, t) := rs.foldl (fun (a : List (Nat × Nat × Nat) × State) r => a.2.prefetchRange j v group a.1 r) ([], t)
      { st := t.addPrefetch ⟨id, j, v, group, read, sum .east, sum .west⟩, effect := s.nextBoundary }))

/-- VERSION_SEED. -/
def execVersionSeed (u : Uci) (index : U32) (half : Byte) (version : U64) (cCopy : U16) (amax : U32) (s : State) :
    Host.Outcome State Fault Refusal :=
  let h := Half.ofNum half.toNat
  let k := shardKey h index.toNat
  let j := u.job.toNat
  let v : TideNo := version.setWidth 48
  let old := s.shard? k
  let busy := (s.job j).outstanding.any (fun e => e.2 != 0)
  .next (s.uci u { code := 0x050D, len := 24, sender := .owner, job := true }
    [(stMalformed, decide (2 ^ 20 ≤ index.toNat ∨ 1 < half.toNat ∨ 2 ^ 48 ≤ version.toNat) || !bf16Ok cCopy.toNat),
     (stDenied, old.any (fun o => (o.state != 0 || o.pCfg.isSome) && o.job != j)),
     (stState, old.all (fun o => o.state == 0 && o.pCfg.isNone) || old.any (fun o => o.state == 2) || busy
       || ((s.job j).retired.isSome && (s.job j).firstVersion != v && s.jobLive j)),
     (stFaulted, s.halfOut h)]
    (fun t => { st := t.modShard k (fun x => { x with pSeed := some (v, cCopy, amax) }), effect := t.nextBoundary }))

/-! ## Host reads and writes (12 R331) -/

/-- Start a transfer for a command: its reply waits for it. -/
def State.startXfer (s : State) (x : Xfer) : Done :=
  let (id, s) := s.fresh
  { st := s.modMbox (fun m => { m with xfers := Tab.set m.xfers id x }), wait := some (.transfer id) }

/-- Is the half of a Hold address out of service? -/
def State.holdOut (s : State) (addr : Nat) : Bool := s.halfOut (holdHalf addr)

/-- HOLD_WRITE. -/
def execHoldWrite (u : Uci) (addr : U64) (len : U32) (data : List Byte) (s : State) : Host.Outcome State Fault Refusal :=
  let j := u.job.toNat
  let n := len.toNat
  .next (s.uci u { code := 0x0509, len := 16 + word4 n, sender := .owner, job := true, doze := false }
    [(stMalformed, decide (n < 1 ∨ 4048 < n ∨ 2 ^ 41 ≤ addr.toNat) || data.length != n), (stDenied, !(s.job j).inHold addr.toNat n),
     (stFaulted, s.holdOut addr.toNat)]
    (fun t => t.startXfer (.holdWrite j addr.toNat data)))

/-- HOLD_READ. -/
def execHoldRead (u : Uci) (addr : U64) (len : U32) (s : State) : Host.Outcome State Fault Refusal :=
  let j := u.job.toNat
  let n := len.toNat
  .next (s.uci u { code := 0x050A, len := 12, sender := .owner, job := true, doze := false }
    [(stMalformed, decide (n < 1 ∨ 4064 < n ∨ 2 ^ 41 ≤ addr.toNat)), (stDenied, !(s.job j).inHold addr.toNat n), (stFaulted, s.holdOut addr.toNat)]
    (fun t => t.startXfer (.holdRead j addr.toNat n)))

/-- The half and the offset of a Quay address (01 R444). -/
def quayHalf (addr : Nat) : Half := Half.ofNum (bitsOf addr 33 1)
def quayOff (addr : Nat) : Nat := bitsOf addr 0 33

/-- QUAY_WRITE. -/
def execQuayWrite (u : Uci) (addr : U64) (len : U32) (data : List Byte) (s : State) : Host.Outcome State Fault Refusal :=
  let j := u.job.toNat
  let n := len.toNat
  let a := addr.toNat
  .next (s.uci u { code := 0x050B, len := 16 + word4 n, sender := .owner, job := true, doze := false }
    [(stMalformed, decide (n < 1 ∨ 4048 < n ∨ 2 ^ 34 ≤ a) || data.length != n), (stDenied, !(s.job j).inQuayAt a n), (stFaulted, s.halfOut (quayHalf a))]
    (fun t => t.startXfer (.quayWrite (quayHalf a) (quayOff a) data)))

/-- QUAY_READ. -/
def execQuayRead (u : Uci) (addr : U64) (len : U32) (s : State) : Host.Outcome State Fault Refusal :=
  let j := u.job.toNat
  let n := len.toNat
  let a := addr.toNat
  .next (s.uci u { code := 0x050C, len := 12, sender := .owner, job := true, doze := false }
    [(stMalformed, decide (n < 1 ∨ 4064 < n ∨ 2 ^ 34 ≤ a)), (stDenied, !(s.job j).inQuayAt a n), (stFaulted, s.halfOut (quayHalf a))]
    (fun t => t.startXfer (.quayRead (quayHalf a) (quayOff a) n)))

end Sys2Proof.Machine
end

