-- ==== Sys2Proof/Machine/RecipeCmds.lean ====
section
/-! DEFINITION. UCI group 0x06, recipes (12 R338, Table 12-17; 07 R183 to R187, R205). -/

namespace Sys2Proof.Machine

/-! ## What an image may hold (07 R184 to R186; log entry 43) -/

/-- The registers that an operation reads. -/
def opReads (w : U64) : List Nat :=
  let b := if opBS w then [] else [opB w]
  match opOpc w with
  | 2 | 7 | 8 | 9 | 0x0B | 0x0C | 0x0E | 0x0F => [opA w]
  | 5 => [8]
  | 3 => opA w :: opC w :: b
  | 4 => 8 :: opA w :: b
  | 6 | 0x0D => opA w :: b
  | 0x0A => opA w :: opC w :: opD w :: b
  | _ => []

/-- The register that an operation writes; a STORE leaves the stored value in its A. -/
def opWrites (w : U64) : Option Nat :=
  match opOpc w with
  | 1 | 3 | 5 | 6 | 7 | 8 | 9 | 0x0A | 0x0B | 0x0F => some (opD w)
  | 4 => some 8
  | 2 => some (opA w)
  | _ => none

/-- Is a value of an operation word reserved? Only the fields that the operation uses, the plane field and the reserved bits count. -/
def opReserved (w : U64) : Bool :=
  let opc := opOpc w
  let n := w.toNat
  opc == 0 || decide (0x10 < opc) || bitsOf n 28 2 != 0 || bitsOf n 4 12 != 0 || decide (6 < opPlane w)
    || (opReads w ++ (opWrites w).toList).any (fun r => decide (10 < r))
    || (match opc with
      | 2 => (opPlane w == 2 || opPlane w == 3) && (Fmt.ofCode (opFmt w)).isNone
      | 0x0A => decide (1 < opN w)
      | 0x0E => decide (opN w < 1 ∨ 16 < opN w ∨ 16 < opD w + opN w)
      | 0x0F => opFmt w != 0 && (Fmt.ofCode (opFmt w)).isNone
      | _ => false)
    || (opLR w && !(opc == 4 && opBS w))

/-- The cost of the operations of a section at most: scalars and the gradient may be wide, and a moment plane counts as narrow only
where every STORE of the image to it names BF16. Answers the costs, whether each register read was written before, and whether MATMUL's
operand is narrow. -/
def sectionCosts (bf : Nat → Bool) : List U64 → RecChunk → List Nat → List Nat × Bool
  | [], _, _ => ([], true)
  | w :: ws, rc, written =>
    let opc := opOpc w
    let cost := opCost rc false [] w
    let pb := if opBS w then 2 else rc.pReg false (opB w)
    let cost := if opc == 3 || opc == 4 || opc == 0x0D then 16 * rc.pReg false (opA w) * pb else cost
    let ok := (opReads w).all (fun r => r == 9 || r == 10 || decide (r ∈ written)) && (opc != 0x0F || rc.pReg false (opA w) == 1)
    let narrowPlane := fun (p : Nat) => decide (4 ≤ p) || (decide (2 ≤ p) && bf p)
    let narrow := match opc with
      | 1 => narrowPlane (opPlane w)
      | 2 => decide (4 ≤ opPlane w) || (decide (2 ≤ opPlane w) && opFmt w != 9)
      | 0x0B => true
      | 0x0F => decide (1 ≤ opFmt w ∧ opFmt w ≤ 8)
      | _ => false
    let rc := match opWrites w with
      | some d => { rc with narrow := if narrow && decide (d < 8) then insertNew d rc.narrow else rc.narrow.filter (fun r => r != d) }
      | none => rc
    let r := sectionCosts bf ws rc (written ++ (opWrites w).toList)
    (cost :: r.1, ok && r.2)

/-- Does an image's every STORE to a moment plane name BF16, and is there one? -/
def Recipe.storesBf16 (r : Recipe) (p : Nat) : Bool :=
  let st := (r.update ++ r.quant).filter (fun w => opOpc w == 2 && opPlane w == p)
  !st.isEmpty && st.all (fun w => opFmt w == 7)

/-- Is an image one that R186 refuses, its size apart? -/
def Recipe.bad (r : Recipe) : Bool :=
  let ops := r.update ++ r.quant
  let isStore := fun (w : U64) => opOpc w == 2
  let q := r.quant
  let plain := q.countP isStore == 1 && decide (q.countP (fun w => opOpc w == 0x10) ≤ 1)
    && q.all (fun w => opOpc w == 1 || isStore w || opOpc w == 0x10)
  let readsHi := q.any (fun w => opOpc w == 1 && opPlane w == 1)
  let readsMaster := q.any (fun w => opOpc w == 1 && opPlane w == 0)
  let u := sectionCosts r.storesBf16 r.update {} []
  let v := sectionCosts r.storesBf16 q {} []
  decide (1024 < ops.length) || ops.any opReserved || r.update.any (fun w => (opOpc w == 1 || isStore w) && opPlane w == 1)
    || r.update.any (fun w => isStore w && opPlane w == 4) || q.any (fun w => isStore w && opPlane w != 4)
    || (!plain && !(readsMaster && !readsHi)) || !u.2 || !v.2 || (u.1 ++ v.1).any (fun c => decide (3904 < c))
    || decide (3904 < (u.1 ++ v.1).sum)

/-- The image that loaded bytes spell: none if a byte is missing or a reserved header byte is not zero. -/
def recipeOf (bytes : List (Nat × Byte)) : Option Recipe :=
  let at_ := fun (i : Nat) => Tab.get? bytes i
  let hd := (List.range 16).map at_
  if !hd.all (fun b => b.isSome) then none
  else
    let h := hd.filterMap id
    let nu := field h 0 2
    let nq := field h 2 2
    let body := (rangeFrom 16 (8 * (nu + nq))).map at_
    if (h.drop 4).any (fun b => b != 0) || decide (1024 < nu + nq) || !body.all (fun b => b.isSome) then none
    else
      let ws := (chunksOf 8 (nu + nq) (body.filterMap id)).map (fun b => BitVec.ofNat 64 (leNat b))
      some ⟨ws.take nu, ws.drop nu⟩

/-- Bytes of recipe memory that an image takes, and a job's images and blocks once what is armed is in. -/
def Recipe.bytes (r : Recipe) : Nat := 16 + 8 * (r.update ++ r.quant).length

def JobSt.recipeUsed (j : JobSt) (except : Option Nat) (block : Option Nat) : Nat :=
  let images := (j.images.filter (fun e => (Tab.get? j.imgArmed e.1).isNone)) ++ j.imgArmed
  let kept := images.filter (fun e => some e.1 != except)
  let blocks := (Tab.keys j.params ++ Tab.keys j.pParams ++ block.toList).dedup
  (kept.map (fun e => e.2.bytes)).sum + 256 * blocks.length

/-- Bytes of a job's recipe memory (R186). -/
def recipeMemory : Nat := 65536

/-- RECIPE_LOAD: a part of an image; the part with LAST arms it. -/
def execRecipeLoad (u : Uci) (image : U16) (last : Byte) (offset : U32) (len : U16) (data : List Byte) (s : State) :
    Host.Outcome State Fault Refusal :=
  let jn := u.job.toNat
  let j := s.job jn
  let i := image.toNat
  let n := len.toNat
  let o := offset.toNat
  let now := (rangeFrom o n).zip data
  let bytes := now.foldl (fun (t : List (Nat × Byte)) e => Tab.set t e.1 e.2) (Tab.get [] j.loading i)
  let fits := decide (1 ≤ n ∧ n ≤ 4048) && data.length == n && decide (o + n ≤ recipeMemory)
  let img := if last = 1 ∧ fits then recipeOf bytes else none
  .next (s.uci u { code := 0x0601, len := 16 + word4 n, sender := .owner, job := true, doze := false }
    [(stMalformed, decide (0xEF < i ∨ 1 < last.toNat ∨ n < 1 ∨ 4048 < n) || data.length != n
       || (last == 1 && fits && (match img with
         | some r => r.bad
         | none => true))),
     (stState, j.fenced || s.shards.any (fun e => e.2.state == 2 && e.2.job == jn && e.2.image == i)),
     (stBusy, (Tab.get? j.imgArmed i).isSome),
     (stResource, decide (recipeMemory < o + n) || img.any (fun r => decide (recipeMemory < j.recipeUsed (some i) none + r.bytes))),
     (stFaulted, s.anySafe)]
    (fun t =>
      match img with
      | some r => { st := t.modJob jn (fun x => { x with loading := Tab.erase x.loading i, imgArmed := Tab.set x.imgArmed i r }),
                    effect := t.nextBoundary }
      | none => { st := t.modJob jn (fun x => { x with loading := Tab.set x.loading i bytes }) }))

/-- RECIPE_PARAM. -/
def execRecipeParam (u : Uci) (block : Byte) (scalars : List U32) (s : State) : Host.Outcome State Fault Refusal :=
  let jn := u.job.toNat
  let j := s.job jn
  .next (s.uci u { code := 0x0602, len := 260, sender := .owner, job := true }
    [(stMalformed, scalars.length != 64), (stState, j.fenced),
     (stResource, decide (recipeMemory < j.recipeUsed none (some block.toNat)))]
    (fun t => { st := t.modJob jn (fun x => { x with pParams := Tab.set x.pParams block.toNat scalars }), effect := t.nextBoundary }))

/-- RECIPE_UNLOAD. -/
def execRecipeUnload (u : Uci) (image : U16) (s : State) : Host.Outcome State Fault Refusal :=
  let jn := u.job.toNat
  let i := image.toNat
  .next (s.uci u { code := 0x0604, len := 4, sender := .owner, job := true }
    [(stMalformed, decide (0xEF < i)),
     (stState, (s.job jn).fenced || s.shards.any (fun e => (e.2.state != 0 || e.2.pCfg.isSome) && e.2.job == jn
       && (e.2.image == i || e.2.pCfg.any (fun c => bitsOf c.ctl.toNat 16 8 == i))))]
    (fun t => { st := t.modJob jn (fun x => { x with pUnload := insertNew i x.pUnload }), effect := t.nextBoundary }))

/-! ## RECIPE_STATUS (07 R205) -/

/-- The binary64 pattern of mag * 2^e rounded to nearest even. -/
def binary64 (neg : Bool) (mag : Nat) (e : Int) : Nat :=
  let sign := bitNat neg * 2 ^ 63
  if mag = 0 then sign
  else
    let q := max (Int.ofNat (bitLen mag) - 1 + e - 52) (-1074)
    sign + min (roundMag mag e q 0 0 + (q + 1074).toNat * 2 ^ 52) (2047 * 2 ^ 52)

/-- An exact sum as binary64; of a special value the spec states no pattern: a free value (log entry 25). -/
def ExactVal.binary64 (x : ExactVal) (free : Nat) : Nat :=
  if x.special then (Config.freeWord free).toNat + 2 ^ 32 * (Config.freeWord (free + 1)).toNat
  else Machine.binary64 (decide (x.sig < 0)) x.sig.natAbs x.exp

/-- A shard's step status: WAIT_RETIRE while its QUANT waits for RETIRED (R181). -/
def ShardSt.stepStatus (x : ShardSt) (j : JobSt) : Nat :=
  let held : Bool := match j.retired with
    | some t => decide ((t + 1).toNat < j.step.toNat)
    | none => true
  if x.state = 2 ∧ x.tensorAmax.isSome ∧ x.updCount = x.chunks ∧ x.quantCount < x.chunks ∧ held then 5 else x.status.toNat

/-- The Tasting report of a shard or stream: divergence, block, blocks. -/
def tasteBytes (div block : U32) (blocks : Nat) : List Byte := leBytes 4 div.toNat ++ leBytes 4 block.toNat ++ leBytes 4 (min blocks (2 ^ 32 - 1))

/-- The RECIPE_STATUS reply (12 Table 12-17). -/
def ShardSt.statusBytes (x : ShardSt) (j : JobSt) (free : Nat) : List Byte :=
  leBytes 1 (x.stepStatus j) ++ leBytes 1 (bitNat x.sat + 2 * bitNat x.special) ++ leBytes 2 0 ++ leBytes 4 x.lostElem ++ leBytes 16 x.lostMass
    ++ leBytes 4 x.amax.toNat ++ leBytes 4 0
    ++ (List.range 16).flatMap (fun i => leBytes 8 ((Tab.get {} x.q i).binary64 (free + 2 * i)))
    ++ tasteBytes x.tasteDiv x.tasteBlock x.tasteBlocks

/-- The shard of a job that an index names, in the snapshot: the East one if it has one, else the West one (the command names no half;
log entry 44). -/
def State.snapShard (s : State) (job index : Nat) : Option (Nat × ShardSt) :=
  let pick := fun (h : Half) => (Tab.get? s.snapShards (shardKey h index)).bind (fun x =>
    if x.state != 0 && x.job == job then some (shardKey h index, x) else none)
  match pick .east with
  | some x => some x
  | none => pick .west

/-- Do the shards that an index names belong to other jobs only? -/
def State.shardForeign (s : State) (job index : Nat) : Bool :=
  let xs := [Half.east, Half.west].filterMap (fun h => (Tab.get? s.snapShards (shardKey h index)).filter (fun x => x.state != 0))
  !xs.isEmpty && xs.all (fun x => x.job != job)

/-- RECIPE_STATUS. -/
def execRecipeStatus (u : Uci) (shard : U32) (s : State) : Host.Outcome State Fault Refusal :=
  let j := u.job.toNat
  .next (s.uci u { code := 0x0603, len := 4, sender := .owner, job := true }
    [(stMalformed, decide (2 ^ 20 ≤ shard.toNat)), (stDenied, s.shardForeign j shard.toNat)]
    (fun t =>
      let body := match t.snapShard j shard.toNat with
        | some (_, x) => x.statusBytes (t.job j) t.freeCtr
        | none => List.replicate 172 0
      { st := { t with freeCtr := t.freeCtr + 32 }, body := body }))

end Sys2Proof.Machine
end

