-- ==== Sys2Proof/Machine/FaultCmds.lean ====
section
/-! DEFINITION. UCI group 0x07, faults and repair (12 R339, Table 12-18; 13 R347 to R364, 04 R99, R100, R115, 09 R260, 11 R296). -/

namespace Sys2Proof.Machine

/-! ## Records and sources -/

/-- The 32 bytes of a fault record (13 Table 13-6). -/
def Rec.bytes (r : Rec) : List Byte :=
  leBytes 4 r.seq ++ leBytes 2 r.source.toNat ++ leBytes 1 r.cls ++ leBytes 1 r.action ++ leBytes 6 r.first.toNat ++ leBytes 1 r.merge
    ++ leBytes 1 (bitNat r.isOpen + 2 * bitNat r.overflow) ++ leBytes 6 r.last.toNat ++ leBytes 2 r.count ++ leBytes 8 r.detail.toNat

/-- FAULT_READ: the records numbered FIRST and up, oldest first. -/
def execFaultRead (u : Uci) (first : U16) (s : State) : Host.Outcome State Fault Refusal :=
  .next (s.uci u { code := 0x0701, len := 4, window := true, anchor := true } []
    (fun t => { st := t, body := (t.fault.recs.filter (fun r => decide (first.toNat ≤ r.seq))).flatMap Rec.bytes }))

/-- FAULT_CONFIG. -/
def execFaultConfig (u : Uci) (source n : U16) (wLog2 : Byte) (s : State) : Host.Outcome State Fault Refusal :=
  let c := source.toNat
  .next (s.uci u { code := 0x0702, len := 8, window := true }
    [(stMalformed, (match srcInfo c with
      | some i => i.fixed
      | none => true) || n == 0 || decide (wLog2.toNat < 4 ∨ 30 < wLog2.toNat))]
    (fun t =>
      let x := { t.sourceSt c with pCfg := some (n.toNat, wLog2.toNat) }
      { st := t.modFault (fun f => { f with sources := Tab.set f.sources c x }), effect := t.nextBoundary }))

/-! ## SAFE_EXIT (13 R354) -/

/-- The source of a berth's Breakwater. -/
def berthSource (b : Nat) : Nat := srcHalf (berthHalf b) (berthLine b)

/-- Is a source in a scope of SAFE_EXIT: 1 East, 2 West, 3 the package? -/
def inScope (scope src : Nat) : Bool :=
  scope == 3 || ((decide (src < 0x80) || src == 0x83 || src == 0x84) && (srcHalfOf src).num + 1 == scope)

/-- Did a severe source of the scope latch an event at the latest boundary? -/
def State.stillSevere (s : State) (scope : Nat) : Bool :=
  s.fault.latched.any (fun c => inScope scope c && (s.fault.openRec c).any (fun r => r.cls == 2))

/-- Has a block of the scope failed that is neither fenced nor withdrawn nor replaced? -/
def State.blockFailed (s : State) (scope : Nat) : Bool :=
  s.fault.recs.any (fun r =>
    let c := r.source.toNat
    r.isOpen && r.cls == 2 && r.action == 2 && !r.localDone && inScope scope c && !s.isFenced (fun o => match o with
      | .engine h p => c == srcHalf h p.val
      | _ => false))

/-- The berths of a word of SAFE_BERTHS that may leave: those whose source latched no event at the latest boundary. -/
def State.leaving (s : State) (index : Nat) : List Nat :=
  (rangeFrom (32 * index) 32).filter (fun b => (s.berth b).safe && decide (berthSource b ∉ s.fault.latched))

/-- Is the scope in the safe state of its own? -/
def State.scopeSafe (s : State) (scope index : Nat) : Bool :=
  match scope with
  | 0 => (rangeFrom (32 * index) 32).any (fun b => (s.berth b).safe)
  | 1 => s.east.safe
  | 2 => s.west.safe
  | _ => s.fault.pkgSafe

/-- Does a half wait for 2 tides of valid latch values (14 R386)? -/
def State.latchMissing (s : State) (scope : Nat) : Bool :=
  (scope == 1 && s.east.latchLost && decide (s.east.latchSeen < 2)) || (scope == 2 && s.west.latchLost && decide (s.west.latchSeen < 2))

/-- SAFE_EXIT: leaves at the next boundary. A scope that is not safe has nothing to leave (log entry 45). -/
def execSafeExit (u : Uci) (scope : Byte) (maskIndex : U16) (s : State) : Host.Outcome State Fault Refusal :=
  let c := scope.toNat
  let i := maskIndex.toNat
  .next (s.uci u { code := 0x0703, len := 8 }
    [(stMalformed, decide (3 < c) || (c == 0 && decide (8 < i))), (stState, !s.scopeSafe c i),
     (stFaulted, (s.fault.therm && !s.fault.hot.isEmpty) || (c != 3 && s.fault.pkgSafe)
       || (if c = 0 then (s.leaving i).isEmpty else s.stillSevere c || s.blockFailed c || s.latchMissing c))]
    (fun t => { st := t.modFault (fun f => { f with pExit := f.pExit ++ [(c, i)] }), effect := t.nextBoundary }))

/-! ## FENCE (13 R355, R356) -/

/-- The object of a FENCE. -/
def fenceObj (kind index : Nat) : Option FenceObj :=
  match kind with
  | 0 => if index < 40 then some (.engine (Half.ofNum (index / 20)) ⟨index % 20, Nat.mod_lt _ (by decide)⟩) else none
  | 1 => if h : index < 260 then some (.berth ⟨index, h⟩) else none
  | 2 => if index < 64 then some (.job (BitVec.ofNat 6 index)) else none
  | _ => none

/-- FENCE: the reply waits until the fence is empty, or until it is lifted. -/
def execFence (u : Uci) (kind : Byte) (index : U16) (enable : Byte) (s : State) : Host.Outcome State Fault Refusal :=
  let o := fenceObj kind.toNat index.toNat
  let mine := o.bind (fun o => s.fault.fences.find? (fun f => f.obj == o))
  .next (s.uci u { code := 0x0704, len := 8 }
    [(stMalformed, o.isNone || decide (1 < enable.toNat)),
     (stState, match mine with
       | some f => if enable = 0 then f.enableAt.isNone else f.internal || f.enableAt.isSome
       | none => enable == 1),
     (stBusy, enable == 0 && mine.any (fun f => f.enableAt.isSome)),
     (stFaulted, o.any (fun o => match o with
       | .engine h _ => s.halfOut h
       | .berth b => s.halfOut (berthHalf b.val)
       | .job _ => false))]
    (fun t =>
      match o with
      | none => { st := t }
      | some o =>
        let at_ := t.now + 1
        let set := fun (f : FaultSt) => if enable = 0 then { f with fences := f.fences ++ [⟨o, at_, false, false, none, false⟩] }
          else { f with fences := f.fences.map (fun x => if x.obj = o then { x with enableAt := some at_ } else x) }
        { st := t.modFault set, effect := t.nextBoundary, wait := some (.fence o) }))

/-! ## SPARE and ENGINE_MAP (11 R296, 04 R99, R100) -/

/-- The half, the logical engine of the half, of an ENGINE field (04 R115). -/
def engHalf (engine : Nat) : Half := Half.ofNum (engine / 20)

/-- Ask for the lane's spare, 32 rounds ahead (log entry 27). -/
def State.askSpare (s : State) (b lane : Nat) : State :=
  s.modBerth b (fun y => { y with spareReq := some ⟨lane, spareOf b, y.cwTx + 32, 0, false⟩, orderedSet := osSpareReq })

/-- SPARE: a lane onto its berth's spare, or a tile onto its engine's. -/
def execSpare (u : Uci) (kind : Byte) (berth : U16) (lane spareIdx engine tile : Byte) (s : State) : Host.Outcome State Fault Refusal :=
  let b := berth.toNat
  let e := engine.toNat
  let h := engHalf e
  let k := tileKey h (e % 20) tile.toNat
  let isLane := kind == 0
  let y := s.berth b
  .next (s.uci u { code := 0x0705, len := 8 }
    [(stMalformed, decide (1 < kind.toNat) || (if isLane then decide (255 < b ∨ 3 < lane.toNat) || spareIdx.toNat != spareOf b
        else decide (39 < e ∨ 7 < tile.toNat))),
     (stResource, if isLane then !s.spareFree b || y.spareReq.isSome || !y.up
        else s.unmapped h (e % 20) || (s.spareTile h (e % 20)).isNone || (s.tile k).pSub.isSome),
     (stFaulted, s.halfOut (if isLane then berthHalf b else h))]
    (fun t =>
      if isLane then { st := t.askSpare b lane.toNat }
      else { st := t.modTile k (fun x => { x with pSub := t.spareTile h (e % 20) }) }))

/-- ENGINE_MAP. -/
def execEngineMap (u : Uci) (half logical physical : Byte) (s : State) : Host.Outcome State Fault Refusal :=
  let h := Half.ofNum half.toNat
  let l := logical.toNat
  let p := physical.toNat
  let x := s.half h
  let serves := fun (e : Nat) => Tab.get (s.physEng h e) x.pEngMap e
  .next (s.uci u { code := 0x0706, len := 4 }
    [(stMalformed, decide (1 < half.toNat ∨ 19 < l ∨ 19 < p)),
     (stResource, (List.range 20).any (fun e => e != l && (serves e == p || s.physEng h e == p)) || decide ((x.inService p).length < 8)
       || decide (p ∈ x.badEngines)),
     (stFaulted, s.halfOut h)]
    (fun t => { st := t.modHalf h (fun x => { x with pEngMap := Tab.set x.pEngMap l p }), effect := t.nextBoundary }))

/-- REPAIR_LOG: the entries numbered FIRST and up. -/
def execRepairLog (u : Uci) (first : U16) (s : State) : Host.Outcome State Fault Refusal :=
  .next (s.uci u { code := 0x0707, len := 4, window := true, anchor := true } []
    (fun t => { st := t, body := (t.fault.log.filter (fun e => decide (first.toNat ≤ e.seq))).flatMap RepairEntry.bytes }))

/-! ## Tile access (04 R115) -/

/-- The causes that both tile accesses have. -/
def State.tileCauses (s : State) (engine tile : Byte) (first count : U16) : List (Nat × Bool) :=
  let e := engine.toNat
  let h := engHalf e
  [(stMalformed, decide (39 < e ∨ 7 < tile.toNat ∨ count.toNat < 1 ∨ 240 < count.toNat ∨ 65536 < first.toNat + count.toNat)),
   (stState, s.tileLive (tileKey h (e % 20) tile.toNat)), (stResource, s.unmapped h (e % 20)), (stFaulted, s.halfOut h)]

/-- TILE_READ: the tile is drained, and then read. -/
def execTileRead (u : Uci) (engine tile : Byte) (first count : U16) (s : State) : Host.Outcome State Fault Refusal :=
  let k := tileKey (engHalf engine.toNat) (engine.toNat % 20) tile.toNat
  .next (s.uci u { code := 0x0708, len := 8, doze := false } (s.tileCauses engine tile first count)
    (fun t =>
      let d := t.startXfer (.tileRead k first.toNat count.toNat)
      match d.wait with
      | some (.transfer id) => { d with st := d.st.modTile k (fun x => { x with drainsWaiting := x.drainsWaiting ++ [.read id] }) }
      | _ => d))

/-- TILE_WRITE. -/
def execTileWrite (u : Uci) (engine tile : Byte) (first count : U16) (images : List (BitVec 128)) (s : State) :
    Host.Outcome State Fault Refusal :=
  let k := tileKey (engHalf engine.toNat) (engine.toNat % 20) tile.toNat
  .next (s.uci u { code := 0x0709, len := 8 + 16 * count.toNat, doze := false }
    (s.tileCauses engine tile first count ++ [(stMalformed, images.length != count.toNat || images.any (fun i => !imageOk i))])
    (fun t => t.startXfer (.tileWrite k first.toNat images)))

/-! ## Pallets (09 R255, R260) -/

/-- PALLET_DIAG. -/
def execPalletDiag (u : Uci) (half : Byte) (first : U32) (count : U16) (s : State) : Host.Outcome State Fault Refusal :=
  let h := Half.ofNum half.toNat
  .next (s.uci u { code := 0x070A, len := 12, window := true }
    [(stMalformed, decide (1 < half.toNat ∨ count.toNat < 1 ∨ 1016 < count.toNat ∨ 184320 < first.toNat + count.toNat)),
     (stFaulted, s.halfOut h)]
    (fun t => { st := t, body := (rangeFrom first.toNat count.toNat).flatMap (fun i => leBytes 4 ((t.half h).pool.descOf i)) }))

/-- PALLET_AUDIT. -/
def execPalletAudit (u : Uci) (half : Byte) (s : State) : Host.Outcome State Fault Refusal :=
  let h := Half.ofNum half.toNat
  .next (s.uci u { code := 0x070B, len := 4 } [(stMalformed, decide (1 < half.toNat)), (stFaulted, s.halfOut h)]
    (fun t => { st := t.audit h, body := leBytes 4 (toTwos 32 (t.half h).pool.difference) }))

end Sys2Proof.Machine
end

