-- ==== Sys2Proof/Machine/Startup.lean ====
section
/-! DEFINITION. Rails, resets and the stages from power-on to the first tide, and the restart of a half (15, 16 R409 to R411).
Readings: log entries 48, 55 and 57. -/

namespace Sys2Proof.Machine

/-! ## Rails (16 R409 to R411) -/

/-- POWER_ON: the board raises the next group of Table 16-3. The enables are high once group 1 is up, and the power-good inputs follow
the last of their rails; with all five groups up the package is in reset. Log entry 1. -/
def execPowerOn (group : Fin 5) (s : State) : Host.Outcome State Fault Refusal :=
  if s.sec.power ≠ 3 ∨ s.boot.rails ≠ group.val then .next s
  else
    let n := group.val + 1
    let s := s.modBoot (fun b => { b with
      rails := n
      pwrEn := true
      pgQuay := b.pgQuay || decide (4 ≤ n)
      pgHold := b.pgHold || decide (5 ≤ n)
      pgOe := b.pgOe || decide (5 ≤ n) })
    .next (if n = 5 then s.modSec (fun x => { x with power := 0 }) else s)

/-- POWER_OFF: what the OTP and the flash hold stays, and what the Hold held has no key (14 Table 14-5); everything else is lost. -/
def execPowerOff (s : State) : Host.Outcome State Fault Refusal :=
  if s.boot.rails = 0 then .next s
  else
    let t := s.packageReset
    .next { t with
      tap := {}
      quayE := []
      quayW := []
      fault := { log := t.fault.log, boots := t.fault.boots }
      sec := { t.sec with power := 3 }
      boot := { t.boot with rails := 0, pwrEn := false, pgHold := false, pgQuay := false, pgOe := false, perstN := false } }

/-- POWER_GOOD: an input that falls while its enable is high is a VOLTAGE event. -/
def execPowerGood (pg : PgInput) (level : Bool) (s : State) : Host.Outcome State Fault Refusal :=
  let b := s.boot
  let was := match pg with
    | .hold => b.pgHold
    | .quay => b.pgQuay
    | .oe => b.pgOe
  let s := s.modBoot (fun b => match pg with
    | .hold => { b with pgHold := level }
    | .quay => { b with pgQuay := level }
    | .oe => { b with pgOe := level })
  .next (if was && !level && b.pwrEn then s.raisePkg 26 else s)

/-- WARM_RESET: RESET_N low for 1 us or more; a shorter pulse is ignored (15 R388, R402). -/
def execWarmReset (lowNs : Nat) (s : State) : Host.Outcome State Fault Refusal :=
  .next (if lowNs < 1000 ∨ s.boot.rails ≠ 5 then s else s.packageReset)

/-! ## Boot ROM (15 R389) -/

/-- The default binding table (12 Table 12-6). -/
def defaultBindings : List (Nat × Binding) :=
  (List.range 8).flatMap (fun f => [(2 * f, ⟨BitVec.ofNat 4 f, 0xF⟩), (2 * f + 1, ⟨0xF, BitVec.ofNat 4 f⟩)])
    ++ [(16, ⟨0x8, 0xF⟩), (17, ⟨0xF, 0x8⟩), (18, ⟨0x9, 0xF⟩), (19, ⟨0xF, 0x9⟩), (20, ⟨0xA, 0xF⟩), (21, ⟨0xF, 0xA⟩),
        (22, ⟨0xF, 0xD⟩), (23, ⟨0xD, 0xF⟩), (24, ⟨0xF, 0xE⟩), (25, ⟨0xE, 0xF⟩), (26, ⟨0xB, 0xC⟩), (27, ⟨0xC, 0xB⟩),
        (28, ⟨0xF, 0xA⟩), (29, ⟨0xA, 0xF⟩)]

/-- The failure that halts the boot ROM, if any, in the order of its steps (15 R389, Table 15-6). -/
def romFailure (pllOk otpOk secOk hmA hmB : Bool) : Nat :=
  if !pllOk then 4 else if !otpOk then 3 else if !secOk then 2 else if !hmA && !hmB then 1 else 0

/-- BOOT_ROM: RESET_N rises, and the boot ROM tests, opens the mailboxes and starts stage 5, or halts. -/
def execBootRom (pllOk otpOk secOk hmA hmB : Bool) (s : State) : Host.Outcome State Fault Refusal :=
  if s.boot.resetN ∨ s.boot.rails ≠ 5 then .next s
  else
    let s := (s.modBoot (fun b => { b with resetN := true })).modFault (fun f => { f with boots := f.boots + 1 })
    let s := (s.toStage 4).modTide (fun t => { t with counting := true })
    let code := romFailure pllOk otpOk secOk hmA hmB
    if code ≠ 0 then .next ((s.bootFail code).modBoot (fun b => { b with failed := true }))
    else
      let s := if hmA then s else s.procFails .pairA
      let s := if hmB then s else s.procFails .pairB
      let s := s.modSec (fun x => { x with primaryB := !hmA, dbg := if x.lifecycle = 1 then 2 else 0, halted := [] })
      let s := s.modMbox (fun m => { m with opened := true, chans := defaultBindings.map (fun e => (e.1, { bind := some e.2 })) })
      .next ((s.modBoot (fun b => { b with hostPort := b.perstN })).toStage 5)

/-! ## Firmware authentication (15 R391) -/

/-- What stage 5 finds in a bank: a bank that an update left incomplete holds no image. -/
def State.bankSeen (s : State) (k : BankSt) (flash : Option ImageInfo) : BankSt :=
  if k.state = 2 ∨ k.state = 3 then { k with state := 2 }
  else
    match k.image.orElse (fun _ => flash) with
    | none => k
    | some i => { k with image := some i, state := if s.imageOk i true then 1 else 2 }

/-- The image of a bank that is accepted. -/
def BankSt.good (k : BankSt) : Option ImageInfo := if k.state = 1 then k.image else none

/-- FIRMWARE_AUTHENTICATION: the bank last committed is tried first, then the other; with neither, the boot ROM waits for a host
image. The configuration block is verified in the same stage. -/
def execFirmwareAuthentication (f : FlashView) (s : State) : Host.Outcome State Fault Refusal :=
  if s.boot.stage ≠ 5 ∨ s.mbox.uciReady = true ∨ s.boot.waitHost = true ∨ s.boot.failed = true then .next s
  else
    let b0 := s.bankSeen s.boot.bank0 f.bank0
    let b1 := s.bankSeen s.boot.bank1 f.bank1
    let s := s.modBoot (fun b => { b with bank0 := b0, bank1 := b1, block := f.block })
    let first := s.boot.committed
    let get := fun (one : Bool) => (if one then b1 else b0).good
    let found : Option (ImageInfo × Bool) := match get first, get (!first) with
      | some i, _ => some (i, first)
      | none, some i => some (i, !first)
      | none, none => none
    match found with
    | some (i, bank) =>
      let s := if f.block.isSome then s else s.bootFail 0x32
      .next (s.startImage i bank false)
    | none =>
      let s := s.bootFail 0x10
      let s := if f.block.isSome then s else s.bootFail 0x32
      .next (s.modBoot (fun b => { b with waitHost := true }))

/-! ## BIST and repair (15 R392, 13 R361, R362) -/

/-- The tiles and engines of a half that the repair map and the field repair log take out of service. -/
def State.repairedTiles (s : State) (h : Half) : List Nat :=
  Config.mapTiles h.num ++ ((s.fault.log.filter (fun e => e.kind == 2 && e.unit / 20 == h.num)).map (fun e => physTile (e.unit % 20) e.index))

def State.repairedEngines (s : State) (h : Half) : List Nat :=
  Config.mapEngines h.num ++ ((s.fault.log.filter (fun e => e.kind == 3 && e.unit / 20 == h.num)).map (fun e => e.unit % 20))

/-- The berth and the lane of a lane circuit of an OE (11 R282), the inverse of `laneCircuit`; unit 16 is the electrical berths. -/
def circuitLane (unit circuit : Nat) : Nat × Nat :=
  if unit < 16 then (16 * unit + 2 * (circuit / 8) + circuit % 8 / 4, circuit % 4) else (256 + circuit / 4, circuit % 4)

/-- A lane circuit is out of service: its lane uses its spare, if it has one that may serve it, and else has failed. -/
def State.repairLane (s : State) (unit circuit : Nat) (spared : Bool) : State :=
  let s := if unit < 16 then s.modOe unit (fun o => { o with failed := insertNew circuit o.failed }) else s
  if unit < 16 ∧ 64 ≤ circuit then s
  else
    let (b, lane) := circuitLane unit circuit
    s.modBerth b (fun y => y.modLane lane (fun l => if spared then { l with spare := some (spareOf b) } else { l with failed := true }))

/-- The lane circuits of a half's OEs and electrical berths that repair takes out of service. -/
def State.repairLanes (s : State) (h : Half) : State :=
  let mine := fun (unit circuit : Nat) => berthHalf (circuitLane unit (circuit % 64)).1 == h
  let s := (List.range 8).foldl (fun (s : State) i =>
    let k := 8 * h.num + i
    (Config.mapCircuits k).foldl (fun (s : State) c => s.repairLane k c true) s) s
  (s.fault.log.filter (fun e => (e.kind == 1 || e.kind == 9) && mine e.unit e.index)).foldl (fun (s : State) e =>
    s.repairLane e.unit e.index (e.kind == 1)) s

/-- Map a half's engines: every physical engine with eight tiles in service serves its own index (04 R99), and its spare tile the index
of one that is out. -/
def State.mapHalf (s : State) (h : Half) : State :=
  let x := s.half h
  let out := (List.range 20).filter (fun e => decide (e ∈ x.badEngines) || decide ((x.inService e).length < 8))
  let s := { s with tiles := s.tiles.filter (fun e => tileHalf e.1 != h) }
  let s := x.badTiles.foldl (fun (s : State) p =>
    if p % 16 < 8 ∧ p / 16 < 20 then s.modTile (tileKey h (p / 16) (p % 16)) (fun t => { t with phys := 8 }) else s) s
  s.modHalf h (fun x => { x with badEngines := out, engMap := out.map (fun e => (e, 20)), pEngMap := [] })

/-- Do the power-good inputs let stage 6 go on (16 R411)? -/
def BootSt.powerGood (b : BootSt) : Bool := b.pgHold && b.pgQuay && b.pgOe

/-- Is a half at a stage of start-up that the half before it has passed, or at that stage of its own restart? -/
def State.atStage (s : State) (h : Half) (n : Nat) : Bool :=
  (s.boot.stage.toNat == n && s.mbox.uciReady && !s.boot.failed && !s.tide.running) || (s.half h).restart == n

/-- A half that a failure leaves in reset: out of service, and no longer restarting (log entry 48). -/
def State.stayReset (s : State) (h : Half) (stage code : Nat) : State :=
  let restart := (s.half h).restart != 0
  let s := s.modHalf h (fun x => { x with started := false, trained := false, stageDone := stage, restart := 0 })
  let s := s.modBoot (fun b => match h with
    | .east => { b with eastUp := false }
    | .west => { b with westUp := false })
  let s := s.bootFail (code + h.num)
  if restart then s.modBoot (fun b => { b with stage := 0xD }) else s

/-- The next stage starts once both halves have passed this one; a half that stays in reset has no more to pass (15 R392, R401). -/
def State.stageEnds (s : State) (n : Nat) : State :=
  if s.boot.stage.toNat == n && !s.boot.failed && [s.east, s.west].all (fun x => decide (n ≤ x.stageDone) || (!x.started && decide (6 ≤ x.stageDone))) then
    s.toStage (n + 1)
  else s

/-- BIST: a half has tested and repaired its arrays, or stays in reset. -/
def execBist (h : Half) (ok : Bool) (s : State) : Host.Outcome State Fault Refusal :=
  if !s.atStage h 6 || !s.boot.powerGood || (s.half h).started || decide (6 ≤ (s.half h).stageDone) then .next s
  else if !ok then .next ((s.stayReset h 6 0x20).stageEnds 6)
  else
    let s := s.modHalf h (fun x => { x with
      started := true
      stageDone := 6
      restart := if x.restart = 0 then 0 else 7
      badTiles := (s.repairedTiles h).foldl (fun l t => insertNew t l) []
      badEngines := (s.repairedEngines h).foldl (fun l t => insertNew t l) [] })
    .next (((s.mapHalf h).repairLanes h).stageEnds 6)

/-! ## Memory training (15 R393) -/

/-- A Hold stack of a half is withdrawn: it takes no granules until the next package reset, and has a record of HOLD. -/
def State.losesStack (s : State) (h : Half) (i : Nat) : State :=
  let r : Rec := {
    seq := 0, source := BitVec.ofNat 16 (srcHalf h (28 + i)), cls := 1, action := 1, first := s.now, merge := 0, isOpen := true,
    overflow := false, last := s.now, count := 0, detail := BitVec.ofNat 64 (4 * 2 ^ 48), localDone := true, scope := none }
  (s.modFault (fun f => { (f.newRec r).1 with badStacks := insertNew (8 * h.num + i) f.badStacks })).bootFail 0x30

/-- Rows that await repair in a stack that trains are repaired, and each is entered in the log. -/
def State.repairRows (s : State) (stack : Nat) : State :=
  let wait := s.fault.log.filter (fun e => e.kind == 4 && e.unit == stack
    && !s.fault.log.any (fun d => d.kind == 5 && d.unit == stack && d.addr == e.addr && decide (e.seq < d.seq)))
  wait.foldl (fun (s : State) e => s.logRepair 5 stack 0 e.addr e.source) s

/-- MEMORY_TRAINING: a half has trained its Quay, overwritten with zeros, and its eight Hold stacks. -/
def execMemoryTraining (h : Half) (quayOk : Bool) (stacksOk : Byte) (s : State) : Host.Outcome State Fault Refusal :=
  let x := s.half h
  if !s.atStage h 7 || !x.started || x.trained then .next s
  else if !quayOk then .next ((s.stayReset h 7 0x22).stageEnds 7)
  else
    let s := (s.modQuay h (fun _ => [])).modHalf h (fun x => { x with trained := true, stageDone := 7, restart := if x.restart = 0 then 0 else 8 })
    let s := s.modBoot (fun b => match h with
      | .east => { b with eastUp := true }
      | .west => { b with westUp := true })
    let s := (List.range 8).foldl (fun (s : State) i =>
      if stacksOk.getLsbD i then s.repairRows (8 * h.num + i) else s.losesStack h i) s
    .next (s.stageEnds 7)

/-! ## Lanes and discovery (15 R394, R395) -/

/-- The halves whose lanes come up now: those that have trained, at start-up or at their own restart. -/
def State.lanesDue (s : State) (n : Nat) : List Half :=
  [Half.east, Half.west].filter (fun h => s.atStage h n && (s.half h).started && (s.half h).trained)

/-- An OE leaves LS2, if one of its feeds is good; its berths train. -/
def State.bringUpOe (s : State) (k : Nat) (feeds : Bool × Bool) : State :=
  if !feeds.1 && !feeds.2 then (s.modOe k (fun o => { o with deep := true, primaryOk := false, standbyOk := false })).bootFail 0x31
  else s.modOe k (fun o => { o with deep := false, relocking := false, primaryOk := feeds.1, standbyOk := feeds.2, feed := !feeds.1 })

/-- LANE_BRING_UP: the feeds of the OEs have been checked, and the OEs and lanes of the halves due are on. -/
def execLaneBringUp (feeds : List (Bool × Bool)) (s : State) : Host.Outcome State Fault Refusal :=
  let due := s.lanesDue 8
  if due.isEmpty then .next s
  else
    let s := (List.range 16).foldl (fun (s : State) k =>
      if berthHalf (16 * k) ∈ due then s.bringUpOe k (feeds.getD k (false, false)) else s) s
    let s := (List.range 260).foldl (fun (s : State) b =>
      if berthHalf b ∈ due then s.modBerth b (fun y => if y.up then y else { y with lstate := 3 }) else s) s
    let s := s.modBoot (fun b => { b with lanesUp := true, stagePeriod := s.tide.periods })
    let s := s.modHalves (fun _ x => if x.restart = 8 then { x with restart := 9 } else x)
    let s := [256, 257, 258, 259].foldl (fun (s : State) b => s.ethUp b) s
    .next (if s.boot.stage = 8 then s.toStage 9 else s)

/-- Does the plan use a berth? -/
def State.planned (s : State) (b : Nat) : Bool :=
  match Tab.get? s.chart.plan b with
  | some p => !p.unused && !(s.berth b).eth
  | none => false

/-- Has a berth of the plan its outcome, or has it had 64 tide periods (15 Table 15-1)? -/
def State.berthSettled (s : State) (b : Nat) : Bool :=
  let y := s.berth b
  y.outcome != 4 || (if y.up then decide (y.upTide.toNat + 64 ≤ s.tide.periods) else decide (s.boot.stagePeriod + 64 ≤ s.tide.periods))

/-- DISCOVERY: every berth of the plan has its outcome; one that has none is MISSING (08 Table 8-13). -/
def execDiscovery (s : State) : Host.Outcome State Fault Refusal :=
  let due := [Half.east, Half.west].filter (fun h => s.atStage h 9)
  let bs := (List.range 260).filter (fun b => decide (berthHalf b ∈ due) && s.planned b)
  if due.isEmpty || !bs.all (fun b => s.berthSettled b) then .next s
  else
    let s := (bs.filter (fun b => (s.berth b).outcome == 4)).foldl (fun (s : State) b => s.setOutcome b 3) s
    let s := s.noteDegraded
    let s := s.modHalves (fun _ x => if x.restart = 9 then { x with restart := 10 } else x)
    .next (if s.boot.stage = 9 then s.toStage 10 else s)

/-! ## The Chart, the binding table and the free stores (15 R395, R397) -/

/-- CHART_LOAD: slot 0 holds a SELF section, and every berth its plan; a Chart whose date lines clash is not taken (08 R226; log entry 101). -/
def execChartLoad (s : State) : Host.Outcome State Fault Refusal :=
  .next (if s.boot.stage = 10 ∧ s.chartReady = true ∧ s.boot.failed = false ∧ s.dateLineClash s.chart.slot0 = false then s.toStage 11 else s)

/-- BINDING_TABLE_LOCK: channels 32 to 63 are bound as the block directs and the table is locked; the free stores are built. After
ANCHOR the table stays as it is (15 R405). -/
def execBindingTableLock (s : State) : Host.Outcome State Fault Refusal :=
  if s.boot.stage ≠ 11 ∨ s.boot.failed = true then .next s
  else
    let binds := if s.mbox.locked then [] else ((s.boot.block.map (fun (c : ConfigBlock) => c.bindings)).getD []).filter (fun e => decide (32 ≤ e.1.val))
    let s := s.modMbox (fun m => { m with
      locked := true
      chans := binds.foldl (fun (t : Tab ChanSt) e => Tab.upd {} t e.1.val (fun c => { c with bind := some e.2 })) m.chans })
    let s := (s.buildPool .east).buildPool .west
    .next (if s.boot.failed then s else s.toStage 12)

/-! ## The first tide (15 R398, R399) -/

/-- The alignment cell that the first number is taken from: the timing parent's in GENERATE mode, else the latest of any neighbour.
Log entry 7. -/
def State.firstAlign (s : State) : Option (AlignCell × Nat) :=
  if s.tide.cfg.mode = modeGenerate then (s.berth s.parentNow).lastAlign
  else s.berths.foldl (fun (m : Option (AlignCell × Nat)) e => match m, e.2.lastAlign with
    | some a, some b => if a.2 < b.2 then some b else some a
    | none, x => x
    | x, none => x) none

/-- The number of a first boundary placed at a core cycle, by the alignment cell (15 R398). Log entry 7. -/
def State.numberAt (s : State) (now : Nat) : Option TideNo :=
  match s.firstAlign with
  | some (c, at_) => if at_ ≤ now then some (firstTideNumber (stampCycles c.dep) (now - at_)) else none
  | none => none

/-- May the first boundary be placed at a core cycle, and with which number? Log entry 7. -/
def State.firstTideAt (s : State) (now : Nat) : Option TideNo :=
  let t := s.tide
  if now < t.start then none
  else if t.cfg.mode = modeRoot then (if now % 10 = 0 then some t.cfg.start else none)
  else if t.cfg.mode = modeGenerate then
    match t.firstOff with
    | some off => if (Int.ofNat now - (Int.ofNat t.start + (off + 8) / 16)) % 4000 = 0 then s.numberAt now else none
    | none => none
  else if t.cfg.mode = modeFollow ∧ t.locked = true ∧ t.lastEdge = some (now - t.cfg.trim.toNat) then s.numberAt now
  else none

/-! ## The default berth profile (01 R28, Table 1-9) -/

/-- The address of the switch one hop along an axis, if the topology has one there. -/
def Chart.hopAddr (c : Chart) (ax : Nat) (plus : Bool) : Option Nat :=
  let own := c.own.toNat
  let n := match ax with
    | 0 => c.nx
    | 1 => c.ny
    | _ => c.nz
  let x := addrCoord own ax
  let unit := 2 ^ (20 - 4 * ax)
  let edge := if plus then decide (n ≤ x + 1) else decide (x = 0)
  if n ≤ 1 ∨ n ≤ x ∨ (edge && !c.wraps ax) then none
  else
    let y := if plus then (x + 1) % n else (x + n - 1) % n
    some (addrSwitch own * 4096 - x * unit + y * unit)

/-- The four berths of each half from an offset, East first. -/
def profileBerths (offset : Nat) : List Nat := (List.range 4).map (fun i => offset + i) ++ (List.range 4).map (fun i => 128 + offset + i)

/-- The torus bundle of an axis and direction, which faces the neighbour's opposite bundle at the same offset. -/
def Chart.profileBundle (c : Chart) (ax : Nat) (plus : Bool) : Option (Nat × BundleE) :=
  (c.hopAddr ax plus).map (fun (a : Nat) =>
    let i := 2 * ax + if plus then 0 else 1
    let j := 2 * ax + if plus then 1 else 0
    (i, { role := axisRole ax plus, addr := BitVec.ofNat 32 a, berths := profileBerths (96 + 4 * i), peerBerths := profileBerths (96 + 4 * j) }))

/-- A Chart that assigns no berths has the default profile: accelerator `a` is the group of berths a and 128 + a, with B = a (08 R219),
and may send for every job. The profile names no neighbour for the upper tier's bundle: its address matches none. A Chart that assigns
any berth keeps nothing of the profile, and a direction without a neighbour has no bundle (log entry 52). -/
def Chart.withProfile (c : Chart) : Chart :=
  if !c.bundles.isEmpty || !c.groups.isEmpty then c
  else
    let own := addrSwitch c.own.toNat * 4096
    { c with
      groups := (List.range 96).map (fun a =>
        (a, { addr := BitVec.ofNat 32 (own + 16 * a), noSpares := false, analysis := false, berths := [a, 128 + a], jobs := BitVec.allOnes 64 }))
      bundles := [(0, true), (0, false), (1, true), (1, false), (2, true), (2, false)].filterMap (fun (x : Nat × Bool) => c.profileBundle x.1 x.2)
        ++ [(6, { role := 7, addr := 0xF0000000, berths := profileBerths 120, peerBerths := profileBerths 120 })] }

/-- The first tide begins: slot 0 is the active Chart, and every berth that is up gets its first credits. STEP_COUNT goes on
counting across ANCHOR (log entry 113). -/
def State.beginTides (s : State) (now : Nat) (n : TideNo) : State :=
  let s := s.modTide (fun t => { t with
    running := true, now := n, start := now, len := 4000, refPhase := now % 10, lastFollowed := now, sincePrimary := 0, sinceBackup := 0,
    stepped := false, pStep := 0, measureAgain := false, relock := false, relockTide := false }.drive)
  let s := s.modChart (fun c => { c with slot0 := c.slot0.withProfile })
  let wholly := fun (e : BundleE) => !e.berths.isEmpty && e.berths.all (fun b => s.unlinked b)
  let sel := ((s.chart.slot0.bundles.filter (fun e => s.chart.slot0.bypass.getLsbD e.1 && decide (1 ≤ e.2.role ∧ e.2.role ≤ 6) && wholly e.2)).map
    (fun e => 2 ^ e.1)).sum
  let s := s.modChart (fun c => { c with active := true, epoch := false, bypassSel := BitVec.ofNat 16 sel, draining := false })
  let s := s.modHalves (fun _ x => x.refill)
  (s.grantCredits).modBoot (fun b => { b with safeN := false, stage := 0xD })

/-- FIRST_TIDE: the condition of the mode is met at a core cycle. -/
def execFirstTide (now : Nat) (s : State) : Host.Outcome State Fault Refusal :=
  if s.boot.stage ≠ 12 ∨ s.tideReady = false ∨ s.boot.failed = true ∨ s.tide.running = true ∨ s.dateLineClash s.chart.slot0 = true then .next s
  else
    match s.firstTideAt now with
    | some n => .next (s.beginTides now n)
    | none => .next s

/-! ## Reset of one half (15 R403, R404) -/

/-- Boundary t + 1: the half takes on the effects of the safe state. Log entry 57. -/
def State.resetStops (s : State) (h : Half) : State :=
  let was := s.halfSafe h
  let s := (s.modHalf h (fun x => { x with restart := 1, resetAt := none })).modBoot (fun b => { b with stage := 0xE })
  if was then s else s.stopHalf h

/-- The other half leaves: what a half has queued for it is dropped and counted, and what has come from it in part ends (09 R240; log entry
28). -/
def State.dropBridge (s : State) (h : Half) : State := (s.bridgeGone h.other (fun o => decide (288 ≤ o))).bridgeGone h (fun o => decide (288 ≤ o))

/-- The berths and engines that a partition fences (17 R430). -/
def PartSt.objects (p : PartSt) : List FenceObj := p.berths.filterMap (fun b => fenceObj 1 b) ++ p.engines.filterMap (fun e => fenceObj 0 e)

/-- Partitions end: their fences are lifted, and their berths wait for discovery (17 R442, R443). -/
def State.endParts (s : State) (q : Nat → PartSt → Bool) : State :=
  let gone := s.parts.filter (fun e => q e.1 e.2)
  let objs := gone.flatMap (fun e => e.2.objects)
  let s := objs.foldl (fun (s : State) o => s.fenceOff o) { s with parts := s.parts.filter (fun e => !q e.1 e.2) }
  let s := s.modFault (fun f => { f with fences := f.fences.filter (fun x => !(x.internal && decide (x.obj ∈ objs))) })
  gone.foldl (fun (s : State) e => e.2.berths.foldl (fun (s : State) b =>
    s.modBerth b (fun y => { y with outcome := 4, seen := none, discoverAt := none })) s) s

/-- Boundary t + 2: the half enters reset. Its shards are lost with its Quay, and the gathers that waited on them are refused; a
partition that works in it ends. Log entry 57. -/
def State.resetHalf (s : State) (h : Half) : State :=
  let s := s.dropBridge h.other
  let s := s.clearHalf h 6
  let s := s.modBoot (fun b => match h with
    | .east => { b with eastUp := false }
    | .west => { b with westUp := false })
  let gone := (s.shards.filter (fun e => e.2.half == h)).map (fun e => e.1)
  let s := { s with shards := s.shards.filter (fun e => e.2.half != h) }
  let s := (s.gathers.filter (fun g => decide (g.shard ∈ gone))).foldl (fun (s : State) g => s.dropGather g 4) s
  let s := { s with
    streams := Tab.mapV s.streams (fun _ x => { x with parkedCells := x.parkedCells.filter (fun w => (s.findPkt w.pid).isSome) }) }
  let s := s.endParts (fun _ p => p.berths.any (fun b => berthHalf b == h) || p.engines.any (fun g => engHalf g == h))
  let s := s.receiverReset (BitVec.ofNat 4 (13 + h.num))
  match h with
  | .east => s
  | .west => s.hostPortDown

/-- HALF_REJOIN: the half takes its Manifests, the traffic-management set and the epoch from the other half. -/
def execHalfRejoin (h : Half) (s : State) : Host.Outcome State Fault Refusal :=
  if (s.half h).restart ≠ 10 then .next s
  else
    let o := s.half h.other
    let s := s.modHalf h (fun x => { x with restart := 0, tm := o.tm, tmShadow := o.tmShadow, tmArmed := o.tmArmed })
    let s := { s with streams := Tab.mapV s.streams (fun _ x => match h with
      | .east => { x with statE := {} }
      | .west => { x with statW := {} }) }
    let s := (s.buildPool h).modBoot (fun b => { b with stage := 0xD })
    .next (match h with
      | .east => s
      | .west => s.modBoot (fun b => { b with hostPort := b.perstN }))

end Sys2Proof.Machine
end

