-- ==== Sys2Proof/Machine/PowerCmds.lean ====
section
/-! DEFINITION. UCI group 0x08, power and security, and the transitions of power, debug, lifecycle and mastership (12 Table 12-19, 14
R366 to R386). -/

namespace Sys2Proof.Machine

/-! ## Power (14 R377 to R380, 15 R405) -/

/-- May the part go from a power state to a target (14 Table 14-7)? -/
def powerStep (now target : Nat) : Bool := (now == 0 && (target == 1 || target == 2)) || (decide (1 ≤ now ∧ now ≤ 2) && target == 0)

/-- Is a stream LIVE, a shard UPDATING, a gather, prefetch or RESHARD round outstanding, or a half in reset (14 R378)? Log entry 59. -/
def State.dozeBlocked (s : State) : Bool :=
  s.anyLive || s.shards.any (fun e => e.2.state == 2) || !s.gathers.isEmpty || !s.prefetches.isEmpty || s.colls.any (fun e => e.2.reshard.isSome)
    || !s.east.inUse || !s.west.inUse || s.east.resetAt.isSome || s.west.resetAt.isSome

/-- Holds a job granules, or is a stream or a shard not FREE (14 R379)? -/
def State.anchorBlocked (s : State) : Bool :=
  s.jobs.any (fun e => !e.2.granules.isEmpty) || s.streams.any (fun e => e.2.state != .free || e.2.pCreate.isSome)
    || s.shards.any (fun e => e.2.state != 0 || e.2.pCfg.isSome)

/-- Is any safe state in force (14 R378)? -/
def State.safeInForce (s : State) : Bool := s.anySafe || s.berths.any (fun e => e.2.safe)

/-- Exit from ANCHOR: the enables rise, the host port answers again (01 R12), and start-up runs from stage 6 (15 R405). -/
def State.leaveAnchor (s : State) : State :=
  let s := s.modSec (fun x => { x with power := 0 })
  let s := s.modBoot (fun b => { b with pwrEn := true, lanesUp := false, failed := false, hostPort := b.perstN })
  let s := s.modHalves (fun _ x => { x with stageDone := 0, started := false, trained := false, restart := 0 })
  (s.modTide (fun t => { t with counting := true })).toStage 6

/-- A berth goes into LS1 in DOZE, unless it carries a timing parent (11 R299). -/
def State.dozeBerth (s : State) (b : Nat) : State :=
  let y := s.berth b
  if y.up && !y.eth && y.lstate == 0 && !s.isParent b && y.isIdle && !s.wanted b && y.orderedSet == 0 then
    s.modBerth b (fun y => { y with orderedSet := osDozeReq, dozeAsked := true })
  else s

/-- A berth that firmware does not let doze wakes when the part returns to RUN. -/
def State.wakeBerth (s : State) (b : Nat) : State :=
  s.modBerth b (fun y => if y.lstate = 1 ∧ !y.dozeAllowed then { y with orderedSet := osWake } else y)

/-- Entry to ANCHOR (14 R379, R380): the berths go down, the generator stops, the halves, the Quay and the Hold lose power and the
keys are destroyed. Half and berth safe states end and their records close. What firmware holds stays: the active Chart, as slot 0,
the traffic-management sets, the pages of the free stores and the tide's configuration. Log entry 56. -/
def State.enterAnchor (s : State) : State :=
  let c := s.active
  let s := s.endParts (fun _ _ => true)
  let s := (s.clearHalf .east 0).clearHalf .west 0
  let s := s.modHalves (fun _ x => { x with safe := false, tmShadow := x.tm, tmBase := x.tm })
  let ends := fun (r : Rec) => r.isOpen && (match r.scope with
    | some .pkg => false
    | some _ => true
    | none => decide (3 ≤ r.action ∧ r.action ≤ 4))
  let srcs := (s.fault.recs.filter ends).map (fun (r : Rec) => r.source)
  let t0 := s.tide
  let bare := fun (x : JobSt) => (({
    owner := x.owner, seed := x.seed, step := x.step, drops := x.drops, gatherRefused := x.gatherRefused, fenced := x.fenced } : JobSt))
  let jobs := Tab.mapV s.jobs (fun _ x => bare x)
  let s := { s with
    berths := Tab.mapV s.berths (fun _ (y : BerthSt) => { y with safe := false })
    tide := { t0 with
      running := false, counting := false, lastEdge := none, lockRun := 0, locked := false, holdover := false, holdRun := 0, pStep := 0,
      measureAgain := false, relock := false, relockTide := false, stepped := false, onBackup := false, firstOff := none, pCfg := none,
      pAsym := [], skewNow := false, skewRun := 0, skew := 0, len := 4000,
      capHi := 0, capCycle := 0, pulse := none }
    tiles := []
    streams := Tab.mapV s.streams (fun _ (x : StreamSt) => { gen := x.gen, home := x.home, statE := x.statE, statW := x.statW })
    snapStreams := []
    snapColls := []
    colls := []
    jobs := jobs
    shards := []
    snapShards := []
    gathers := []
    prefetches := []
    lost := []
    chart := { slot0 := c, base := {}, plan := s.chart.plan, badGroups := [] }
    parts := []
    snapParts := []
    counters := []
    snap := []
    quayE := []
    quayW := []
    hold := []
    holdEpoch := [] }
  let s := s.modFault (fun f => { f with
    recs := f.recs.map (fun (r : Rec) => if ends r then { r with isOpen := false } else r)
    sources := Tab.mapV f.sources (fun k x => if BitVec.ofNat 16 k ∈ srcs then { x with count := 0 } else x)
    force := f.force &&& 1
    pForce := f.pForce &&& 1
    pExit := []
    lines := 0
    details := [] })
  let s := s.modMbox (fun m => { m with xfers := [], xferDone := [], pLanes := [], landed := [] })
  let s := (s.receiverReset 13).receiverReset 14
  let s := s.hostPortDown
  (s.modSec (fun x => { x with power := 2 })).modBoot (fun b => { b with
    pwrEn := false, eastUp := false, westUp := false, lanesUp := false, degraded := false })

/-- POWER_SET: into DOZE and out of it at the next boundary, when the reply is posted; into ANCHOR, the reply comes first; out of
ANCHOR at once. -/
def execPowerSet (u : Uci) (state : Byte) (s : State) : Host.Outcome State Fault Refusal :=
  let n := state.toNat
  let p := s.sec.power.toNat
  .next (s.uci u { code := 0x0801, len := 4, sender := .privSec, window := true, anchor := true }
    [(stMalformed, decide (2 < n)), (stSecurity, !powerStep p n), (stState, s.inWindow), (stState, n == 1 && s.dozeBlocked),
     (stFaulted, n == 1 && s.safeInForce), (stState, n == 2 && s.anchorBlocked), (stFaulted, p == 2 && s.fault.pkgSafe),
     (stBusy, s.sec.pPower.isSome)]
    (fun t =>
      if p = 2 then { st := t.leaveAnchor }
      else
        let t := t.modSec (fun x => { x with pPower := some state })
        { st := t, effect := t.nextBoundary, wait := if n = 2 then none else some .power }))

/-- The power transition that is due at a boundary (14 R380): the Breakwater has acted first. -/
def State.powerAt (s : State) : State :=
  match s.sec.pPower with
  | none => s
  | some p =>
    let s := s.modSec (fun x => { x with pPower := none })
    match p.toNat with
    | 1 =>
      if s.safeInForce then s.failWait .power stFaulted
      else (s.berths.foldl (fun (s : State) e => s.dozeBerth e.1) (s.modSec (fun x => { x with power := 1 }))).finishAt .power
    | 2 => s.enterAnchor
    | _ => (s.berths.foldl (fun (s : State) e => s.wakeBerth e.1) (s.modSec (fun x => { x with power := 0 }))).finishAt .power

/-! ## Debug and lifecycle (14 R366 to R371) -/

/-- DEBUG_CHALLENGE: a fresh nonce replaces any before it. -/
def execDebugChallenge (u : Uci) (s : State) : Host.Outcome State Fault Refusal :=
  .next (s.uci u { code := 0x0802, len := 0, sender := .privSec, window := true, anchor := true }
    [(stSecurity, decide (8 ≤ s.sec.authFails))]
    (fun t =>
      let (i, t) := t.freeIx
      let n := Config.random i
      { st := t.modSec (fun x => { x with nonce := some n }), body := bvBytes 48 n }))

/-- The 58 bytes that DEBUG_OPEN and LIFECYCLE_SET sign (14 R367). -/
def State.signedMessage (s : State) (target : Byte) : List Byte :=
  bvBytes 48 (s.sec.nonce.getD 0) ++ leBytes 8 Config.serial.toNat ++ [s.sec.lifecycle, target]

/-- Is a signature accepted: the nonce stands, and the key of a kind, from the configuration block, verifies it (14 R367)? -/
def State.authOk (s : State) (kind : Nat) (target : Byte) (sig : BitVec 768) : Bool :=
  s.sec.nonce.isSome && s.boot.block.isSome && Config.ecdsaOk kind (s.signedMessage target) sig

/-- A signature is refused: the nonce is spent, and the refusal counted. -/
def State.authRefused (k : Nat) (s : State) : State :=
  if k = stAuth then s.modSec (fun x => { x with nonce := none, authFails := x.authFails + 1 }) else s

/-- A security transition of any kind waits for its boundary. Log entry 53. -/
def State.securityPending (s : State) : Bool := s.sec.zero.isSome || s.sec.pDebug.isSome || s.sec.pLifecycle.isSome

/-- A zeroization that the configuration window makes at once: no job has anything in flight. Log entry 59. -/
def State.zeroNow (s : State) (z : ZeroSt) : State := (s.zeroFree z).zeroFill z

/-- DEBUG_OPEN: AUTH-OPEN, in FIELD after full zeroization; in ANCHOR only the keys are left to destroy. Log entry 54. -/
def execDebugOpen (u : Uci) (target : Byte) (signature : BitVec 768) (s : State) : Host.Outcome State Fault Refusal :=
  let l := s.sec.lifecycle.toNat
  let kind := if l = 3 then keyOwner else keyDebug
  let mayOpen := s.sec.dbg == 0 && decide (2 ≤ l ∧ l ≤ 4) && (s.sec.power == 0 || s.sec.power == 2)
  let keyed := l != 3 || s.sec.ownerKey
  let ok := keyed && s.authOk kind 0x81 signature
  .next (s.uciWith u { code := 0x0803, len := 100, sender := .privSec, window := true, anchor := true }
    [(stMalformed, target != 1), (stSecurity, !mayOpen), (stState, s.anyLive || s.shards.any (fun e => e.2.state == 2)), (stBusy, s.securityPending),
     (stAuth, !ok)]
    State.authRefused
    (fun t =>
      let t := t.modSec (fun x => { x with nonce := none })
      let z : ZeroSt := { job := none, keysGone := false, granules := [], debugOpen := true, lifecycle := none }
      if t.tide.running then
        let t := if l = 3 then t.zeroStart z else t.modSec (fun x => { x with pDebug := some 1 })
        { st := t, wait := some .zeroize }
      else
        let t := if l ≠ 3 then t else if t.sec.power = 2 then t.destroyAllKeys else t.zeroNow z
        { st := t.setDebug 1 }))

/-- DEBUG_CLOSE. -/
def execDebugClose (u : Uci) (s : State) : Host.Outcome State Fault Refusal :=
  .next (s.uci u { code := 0x0804, len := 0, sender := .privSec, window := true, anchor := true }
    [(stSecurity, s.sec.dbg == 0), (stBusy, s.securityPending)]
    (fun t =>
      if t.tide.running then { st := t.modSec (fun x => { x with pDebug := some 0 }), effect := t.nextBoundary }
      else { st := t.setDebug 0 }))

/-- Does Table 14-2 allow a lifecycle transition now? -/
def State.mayMove (s : State) (target : Nat) : Bool :=
  let l := s.sec.lifecycle.toNat
  let p := s.sec.power.toNat
  (l == 1 && target == 2 && p == 0) || (l == 2 && target == 3 && p == 0 && s.sec.dbg == 0)
    || ((l == 2 || l == 3) && target == 4 && (p == 0 || p == 2))

/-- LIFECYCLE_SET: forward only; RETURNED after full zeroization. -/
def execLifecycleSet (u : Uci) (target : Byte) (signature : BitVec 768) (s : State) : Host.Outcome State Fault Refusal :=
  let n := target.toNat
  let kind := if n = 3 then keyOwner else keyRoot
  .next (s.uciWith u { code := 0x0805, len := 100, sender := .privSec, window := true, anchor := true }
    [(stMalformed, decide (n < 1 ∨ 4 < n)), (stSecurity, !s.mayMove n), (stBusy, s.securityPending), (stAuth, !s.authOk kind target signature)]
    State.authRefused
    (fun t =>
      let t := t.modSec (fun x => { x with nonce := none })
      let z : ZeroSt := { job := none, keysGone := false, granules := [], debugOpen := false, lifecycle := some 4 }
      if t.tide.running then
        let t := if n = 4 then t.zeroStart z else t.modSec (fun x => { x with pLifecycle := some target })
        { st := t, wait := some .zeroize }
      else
        let t := if n ≠ 4 then t else if t.sec.power = 2 then t.destroyAllKeys else t.zeroNow z
        { st := t.setLifecycle target }))

/-! ## ZEROIZE (14 R375, R376) -/

/-- Is a stream of a zeroization's scope LIVE, or a stream command in it pending? -/
def State.zeroLive (s : State) (z : ZeroSt) : Bool := s.streams.any (fun e => e.2.state == .live && e.2.cfg.any (fun m => z.covers m.job))
def State.zeroBusy (s : State) (z : ZeroSt) : Bool :=
  s.streams.any (fun e => e.2.armed && (e.2.cfg.toList ++ e.2.pCreate.toList).any (fun m => z.covers m.job))

/-- ZEROIZE. -/
def execZeroize (u : Uci) (scope : Byte) (s : State) : Host.Outcome State Fault Refusal :=
  let z : ZeroSt := { job := if scope = 0 then some u.job.toNat else none, keysGone := false, granules := [], debugOpen := false, lifecycle := none }
  .next (s.uci u { code := 0x0806, len := 4, sender := .privSec, job := scope == 0, window := true }
    [(stMalformed, decide (1 < scope.toNat)), (stState, s.zeroLive z), (stBusy, s.zeroBusy z || s.securityPending)]
    (fun t =>
      if t.tide.running then { st := t.zeroStart z, effect := t.nextBoundary, wait := some .zeroize }
      else
        let z := match z.job with
          | some j => { z with granules := (t.job j).granules }
          | none => z
        { st := t.zeroNow z }))

/-! ## Mastership (14 R383 to R385) -/

/-- Is the standby pair ready? -/
def State.standbyReady (s : State) : Bool := if s.sec.primaryB then s.sec.readyA else s.sec.readyB

/-- The latch names the other pair: a receiver reset of every channel bound to 0xF (12 R321). -/
def State.flipLatch (s : State) : State :=
  (s.resetChans (fun b => b.recv == 0xF)).modSec (fun x => { x with primaryB := !x.primaryB, pHandover := false })

/-- MASTERSHIP: the outgoing pair finishes what it has taken, and the latch flips at the next boundary. -/
def execMastership (u : Uci) (s : State) : Host.Outcome State Fault Refusal :=
  .next (s.uci u { code := 0x0807, len := 0, sender := .privSec, window := true, anchor := true } [(stState, !s.standbyReady)]
    (fun t =>
      if t.tide.running then { st := t.modSec (fun x => { x with pHandover := true }), effect := t.nextBoundary, wait := some .handover }
      else { st := t.flipLatch }))

/-- What a failed primary takes with it (14 R385): the commands it had taken, and shadow writes that were not armed. Log entry 58. -/
def State.primaryLost (s : State) : State :=
  let s := s.modMbox (fun m => { m with waiting := [], replies := [], xfers := m.xfers.filter (fun e => decide (e.1 ∈ m.xferDone)) })
  let s := if s.chart.armT.isSome then s
    else s.modChart (fun c => if c.epoch then { c with slot0 := c.base } else { c with slot1 := c.base })
  let s := s.modHalves (fun _ x => if x.tmArmed then x else { x with tmShadow := x.tmBase })
  { s with jobs := Tab.mapV s.jobs (fun _ (x : JobSt) => { x with loading := [] }) }

/-- The handover or failover that is due at a boundary. -/
def State.mastershipAt (s : State) : State :=
  if !s.hmUp (bitNat s.sec.primaryB) then
    if s.standbyReady then s.primaryLost.flipLatch else s.modMbox (fun m => { m with uciReady := false })
  else if s.sec.pHandover && s.mbox.waiting.all (fun w => w.what == Await.handover) then (s.finishAt .handover).flipLatch
  else s

end Sys2Proof.Machine
end

