-- ==== Sys2Proof/Machine/TelemetryCmds.lean ====
section
/-! DEFINITION. UCI group 0x09, telemetry, and the statistics snapshot (12 R341, Table 12-20; 02 R47, 07 R198 to R201, 09 R253, R261, 10
R281, 11 R303). -/

namespace Sys2Proof.Machine

/-! ## The snapshot (02 R47) -/

/-- The codes of values that the snapshot holds beside the counters: the pallets' low mark, a job's drops and refused gathers, a tile's
peak and an electrical berth's store fill. -/
def snapFreeLow : Nat := 43
def snapDrops : Nat := 44
def snapRefused : Nat := 45
def snapPeak : Nat := 46
def snapFill : Nat := 47

/-- The key of a value of the snapshot. -/
def snapKey (code i : Nat) : Nat := code * 65536 + i

/-- What the snapshot of a boundary holds of the state. -/
def State.snapNow (s : State) : Tab Nat :=
  s.counters
    ++ [Half.east, Half.west].map (fun h => (snapKey snapFreeLow h.num, (s.half h).pool.freeLow))
    ++ s.jobs.map (fun e => (snapKey snapDrops e.1, e.2.drops))
    ++ s.jobs.map (fun e => (snapKey snapRefused e.1, e.2.gatherRefused))
    ++ s.tiles.map (fun e => (snapKey snapPeak e.1, e.2.peak))
    ++ [256, 257, 258, 259].map (fun b => (snapKey snapFill b, s.storeFill b))

/-- Step 3 of a boundary. Log entry 6. -/
def State.takeSnap (s : State) : State :=
  { s with snap := s.snapNow, snapStreams := s.streams, snapColls := s.colls, snapShards := s.shards, snapParts := s.parts }.mirrorLanes

/-! ## COUNTERS_READ -/

/-- The values of a set, in order: each counter's code, its first unit and its number of units (log entry 49: the spec does not lay the
sets out). -/
def counterSet : Nat → List (Nat × Nat × Nat)
  | 0 => [Ctr.crcBad, .hdrBad, .srcBad, .jobDenied, .noRoute, .aged, .epochNone, .quarantined].map (fun c => (c.code, 0, 268))
  | 1 => [(Ctr.inCrcBad.code, 0, 768), (Ctr.crcBadPassed.code, 0, 768), (Ctr.overCredit.code, 0, 6144), (Ctr.tailDrop.code, 0, 6144),
          (Ctr.pushedOut.code, 0, 6144), (Ctr.ctPackets.code, 0, 768), (Ctr.sfPackets.code, 0, 768), (Ctr.matchGrains.code, 0, 768),
          (Ctr.lockGrains.code, 0, 768), (Ctr.mirrorDrop.code, 0, 16)]
         ++ [Ctr.palletRange, .doubleAlloc, .doubleFree, .chainBad, .refUnder, .pageAlign, .palletLeak].map (fun c => (c.code, 0, 2))
         ++ [(snapFreeLow, 0, 2)]
  | 2 => [Ctr.polGreen, .polYellow, .polRed, .policeDrop].map (fun c => (c.code, 0, 8192))
         ++ [(Ctr.creditSent.code, 0, 2080), (Ctr.creditStall.code, 0, 2080), (Ctr.throttleSent.code, 0, 3072), (Ctr.throttlePeak.code, 0, 3072),
             (Ctr.injThrottled.code, 0, 40), (Ctr.deficitRounds.code, 0, 3072)]
  | 3 => [(Ctr.corrected.code, 0, 1040), (Ctr.uncorrectable.code, 0, 1040), (Ctr.nakSent.code, 0, 260), (Ctr.replayed.code, 0, 260),
          (Ctr.stomped.code, 0, 260), (Ctr.stompedRx.code, 0, 260), (Ctr.downEvents.code, 0, 260), (Ctr.ethDrop.code, 256, 4), (snapFill, 256, 4)]
  | 5 => [(snapPeak, 0, 320)]
  | _ => []

/-- The snapshot's keys of the values of a set; a job's two values for set 4. -/
def counterKeys (set job : Nat) : List Nat :=
  if set = 4 then [snapKey snapDrops job, snapKey snapRefused job]
  else (counterSet set).flatMap (fun c => (List.range c.2.2).map (fun i => snapKey c.1 (c.2.1 + i)))

/-- A value's default where nothing has been counted. -/
def snapDefault (key : Nat) : Nat := if key / 65536 = snapFreeLow then 184320 else 0

/-- A peak value starts again when it is read. -/
def State.resetPeak (s : State) (key : Nat) : State :=
  let i := key % 65536
  if key / 65536 = Ctr.throttlePeak.code then { s with counters := Tab.erase s.counters key }
  else if key / 65536 = snapFreeLow then s.modHalf (Half.ofNum i) (fun x => { x with pool := { x.pool with freeLow := x.pool.free } })
  else if key / 65536 = snapPeak then { s with tiles := s.tiles.map (fun e => if e.1 = i then (e.1, { e.2 with peak := 0 }) else e) }
  else s

/-- COUNTERS_READ. -/
def execCountersRead (u : Uci) (set : Byte) (first count : U16) (s : State) : Host.Outcome State Fault Refusal :=
  let n := set.toNat
  let keys := counterKeys n u.job.toNat
  .next (s.uci u { code := 0x0901, len := 8, sender := if n = 4 then .owner else .priv, job := n == 4, window := true }
    [(stMalformed, decide (5 < n ∨ keys.length < first.toNat + count.toNat))]
    (fun t =>
      let ks := (keys.drop first.toNat).take count.toNat
      { st := ks.foldl (fun (t : State) k => t.resetPeak k) t, body := ks.flatMap (fun k => leBytes 4 (Tab.get (snapDefault k) t.snap k)) }))

/-! ## Tasting and noise (07 R198 to R201) -/

/-- TASTING_SET. -/
def execTastingSet (u : Uci) (k : Byte) (threshold : U32) (s : State) : Host.Outcome State Fault Refusal :=
  let n := k.toNat
  .next (s.uci u { code := 0x0902, len := 8, sender := .owner, job := true } [(stMalformed, n != 0 && decide (n < 6 ∨ 16 < n))]
    (fun t => { st := t.modJob u.job.toNat (fun x => { x with pTaste := some (n, threshold) }), effect := t.nextBoundary }))

/-- NOISE_SET. -/
def execNoiseSet (u : Uci) (sid : U32) (j : Byte) (key : U32) (s : State) : Host.Outcome State Fault Refusal :=
  let n := sid.toNat
  let m := (s.stream n).cfg
  .next (s.uci u { code := 0x0903, len := 12, sender := .owner, job := true }
    (s.streamCauses u sid ++ [(stMalformed, (j != 0xFF && decide (16 < j.toNat)) || decide (2 ^ 20 ≤ key.toNat)),
      (stState, !m.any (fun m => m.op == 1)), (stFaulted, m.any (fun m => s.streamOut m))])
    (fun t =>
      let v : Option (Nat × U32) := if j = 0xFF then none else some (j.toNat, key)
      { st := t.modStream n (fun x => { x with pNoise := some v }), effect := t.nextBoundary }))

/-- The STEP_REPORT reply of a stream, as of the snapshot; a sum that met a special value is free (log entry 25). -/
def State.streamReport (s : State) (n : Nat) : List Byte :=
  let x := Tab.get {} s.snapStreams n
  let b := fun (a : ExactVal) (i : Nat) => leBytes 8 (a.binary64 (s.freeCtr + i))
  tasteBytes x.tasteDiv x.tasteBlock x.tasteBlocks ++ leBytes 4 0 ++ b x.noiseS 0 ++ b x.noiseA 2
    ++ leBytes 2 ((x.cfg.map (fun m => m.nMembers)).getD 0) ++ leBytes 2 0 ++ leBytes 4 x.noiseChunks

/-- The STEP_REPORT reply of a shard: its Tasting only. -/
def State.shardReport (s : State) (job index : Nat) : List Byte :=
  match s.snapShard job index with
  | some (_, x) => tasteBytes x.tasteDiv x.tasteBlock x.tasteBlocks ++ List.replicate 28 0
  | none => List.replicate 40 0

/-- STEP_REPORT. -/
def execStepReport (u : Uci) (kind : Byte) (index : U32) (s : State) : Host.Outcome State Fault Refusal :=
  let j := u.job.toNat
  .next (s.uci u { code := 0x0904, len := 8, sender := .owner, job := true }
    [(stMalformed, decide (1 < kind.toNat ∨ 2 ^ 20 ≤ index.toNat)),
     (stDenied, if kind = 0 then (s.stream index.toNat).man.any (fun m => m.job != j) else s.shardForeign j index.toNat)]
    (fun t => { st := { t with freeCtr := t.freeCtr + 4 }, body := if kind = 0 then t.streamReport index.toNat else t.shardReport j index.toNat }))

/-! ## MIRROR_SET (09 R253) -/

/-- Does the active Chart mark a berth as analysis? -/
def State.analysisBerth (s : State) (b : Nat) : Bool := s.active.groups.any (fun e => e.2.analysis && decide (b ∈ e.2.berths))

/-- Are the fields of a session in range? -/
def mirrorBad (source dir vc analysis key job : Nat) : Bool :=
  source != 0 && (decide (dir < 1 ∨ 3 < dir ∨ 7 < vc ∨ 259 < analysis) || (source == 1 && decide (259 < key))
    || (source == 2 && decide (2 ^ 20 ≤ key ∨ 64 ≤ job)))

/-- MIRROR_SET: sets a session of a half, or turns it off. Log entry 60. -/
def execMirrorSet (u : Uci) (half session source dir vc : Byte) (analysis : U16) (key : U32) (flow : U16) (job : Byte) (s : State) :
    Host.Outcome State Fault Refusal :=
  let h := Half.ofNum half.toNat
  .next (s.uci u { code := 0x0905, len := 16 }
    [(stMalformed, decide (1 < half.toNat ∨ 7 < session.toNat ∨ 3 < source.toNat)
        || mirrorBad source.toNat dir.toNat vc.toNat analysis.toNat key.toNat job.toNat),
     (stState, source != 0 && !s.analysisBerth analysis.toNat), (stFaulted, s.halfOut h)]
    (fun t =>
      let v : Option MirrorSt := if source = 0 then none else some ⟨source, dir, vc.toNat, analysis.toNat, key, flow, job⟩
      { st := t.modHalf h (fun x => { x with pMirrors := Tab.set x.pMirrors session.toNat v }), effect := t.nextBoundary }))

end Sys2Proof.Machine
end

