-- ==== Sys2Proof/Machine/Sampler.lean ====
section
/-! DEFINITION. Sampler mode: UCI group 0x0A, the generators, the golden endpoint, and the partitions' part of a boundary (17). The
layouts that chapter 17 does not give are those of log entry 50. -/

namespace Sys2Proof.Machine

/-! ## Generated packets (17 R433 to R436) -/

/-- Bytes of a stored packet: 67 cells of 68 B. -/
def storedBytes : Nat := 67 * 68

/-- A stored packet: its head's cell word and its payload bytes. -/
def State.storedPacket (s : State) (addr : Nat) : U32 × List Byte :=
  let hd := Hdr.ofBytes (s.quayReadAt (addr + 4) 64)
  let n := min 67 hd.cells
  (BitVec.ofNat 32 (field (s.quayReadAt addr 4) 0 4), (List.range n).flatMap (fun i => s.quayReadAt (addr + 68 * i + 4) 64))

/-- The template of a generator: cell word and head payload. -/
def State.template (s : State) (g : SamplerGenCfg) : U32 × List Byte :=
  let bs := s.quayReadAt g.template.toNat 68
  (BitVec.ofNat 32 (field bs 64 4), bs.take 64)

/-- Is a generator a replay? -/
def genReplays (g : SamplerGenCfg) : Bool := decide (3 ≤ g.source.toNat)

/-- The word and the head of packet k of a generator. -/
def State.genHead (s : State) (g : SamplerGenCfg) (k : Nat) : U32 × List Byte :=
  if genReplays g then
    let r := s.storedPacket (g.replayAddr.toNat + storedBytes * (k % g.replayLen.toNat))
    (r.1, r.2.take 64)
  else s.template g

/-- Is packet k a MARK: the first of a period, from a template whose cell word is a control word (17 R438)? -/
def State.genMarks (s : State) (g : SamplerGenCfg) (k : Nat) : Bool :=
  !genReplays g && cwType (s.template g).1 == 3 && k % g.packets.toNat == 0

/-- The cells of packet k of a generator. -/
def State.genCells (s : State) (g : SamplerGenCfg) (k : Nat) : Nat :=
  if s.genMarks g k then 1 else (Hdr.ofBytes (s.genHead g k).2).cells

/-- The most cells that a packet of a generator has. -/
def State.genLongest (s : State) (g : SamplerGenCfg) : Nat :=
  ((List.range (if genReplays g then g.replayLen.toNat else 2)).map (fun k => s.genCells g k)).foldl max 1

/-- The last cell slot of a generator's period (17 R434). -/
def State.genLast (s : State) (g : SamplerGenCfg) : Nat :=
  g.offset.toNat + (g.packets.toNat - 1) * g.spacing.toNat + s.genLongest g - 1

/-- Does a generator's period pass the last slot of a tide? -/
def State.genLate (s : State) (g : SamplerGenCfg) : Bool := decide (3761 < s.genLast g)

/-- Do two generators on one berth overlap within a tide? -/
def State.genOverlap (s : State) (a b : SamplerGenCfg) : Bool :=
  a.berth == b.berth && a.genId != b.genId && decide (a.offset.toNat ≤ s.genLast b ∧ b.offset.toNat ≤ s.genLast a)

/-- Replace n bytes at an offset. -/
def putField (bs : List Byte) (off n val : Nat) : List Byte := bs.take off ++ leBytes n val ++ bs.drop (off + n)

/-- Does an insertion alter packet k (17 R436)? -/
def genAltered (g : SamplerGenCfg) (k : Nat) : Bool :=
  let f := g.errFirst.toNat
  g.errKind != 0 && decide (f ≤ k) && (if g.errInterval = 0 then k == f else (k - f) % g.errInterval.toNat == 0)

/-- The error kind that packet k gets; 0 none. -/
def genErr (g : SamplerGenCfg) (k : Nat) : Nat := if genAltered g k then g.errKind.toNat else 0

/-- The head of packet k as it is sent: PARAM of a SAMPLER packet, the GEN of a started stream, and the alterations of the header. -/
def GenSt.head (x : GenSt) (part k : Nat) (head : List Byte) : List Byte :=
  let g := x.cfg
  let hd := Hdr.ofBytes head
  let sg := field head 12 4
  let withGen := fun (v : Nat) => putField head 12 4 (sg - bitsOf sg 20 8 * 2 ^ 20 + v * 2 ^ 20)
  let head := if g.source = 4 ∧ g.flags.getLsbD 1 then
      match x.starts.find? (fun e => e.1 == hd.sid) with
      | some e => withGen e.2.toNat
      | none => head
    else if !genReplays g ∧ hd.kind = 7 then putField head 32 8 (k % 2 ^ 32 + g.genId.toNat * 2 ^ 32 + part * 2 ^ 36)
    else head
  let hd := Hdr.ofBytes head
  let sg := field head 12 4
  match genErr g k with
  | 4 => putField head 8 4 (field head 8 4 ||| 512)
  | 5 => putField head 12 4 (sg - hd.gen * 2 ^ 20 + (hd.gen + 255) % 256 * 2 ^ 20)
  | 0xA => putField head 4 4 ((hd.src + 1) % 2 ^ 32)
  | _ => head

/-- The body and scale bytes of packet k, the bytes of the sequence used, and the free values used (scale cells of a template:
log entry 50). -/
def State.genBody (s : State) (x : GenSt) (k : Nat) : List Byte × Nat × Nat :=
  let g := x.cfg
  let hd := Hdr.ofBytes (s.genHead g k).2
  if genReplays g then ((s.storedPacket (g.replayAddr.toNat + storedBytes * (k % g.replayLen.toNat))).2.drop 64, 0, 0)
  else
    let n := 64 * hd.body
    let fine := (List.range (64 * hd.scales)).map (fun i => Config.freeByte (s.freeCtr + i))
    let seq := fun (kind : Nat) => (List.range n).map (fun i => Config.prbs kind (x.prbs + i))
    match g.source.toNat with
    | 0 => (seq 31 ++ fine, n, 64 * hd.scales)
    | 1 => (seq 13 ++ fine, n, 64 * hd.scales)
    | _ => (List.replicate n g.const ++ fine, 0, 64 * hd.scales)

/-- The payload after a stomp: zero in the last half of the body (17 Table 17-2). -/
def stompBody (body : Nat) (bs : List Byte) : List Byte :=
  let keep := 64 * (body - body / 2)
  bs.take keep ++ List.replicate (64 * (body / 2)) 0 ++ bs.drop (64 * body)

/-- The cell word that a persona gives a generated head (17 R431); a replay's is the stored one. -/
def genWord (p : PartSt) (g : SamplerGenCfg) (cw : U32) (tc : Nat) (err : Nat) : U32 :=
  let vc := if p.switchPersona || genReplays g then cwVc cw else 2 * tc
  let vc := if err = 9 then 2 * tc + 1 else vc
  if p.switchPersona || genReplays g then mkCw 0 vc (cwEpoch cw) 0 (cwResend cw) (cwMirrored cw) (cwColour cw) (cwBypass cw)
  else mkCw 0 vc false 0 false false 0 false

/-- The cells of a generated packet, the head marked with the alteration of its word. -/
def genLink (cw : U32) (hd : Hdr) (payload : List Byte) (crc : U32) (err : Nat) : List LinkCell :=
  let bs := chunksOf 68 hd.cells (receivedCells cw hd payload crc)
  bs.zipIdx.map (fun e => ⟨if e.2 = 0 then (if err = 1 then 1 else if err = 7 then 2 else 0) else 0, e.1, e.2 + 1 == hd.cells⟩)

/-- May a generator's head leave on its berth now (17 R434)? -/
def State.genMaySend (s : State) (b vc job n : Nat) (credits : Bool) : Bool :=
  let y := s.berth b
  y.up && !y.eth && y.lstate == 0 && !y.farLoop && !s.berthSafe b && y.resend.isEmpty && y.localQ.isEmpty
    && (!credits || decide (n ≤ Tab.get 0 y.credit ((s.half (berthHalf b)).sendKey b vc job)))

/-- Has a generator sent all it has to send? -/
def GenSt.over (x : GenSt) : Bool :=
  let g := x.cfg
  x.done || (g.count != 0 && decide (g.count.toNat ≤ x.next / g.packets.toNat))
    || (genReplays g && (g.replayLen == 0 || (!g.flags.getLsbD 2 && decide (g.replayLen.toNat ≤ x.next))))

/-- The tide and the cell slot of a generator's next packet. -/
def GenSt.due (x : GenSt) (t : TideNo) : TideNo × Nat :=
  let n := x.cfg.packets.toNat
  (t + BitVec.ofNat 48 (x.next / n * x.cfg.period.toNat), x.cfg.offset.toNat + x.next % n * x.cfg.spacing.toNat)

/-- The cycle and sixteenths at which a cell slot of 17 sixteenths starts (08 R206). -/
def slotStamp (tide : TideNo) (slot : Nat) : U64 := mkStamp tide.toNat (17 * slot / 16) (17 * slot % 16)

def State.modGen (s : State) (part gen : Nat) (f : GenSt → GenSt) : State :=
  s.modPart part (fun p => { p with gens := p.gens.map (fun e => if e.1 = gen then (e.1, f e.2) else e) })

/-- Packet k of a generator leaves, or nothing does because the berth or the credit does not let it. -/
def State.genSend (s : State) (part gen : Nat) (p : PartSt) (x : GenSt) (slot : Nat) (late : Bool) : State :=
  let g := x.cfg
  let k := x.next
  let b := g.berth.toNat
  let h := berthHalf b
  let (cw0, head0) := s.genHead g k
  let note := fun (s : State) (bytes : Nat) (ins : Nat) => s.modGen part gen (fun y =>
    { y with
      next := k + 1
      sent := satAdd 32 y.sent 1
      inserted := satAdd 32 y.inserted ins
      lateTx := satAdd 32 y.lateTx (bitNat late)
      prbs := y.prbs + bytes })
  if s.genMarks g k then
    let vc := if p.switchPersona then cwVc cw0 else 0
    if !s.genMaySend b vc p.job 1 (g.flags.getLsbD 0) then s
    else
      let cell : CtrlOut := ⟨BitVec.ofNat 32 (field head0 0 4), BitVec.ofNat 32 (field head0 4 4), BitVec.ofNat 8 p.job, BitVec.ofNat 16 (s.now.toNat % 4096),
        .mark g.genId (BitVec.ofNat 32 (k / g.packets.toNat)) (slotStamp s.now slot)⟩
      let bytes := cell.cell vc (p.switchPersona && cwEpoch cw0) (p.switchPersona && cwBypass cw0)
      note ((s.spend h (.berth b) vc p.job 1).modBerth b (fun y => { y with queue := y.queue ++ [⟨0, bytes, true⟩] })) 0 0
  else
    let err := genErr g k
    let head := x.head part k head0
    let hd := Hdr.ofBytes head0
    let cw := genWord p g cw0 (hd.tc (cwVc cw0)) err
    let n := chargedCredits hd.cells
    let waits := g.source == 4 && g.flags.getLsbD 1 && x.starts.all (fun e => e.1 != hd.sid)
    if waits || !s.genMaySend b (cwVc cw) p.job n (g.flags.getLsbD 0 && err != 8) then s
    else
      let (rest, bytes, free) := s.genBody x k
      let payload := head ++ padTo (64 * (hd.cells - 1)) (if err = 3 then stompBody hd.body rest else rest)
      let sum := crc32 payload
      let crc := if err = 2 then sum ^^^ 1 else if err = 3 then ~~~sum else sum
      let cells := genLink cw hd payload crc err
      let cells := if err = 6 then cells ++ cells else cells
      let s := { s with freeCtr := s.freeCtr + free }
      let s := (s.spend h (.berth b) (cwVc cw) p.job (if err = 6 then 2 * n else n)).modBerth b (fun y => { y with queue := y.queue ++ cells })
      note s bytes (bitNat (genAltered g k))

/-- GENERATOR_PACKET: at or after the scheduled slot of a generator's next packet, the packet is sent if it can be, and counted in
LATE_TX if the slot is not its own. -/
def execGeneratorPacket (part : Fin 4) (gen : Fin 16) (slot : Nat) (s : State) : Host.Outcome State Fault Refusal :=
  match Tab.get? s.parts part.val with
  | none => .next s
  | some p =>
    match Tab.get? p.gens gen.val, p.startT with
    | some x, some t =>
      let due := x.due t
      let ready := tideReached s.now due.1 && (s.now != due.1 || decide (due.2 ≤ slot))
      if !p.running || x.over || !ready then .next s
      else .next (s.genSend part.val gen.val p x slot (s.now != due.1 || due.2 != slot))
    | _, _ => .next s

/-- MARK: the checker of a partition berth records the transit time (17 R438). -/
def execMark (b : Berth) (_genId : Byte) (_seq : U32) (departure : U64) (cyc : Nat) (frac : BitVec 4) (s : State) :
    Host.Outcome State Fault Refusal :=
  if !(s.berth b.val).up || s.berthSafe b.val then .next s
  else
    let s := s.freeCredit (berthHalf b.val) (some (creditKey (berthPort b.val) 0)) 1
    match s.partOf b.val with
    | none => .next s
    | some (n, _) =>
      let d := stampSixteenths (mkStamp s.now.toNat cyc frac.toNat) - stampSixteenths departure
      .next (s.modCheck n b.val (fun c => { c with
        markMin := some (match c.markMin with
          | some v => min v d
          | none => d)
        markMax := some (match c.markMax with
          | some v => max v d
          | none => d) }))

/-! ## The golden endpoint (17 R440, R441) -/

/-- A Manifest at a position of the ring, with no children. -/
def atPosition (m : ManifestCfg) (q : Nat) : ManifestCfg :=
  { m with peers := BitVec.ofNat 32 (bitsOf m.peers.toNat 0 8 + q * 2 ^ 8 + bitsOf m.peers.toNat 20 12 * 2 ^ 20) }

/-- The positions of a chunk's way along the ring, its owner last (06 R156, R157). -/
def ringWay (m : ManifestCfg) (c : Nat) : List Nat :=
  if m.ringN ≤ 1 then [0]
  else if !m.releaser && !m.parent then List.range m.ringN
  else (List.range m.ringN).map (fun i => (c + 1 + i) % m.ringN)

/-- The contributions that the table lists, by position (log entry 50): the counts, then the stored packets. -/
def State.goldTable (s : State) (g : GoldSt) : List (List (List Byte)) :=
  let counts := (List.range g.cfg.ringN).map (fun q => field (s.quayReadAt (g.table + 4 * q) 4) 0 4)
  (List.range g.cfg.ringN).map (fun q =>
    let first := (counts.take q).sum
    (List.range (counts.getD q 0)).map (fun i => (s.storedPacket (g.table + 4 * g.cfg.ringN + storedBytes * (first + i))).2))

/-- A packet of the table, or a carry, as a packet of a half. -/
def goldPkt (id : Nat) (payload : List Byte) : Pkt :=
  { id := id, input := 0, cw := mkCw 0 2 false 0 false false 0 false, payload := payload, cells := (Hdr.ofBytes payload).cells, whole := true,
    crcOk := true }

/-- Place a whole packet on its tile, spilling where a window would pass K (04 R88, R93). -/
def State.goldPlace (s : State) (n : Nat) (m : ManifestCfg) (p : Pkt) (jobRank : Nat) : State :=
  let hd := p.hdr
  let k := m.tileOf hd.rank
  let s := (s.modHalf .east (fun x => { x with pkts := x.pkts ++ [p] })).acceptContribution .east n m p
  let s := (List.range p.cells).foldl (fun (s : State) i =>
    let s := if s.cellOver n m hd k i then s.spillSlot n m hd.chunk k else s
    (hd.cellElems i).foldl (fun (s : State) j => s.placeElem n m p jobRank k j) s) s
  let s := s.modTile k (fun t => { t with cells := [] })
  if m.isLse then s.mergeLeaf n m hd.chunk k else s

/-- Combine the fixed tree of a chunk, at most `fuel` times (04 R98). -/
def State.goldTree (n : Nat) (m : ManifestCfg) (c : Nat) : Nat → State → State
  | 0, s => s
  | fuel + 1, s =>
    match m.windowTiles.find? (fun k => (s.nextKid n m c k).isSome) with
    | none => s
    | some k =>
      match s.nextKid n m c k with
      | none => s
      | some j =>
        let s := if s.combineOver n m c k j then s.spillSlot n m c k else s
        State.goldTree n m c fuel (s.combinePartial n m c k j)

/-- The machine that evaluates one position: the stream alone, LIVE, on idle tiles. -/
def State.goldBench (s : State) (g : GoldSt) (m : ManifestCfg) : State :=
  let x : StreamSt := { state := .live, gen := g.gen, cfg := some m, cOut := m.cOut }
  { s with
    tiles := []
    colls := []
    streams := [(g.sid, x)]
    jobs := Tab.mapV s.jobs (fun _ j => { j with tasteK := 0 })
    east := { s.east with pkts := [] }
    west := { s.west with pkts := [] } }

/-- One position's partial of a chunk, from its member packets and the carry of the position before it. -/
def State.goldStep (s : State) (g : GoldSt) (c q : Nat) (members : List (List Byte)) (carry : List OutPkt) : State × Readout :=
  let n := g.sid
  let m := atPosition g.cfg q
  let s := (s.goldBench g m).allocSlots n m c
  let mine := members.filter (fun b => (Hdr.ofBytes b).chunk == c && decide ((Hdr.ofBytes b).rank < m.nMembers))
  let place := fun (s : State) (b : List Byte) =>
    let r := (Hdr.ofBytes b).rank
    let (id, s) := s.fresh
    s.goldPlace n m (goldPkt id b) (s.rankEntry (tileHalf (m.leafOf r)) m (q * m.nMembers + r)).2
  let s := mine.foldl place s
  let s := State.goldTree n m c (2 * m.windowTiles.length) s
  let s := carry.foldl (fun (s : State) p => place s p.payload) s
  (s, s.readout n m c)

/-- The carry of a chunk along its way, and the owner's conversion (17 R440). -/
def State.goldChunk (s : State) (g : GoldSt) (c : Nat) (tab : List (List (List Byte))) : List Nat → List OutPkt → List OutPkt
  | [], carry => carry
  | q :: rest, carry =>
    let m := atPosition g.cfg q
    let (t, r) := s.goldStep g c q (tab.getD q []) carry
    match rest with
    | [] => ((if m.fuse = 0 then t else t.loadFuse g.sid m c).resultPkts g.sid m c r).pkts
    | _ => s.goldChunk g c tab rest (t.carryPkts g.sid m c r 0xF8)

/-- Every expected packet, chunk by chunk; a chunk uses 4,096 free values. -/
def State.goldResult (s : State) (g : GoldSt) : List OutPkt :=
  let tab := s.goldTable g
  (List.range g.cfg.chunkCount).flatMap (fun c => { s with freeCtr := s.freeCtr + 4096 * c }.goldChunk g c tab (ringWay g.cfg c) [])

/-- The bytes of an expected packet in Quay, as a stored packet. -/
def goldStored (p : OutPkt) : List Byte :=
  padTo storedBytes (receivedCells (mkCw 0 4 false 0 false false 0 false) (Hdr.ofBytes (p.payload.take 64)) p.payload (crc32 p.payload))

/-- GOLDEN_EVALUATION: the expected packets exist, and lie in Quay. -/
def execGoldenEvaluation (part : Fin 4) (s : State) : Host.Outcome State Fault Refusal :=
  match (Tab.get? s.parts part.val).bind (fun p => p.gold) with
  | none => .next s
  | some g =>
    if g.ready || !tideReached s.now g.begins then .next s
    else
      let ps := s.goldResult g
      let s := ps.zipIdx.foldl (fun (s : State) e => s.quayWriteAt (g.out + storedBytes * e.2) (goldStored e.1)) s
      let s := { s with freeCtr := s.freeCtr + 4096 * g.cfg.chunkCount }
      .next (s.modPart part.val (fun p => { p with gold := p.gold.map (fun g => { g with ready := true, expected := ps }) }))

/-- What names a result packet: chunk, element offset and segment. -/
def goldKey (payload : List Byte) : Nat × Nat × Nat :=
  let hd := Hdr.ofBytes (payload.take 64)
  (hd.chunk, hd.off, hd.seg)

/-- The expected packet of a received one. -/
def GoldSt.counterpart (g : GoldSt) (payload : List Byte) : Option OutPkt := g.expected.find? (fun e => goldKey e.payload == goldKey payload)

/-- COARSE, and the body and scale cells. -/
def goldPart (payload : List Byte) : Nat × List Byte := (field payload 24 2, payload.drop 64)

/-- GOLDEN_COMPARE: a result packet that waits is compared with its expected packet; a chunk whose packets all match is acknowledged
by an endpoint with the ACK flag. -/
def execGoldenCompare (part : Fin 4) (b : Berth) (payload : List Byte) (s : State) : Host.Outcome State Fault Refusal :=
  match Tab.get? s.parts part.val with
  | none => .next s
  | some p =>
    match p.gold with
    | none => .next s
    | some g =>
      match g.counterpart payload with
      | none => .next s
      | some e =>
        if !g.ready || decide ((b.val, payload) ∉ g.waiting) then .next s
        else
          let same := goldPart e.payload == goldPart payload
          let key := goldKey payload
          let g' := { g with
            waiting := g.waiting.erase (b.val, payload)
            got := g.got ++ [(key.1, key.2.1, key.2.2, same)]
            matched := satAdd 32 g.matched (bitNat same) }
          let s := (s.modPart part.val (fun p => { p with gold := some g' })).checkCount part.val b.val (if same then 0 else 0xA) 1
          let whole := (g.expected.filter (fun x => (goldKey x.payload).1 == key.1)).all (fun x =>
            let y := goldKey x.payload
            decide ((y.1, y.2.1, y.2.2, true) ∈ g'.got))
          if g.ack && !p.switchPersona && same && whole then
            .next (s.partSend b.val p (Hdr.ofBytes payload).src (.resultAck (BitVec.ofNat 20 g.sid) g.gen (BitVec.ofNat 16 key.1) 1))
          else .next s

/-- What SAMPLER_STOP counts of a golden stream: expected packets never received, and received packets with no counterpart. -/
def GoldSt.close (g : GoldSt) : GoldSt :=
  let came := g.got.map (fun e => (e.1, e.2.1, e.2.2.1)) ++ g.waiting.map (fun e => goldKey e.2)
  { g with
    missing := satAdd 32 g.missing (g.expected.countP (fun e => decide (goldKey e.payload ∉ came)))
    unexpected := satAdd 32 g.unexpected (g.waiting.countP (fun e => (g.counterpart e.2).isNone)) }

/-! ## Commands of group 0x0A (17 R442, Table 17-4) -/

/-- The causes that every command of a partition has: it exists and is ACTIVE, and the header names its job. -/
def State.partCauses (s : State) (u : Uci) (part : Byte) : List (Nat × Bool) :=
  match Tab.get? s.parts part.toNat with
  | none => [(stMalformed, decide (3 < part.toNat)), (stState, true)]
  | some p => [(stDenied, p.job != u.job.toNat || (p.whole && !privileged (s.senderOf u))), (stState, !p.active || p.pDestroy)]

/-- The berths and engines of a mask; a whole-part partition holds every one. -/
def maskOf (n : Nat) (whole : Bool) (mask : Nat) : List Nat := (List.range n).filter (fun i => whole || bitOf mask i)

/-- SAMPLER_CREATE: the reply waits until the partition is ACTIVE. -/
def execSamplerCreate (u : Uci) (part persona whole : Byte) (addr : U32) (berths : BitVec 264) (engines : U64) (s : State) :
    Host.Outcome State Fault Refusal :=
  let n := part.toNat
  let w := whole == 1
  let bs := maskOf 260 w berths.toNat
  let es := maskOf 40 w engines.toNat
  let p : PartSt := { job := u.job.toNat, switchPersona := persona == 1, whole := w, addr := addr, berths := bs, engines := es }
  let objs := p.objects
  .next (s.uci u { code := 0x0A01, len := 56, sender := if w then .priv else .owner, job := true }
    [(stMalformed, decide (3 < n ∨ 1 < persona.toNat ∨ 1 < whole.toNat ∨ 2 ^ 260 ≤ berths.toNat ∨ 2 ^ 40 ≤ engines.toNat)),
     (stState, w && (s.streams.any (fun e => e.2.state != .free || e.2.pCreate.isSome) || s.shards.any (fun e => e.2.state != 0 || e.2.pCfg.isSome))),
     (stState, s.fault.fences.any (fun f => !f.internal && decide (f.obj ∈ objs))),
     (stResource, (Tab.get? s.parts n).isSome || bs.isEmpty || es.isEmpty || bs.any (fun b => (s.berth b).eth)
       || s.parts.any (fun e => e.2.berths.any (fun b => decide (b ∈ bs)) || e.2.engines.any (fun g => decide (g ∈ es)))),
     (stFaulted, bs.any (fun b => s.halfOut (berthHalf b)) || es.any (fun e => s.halfOut (engHalf e)))]
    (fun t =>
      let at_ := t.now + 1
      let t := t.modFault (fun f => { f with fences := f.fences ++ objs.map (fun o => (⟨o, at_, false, false, none, true⟩ : FenceSt)) })
      { st := { t with parts := Tab.set t.parts n p }, effect := t.nextBoundary, wait := some (.sampler n) }))

/-- The engines of a half that a partition holds. -/
def PartSt.enginesIn (p : PartSt) (h : Half) : Nat := p.engines.countP (fun e => engHalf e == h)

/-- Has a partition an engine for a generator, at most 8 generator berths on each (17 R432)? -/
def PartSt.genFits (p : PartSt) (b : Nat) : Bool :=
  let h := berthHalf b
  let used := (p.gens.map (fun e => e.2.cfg.berth.toNat)).filter (fun c => berthHalf c == h && c != b)
  decide ((used.foldl (fun l c => insertNew c l) []).length + 1 ≤ 8 * p.enginesIn h)

/-- Is a value of a SAMPLER_GEN body out of its range? -/
def genFieldsBad (g : SamplerGenCfg) : Bool :=
  decide (15 < g.genId.toNat ∨ 259 < g.berth.toNat ∨ 4 < g.source.toNat ∨ 7 < g.flags.toNat ∨ 0xA < g.errKind.toNat ∨ g.period = 0
    ∨ g.packets.toNat < 1 ∨ 3762 < g.packets.toNat) || (genReplays g && g.replayAddr.toNat % 4096 != 0)

/-- The Quay range that a generator reads. -/
def genArea (g : SamplerGenCfg) : Nat × Nat :=
  if genReplays g then (g.replayAddr.toNat, g.replayLen.toNat * storedBytes) else (g.template.toNat, 68)

/-- SAMPLER_GEN: stored for the next start. -/
def execSamplerGen (u : Uci) (g : SamplerGenCfg) (s : State) : Host.Outcome State Fault Refusal :=
  let n := g.part.toNat
  let p := Tab.get? s.parts n
  let area := genArea g
  let inside := (s.job u.job.toNat).inQuayAt area.1 area.2
  .next (s.uci u { code := 0x0A02, len := 64, sender := .owner, job := true }
    (s.partCauses u g.part ++
    [(stMalformed, genFieldsBad g || (inside && (decide (g.spacing.toNat < s.genLongest g) || s.genLate g))), (stDenied, !inside),
     (stState, p.any (fun p => decide (g.berth.toNat ∉ p.berths))), (stBusy, p.any (fun p => p.running)),
     (stResource, p.any (fun p => !p.genFits g.berth.toNat || (inside && p.gens.any (fun e => s.genOverlap g e.2.cfg))))])
    (fun t => { st := t.modPart n (fun p => { p with gens := Tab.set p.gens g.genId.toNat { cfg := g } }) }))

/-- SAMPLER_CHECK: from the next boundary. -/
def execSamplerCheck (u : Uci) (part : Byte) (berth trigger : U16) (pre : Byte) (post : U16) (mode : Byte) (ring : U64) (entries : U32)
    (s : State) : Host.Outcome State Fault Refusal :=
  let n := part.toNat
  let b := berth.toNat
  .next (s.uci u { code := 0x0A03, len := 28, sender := .owner, job := true }
    (s.partCauses u part ++
    [(stMalformed, decide (259 < b ∨ 2 ^ 11 ≤ trigger.toNat ∨ 15 < pre.toNat ∨ 1 < mode.toNat ∨ 65536 < entries.toNat)),
     (stDenied, !(s.job u.job.toNat).inQuayAt ring.toNat (4608 * entries.toNat)),
     (stState, (Tab.get? s.parts n).any (fun p => decide (b ∉ p.berths)))])
    (fun t =>
      let c : CheckSt := { trigger := trigger, pre := pre.toNat, post := post.toNat, mode := mode, ring := ring.toNat, entries := entries.toNat,
                           armed := true }
      { st := t.modPart n (fun p => { p with pChecks := Tab.set p.pChecks b c }), effect := t.nextBoundary }))

/-- SAMPLER_GOLDEN. -/
def execSamplerGolden (u : Uci) (part ack : Byte) (sid : U32) (gen : Byte) (table out : U64) (m : ManifestCfg) (s : State) :
    Host.Outcome State Fault Refusal :=
  let n := part.toNat
  let j := s.job u.job.toNat
  .next (s.uci u { code := 0x0A04, len := 152, sender := .owner, job := true }
    (s.partCauses u part ++
    [(stMalformed, decide (2 ^ 20 ≤ sid.toNat ∨ 1 < ack.toNat) || s.manifestBad m u.job.toNat),
     (stDenied, m.job != u.job.toNat || !j.inQuayAt table.toNat 1 || !j.inQuayAt out.toNat 1)])
    (fun t =>
      let g : GoldSt := { sid := sid.toNat, gen := gen, ack := ack == 1, table := table.toNat, out := out.toNat, cfg := m, begins := t.now + 1 }
      { st := t.modPart n (fun p => { p with gold := some g }), effect := t.nextBoundary }))

/-- SAMPLER_START at tide T, between 4 and 65,536 tides ahead. -/
def execSamplerStart (u : Uci) (part : Byte) (t : U64) (s : State) : Host.Outcome State Fault Refusal :=
  let n := part.toNat
  let at_ : TideNo := BitVec.ofNat 48 t.toNat
  let far := tideSince at_ s.now
  let p := Tab.get? s.parts n
  .next (s.uci u { code := 0x0A05, len := 16, sender := .owner, job := true }
    (s.partCauses u part ++
    [(stMalformed, decide (2 ^ 48 ≤ t.toNat) || p.any (fun p => p.gens.any (fun e => s.genLate e.2.cfg))),
     (stResource, p.any (fun p => p.gens.any (fun e => p.gens.any (fun f => s.genOverlap e.2.cfg f.2.cfg)))),
     (stTiming, decide (far < 4 ∨ 65536 < far)), (stFaulted, p.any (fun p => p.berths.any (fun b => s.berthSafe b)))])
    (fun z => { st := z.modPart n (fun p => { p with startT := some at_, running := false, safe := false }), effect := some at_ }))

/-- SAMPLER_STOP. -/
def execSamplerStop (u : Uci) (part : Byte) (s : State) : Host.Outcome State Fault Refusal :=
  let n := part.toNat
  .next (s.uci u { code := 0x0A06, len := 4, sender := .owner, job := true }
    (s.partCauses u part ++ [(stState, (Tab.get? s.parts n).any (fun p => !p.running))])
    (fun t => { st := t.modPart n (fun p => { p with running := false, startT := none, gold := p.gold.map (fun g => g.close) }) }))

/-- The body of SAMPLER_STATUS, from the latest snapshot (log entry 50): the partition's status, the generators, the berths' checkers and
the golden counts. -/
def PartSt.statusBytes (p : PartSt) : List Byte :=
  let w := fun (v : Nat) => leBytes 4 v
  let mark := fun (o : Option Int) => leBytes 8 (toTwos 64 (o.getD 0))
  w (if p.safe then 2 else bitNat p.running)
    ++ p.gens.flatMap (fun e => w e.1 ++ w e.2.sent ++ w e.2.inserted ++ w e.2.lateTx)
    ++ p.berths.flatMap (fun b =>
      let c := p.check b
      w b ++ (List.range 11).flatMap (fun i => w (Tab.get 0 c.counts i)) ++ mark c.markMin ++ mark c.markMax)
    ++ (match p.gold with
      | some g => w g.matched ++ w g.missing ++ w g.unexpected
      | none => w 0 ++ w 0 ++ w 0)

/-- SAMPLER_STATUS. -/
def execSamplerStatus (u : Uci) (part : Byte) (s : State) : Host.Outcome State Fault Refusal :=
  .next (s.uci u { code := 0x0A07, len := 4, sender := .owner, job := true } (s.partCauses u part)
    (fun t => { st := t, body := ((Tab.get? t.snapParts part.toNat).map (fun (p : PartSt) => p.statusBytes)).getD [] }))

/-- SAMPLER_DESTROY: at the next boundary. -/
def execSamplerDestroy (u : Uci) (part : Byte) (s : State) : Host.Outcome State Fault Refusal :=
  .next (s.uci u { code := 0x0A08, len := 4, sender := .owner, job := true } (s.partCauses u part)
    (fun t => { st := t.modPart part.toNat (fun p => { p with pDestroy := true, running := false }), effect := t.nextBoundary }))

/-! ## The boundary's part -/

/-- A checker's new settings keep its counts. -/
def CheckSt.settings (c n : CheckSt) : CheckSt := { n with counts := c.counts, markMin := c.markMin, markMax := c.markMax, lastSeq := c.lastSeq, crcSince := c.crcSince }

/-- The start tide: numbering, sequences and counters begin anew (17 R434, R435, R437). -/
def PartSt.begin_ (p : PartSt) : PartSt :=
  { p with
    running := true
    gens := p.gens.map (fun e => (e.1, { cfg := e.2.cfg }))
    checks := p.checks.map (fun e => (e.1, { e.2 with counts := [], markMin := none, markMax := none, lastSeq := [], crcSince := 0 })) }

/-- An active partition at a boundary: new checkers, its start, and the safe state (17 R443). -/
def State.partAt (s : State) (n : Nat) (p : PartSt) : State :=
  let p := { p with checks := p.pChecks.foldl (fun t (e : Nat × CheckSt) => Tab.set t e.1 ((p.check e.1).settings e.2)) p.checks, pChecks := [] }
  let p := if !p.running && p.startT.any (fun t => s.now == t) then p.begin_ else p
  let hit := p.berths.filter (fun b => s.berthSafe b)
  let p := if hit.isEmpty then p
    else { p with safe := p.safe || p.running, gens := p.gens.map (fun (e : Nat × GenSt) => if e.2.cfg.berth.toNat ∈ hit then (e.1, { e.2 with done := true }) else e) }
  { s with parts := Tab.set s.parts n p }

/-- The snapshot of a boundary drains the engines of the partitions that run (04 R96, 17 R437; log entry 96). -/
def State.snapshotDrains (s : State) : State :=
  s.parts.foldl (fun (s : State) e =>
    if e.2.active && e.2.running then
      e.2.engines.foldl (fun (s : State) g => s.drainEngine (engHalf g) (g % 20) (.snapshot e.1)) s
    else s) s

/-- Step 4 for partitions: those destroyed end, those whose fences are empty become ACTIVE, those whose fences are not empty after 64
tides are refused. -/
def State.partsAt (s : State) : State :=
  let s := (s.endParts (fun _ p => p.pDestroy)).snapshotDrains
  s.parts.foldl (fun (s : State) e =>
    let (n, p) := e
    if p.active then s.partAt n p
    else
      let objs := p.objects
      let fs := s.fault.fences.filter (fun f => decide (f.obj ∈ objs))
      if fs.all (fun f => f.active && f.empty) then { s with parts := Tab.set s.parts n { p with active := true } }.finishWait (.sampler n) []
      else if fs.any (fun f => f.active && !f.empty && tideReached s.now (f.boundary + 64)) then
        (s.endParts (fun k _ => k == n)).failWait (.sampler n) stState
      else s) s

end Sys2Proof.Machine
end

