-- ==== Sys2Proof/Machine/Swap.lean ====
section
/-! DEFINITION. Step 4 of a boundary: the swaps and the changes of state that wait for it (02 R44, R56; 05 R120 to R148; 06 R153, R168;
07 R178 to R182). -/

namespace Sys2Proof.Machine

/-! ## Charts and traffic-management sets (08 R229, R230) -/

/-- The Chart swap that is due: the epoch flips, and the old slot drains for 64 tides. -/
def State.swapChart (s : State) (held : Bool) : State :=
  if s.chart.armed && !held && s.chart.armT.any (fun t => tideReached s.now t) then
    let old := s.active
    s.modChart (fun c => { c with
      epoch := !c.epoch
      base := old
      armT := none
      armed := false
      draining := true
      drainEnd := s.now + 64 })
  else s

/-- A bypass engages, and what LIFT named is lifted (08 R232, R234). -/
def State.bypassAt (s : State) : State :=
  let s := s.modChart (fun c => { c with bypassSel := c.bypassSel ||| c.pBypass, pBypass := 0 })
  let s := s.chart.pLiftQ.foldl (fun (s : State) b => s.liftQ b) s
  let s := s.chart.pLiftB.foldl (fun (s : State) i => s.liftB i) s
  s.modChart (fun c => { c with pLiftQ := [], pLiftB := [] })

/-- The traffic-management set of a half: the shadow set becomes active, and the old one the shadow. -/
def HalfSt.swapTm (x : HalfSt) : HalfSt :=
  if x.tmArmed then { x with tm := x.tmShadow, tmShadow := x.tm, tmBase := x.tm, tmArmed := false } else x

def State.swapTm (s : State) (h : Half) : State := if s.withheld h then s else s.modHalf h (fun x => x.swapTm.reserveChange x h)

/-! ## Peers (06 R168) -/

/-- Has a peer come back: a facing berth that is live, and a route? -/
def State.peerBack (s : State) (addr : Nat) : Bool :=
  s.hasRoute addr && (s.facing addr).any (fun b => s.live b && !(s.berth b).bwRx)

/-- A peer of a stream to which the Chart just swapped in has no route is lost, and the LIVE streams that name it abort at this boundary. -/
def State.peersCut (s : State) : State :=
  s.streams.foldl (fun (s : State) e => match e.2.cfg with
    | none => s
    | some m =>
      let cut := (s.peersOf m).filter (fun a => !s.hasRoute a.toNat)
      let s := { s with lost := cut.foldl (fun l (a : U32) => Tab.set l a.toNat s.now) s.lost }
      if e.2.state = .live ∧ !cut.isEmpty then s.askAbort e.1 ⟨6, BitVec.ofNat 16 (s.lowestOpen e.1 m), 0xFF, false, none⟩ else s) s

/-- Lost peers come back, and a swap may cut others off. -/
def State.peersAt (s : State) (swapped : Bool) : State :=
  let s := { s with lost := s.lost.filter (fun e => !s.peerBack e.1) }
  if swapped then s.peersCut else s

/-! ## Streams (05 R120, R121, R127, R132, R139, R148) -/

/-- Of two reasons to stop, the lower status (05 R142). -/
def lowerReq (a b : Option AbortReq) : Option AbortReq :=
  match a, b with
  | some p, some q => if q.status < p.status then b else a
  | some _, none => a
  | none, _ => b

/-- An abort that the hardware owes at this boundary: one asked for, or one of patience; of two with one status, the one asked for (05
R139, R142; log entry 85). -/
def State.hardAbort (s : State) (n : Nat) (m : ManifestCfg) : Option AbortReq := lowerReq (s.stream n).pAbort (s.lateAbort n m)

/-- Has a RETAINING stream nothing left: every released chunk acknowledged, every result passed on? -/
def State.runFreed (s : State) (n : Nat) (m : ManifestCfg) : Bool :=
  (s.stream n).chunks.all (fun e => (!e.2.released || e.2.freed) && (!s.passesDown n m e.1 || decide (e.2.out.length ≤ e.2.fwd)))

/-- The last chunk has been released: the stream retains, with status OK (05 R132). Log entry 61. -/
def State.endRun (s : State) (n : Nat) (m : ManifestCfg) : State :=
  if (s.stream n).state = .live ∧ (List.range m.chunkCount).all (fun c => s.chunkDone n m c) then
    (s.modStat n m.home (fun y => { y with status := 1, doneTide := s.now })).modStream n (fun x => { x with
      state := .retaining
      genEnds := (x.gen, s.now) :: x.genEnds.filter (fun e => e.1 != x.gen) })
  else s

/-- Is an engine of a stream fenced: no chunk slot is allocated on it (13 Table 13-12)? -/
def State.engineFenced (s : State) (m : ManifestCfg) : Bool :=
  s.isFenced (fun o => match o with
    | .engine h p => (manifestEngines m).any (fun e => e.1 == h && s.physEng e.1 e.2 == p.val)
    | _ => false)

/-- A LIVE stream's chunks at a boundary: patience clocks start, completion is noted, and the slots freed before it are allocated to the
chunks that come next in them. -/
def State.liveAt (s : State) (n : Nat) (m : ManifestCfg) : State :=
  let now := s.now
  let s := (s.stream n).chunks.foldl (fun (s : State) e =>
    let here := s.chunkHere n m e.1
    s.modChunk n e.1 (fun ch => { ch with
      clock := if ch.clock.isNone && ch.last.isSome then some now else ch.clock
      complete := ch.complete || here })) s
  if s.engineFenced m then s
  else
    (rangeFrom m.slotCount (m.chunkCount - m.slotCount)).foldl (fun (s : State) c =>
      let old := (s.stream n).chunk (c - m.slotCount)
      if (old.released || old.sent) && !((s.stream n).chunk c).converted && (s.slot? n m c m.root).isNone then
        (s.modChunk n c id).allocSlots n m c
      else s) s

/-- A stream that is created: its status, counts and GEN stand until the next arm (05 R121, R142, R146; log entry 86). -/
def StreamSt.created (x : StreamSt) (m : ManifestCfg) : StreamSt :=
  { state := .idle, gen := x.gen, home := m.home, genEnds := x.genEnds, cfg := some m, cOut := m.cOut, statE := x.statE, statW := x.statW }

/-- A stream whose fence is empty: its Manifest leaves the caches and it is FREE (05 R146). -/
def State.freeStream (s : State) (n : Nat) : State :=
  let drop := fun (l : List Nat) => l.filter (fun i => i != n)
  let s := s.modHalves (fun _ x => { x with
    mcache := { held := drop x.mcache.held, pinned := drop x.mcache.pinned, fetching := drop x.mcache.fetching } })
  s.modStream n (fun x => { state := .free, gen := x.gen, home := x.home, genEnds := x.genEnds, statE := x.statE, statW := x.statW })

/-- The commands of a stream that stand beside each other, in the order teardown, abort, commit, arm (05 R148); an abort of the hardware
waits for no swap. -/
def State.commandsAt (s : State) (n : Nat) (m : ManifestCfg) (held : Bool) : State :=
  let x := s.stream n
  let tear := x.pTeardown && !held
  let hard := s.hardAbort n m
  let asked : Option AbortReq := if (tear || x.pAbortCmd) && !held then some ⟨7, 0xFFFF, 0xFF, false, none⟩ else none
  let s := match lowerReq hard asked with
    | some r => s.stopStream n m r (hard.isSome || !tear)
    | none => s
  let s := s.modStream n (fun x => { x with pAbort := none })
  if tear then
    (s.refuseResends n m).modStream n (fun x => { x with
      state := .fencing
      torn := some s.now
      fenceEmpty := false
      pArm := none
      pAbortCmd := false
      pCommit := false
      pTeardown := false
      pNoise := none })
  else
    let st := fun (s : State) => (s.stream n).state
    let commit := x.pCommit && !held
    let s := if (commit ∧ (st s = .retaining ∨ st s = .stopped)) ∨ (st s = .retaining ∧ s.runFreed n m) then
        (s.refuseResends n m).modStream n (fun x => { x with state := .idle, chunks := [] })
      else s
    let s := match x.pArm with
      | some (t, c) =>
        if held || !tideReached s.now t then s
        else
          let s := s.modStream n (fun x => { x with pArm := none })
          if st s = .idle ∨ st s = .retaining ∨ st s = .stopped then (s.refuseResends n m).goLive n m c else s
      | none => s
    if held then s
    else s.modStream n (fun x => { x with
      pAbortCmd := false
      pCommit := false
      noise := match x.pNoise with
        | some v => v
        | none => x.noise
      pNoise := none })

/-- Step 4 for one stream. -/
def State.streamAt (s : State) (n : Nat) : State :=
  let x := s.stream n
  let held := s.heldStream x
  match x.cfg with
  | none =>
    match x.pCreate with
    | some m => if held then s else s.modStream n (fun x => x.created m)
    | none => s
  | some m =>
    if x.state = .fencing then (if x.fenceEmpty then s.freeStream n else s)
    else
      let s := s.commandsAt n m held
      if (s.stream n).state = .live then s.liveAt n m else s

/-! ## Jobs and shards (07 R172 to R182, R195) -/

/-- The commands of a job take effect; changes of its recipe images wait while a swap is withheld (01 R18, R19). -/
def JobSt.boundary (x : JobSt) (held : Bool) : JobSt :=
  let quay := fun (p cur : Option (Nat × Nat)) => match p with
    | some (b, n) => if n = 0 then none else some (b, n)
    | none => cur
  let images := if held then x.images else x.imgArmed.foldl (fun t e => Tab.set t e.1 e.2) x.images
  { x with
    seed := x.pSeed.getD x.seed
    pSeed := none
    step := x.pStep.getD x.step
    pStep := none
    quayE := quay x.pQuayE x.quayE
    quayW := quay x.pQuayW x.quayW
    pQuayE := none
    pQuayW := none
    closed := x.closed ++ x.pClose
    pClose := []
    images := if held then images else images.filter (fun e => decide (e.1 ∉ x.pUnload))
    imageBad := if held then x.imageBad else x.imageBad.filter (fun i => (Tab.get? x.imgArmed i).isNone)
    imgArmed := if held then x.imgArmed else []
    pUnload := if held then x.pUnload else []
    params := x.pParams.foldl (fun t e => Tab.set t e.1 e.2) x.params
    pParams := []
    tasteK := (x.pTaste.map (fun p => p.1)).getD x.tasteK
    tasteTh := (x.pTaste.map (fun p => p.2)).getD x.tasteTh
    pTaste := none }

/-- Set the copy of a slot: its version and its coarse scale. -/
def ShardSt.setSlot (x : ShardSt) (slot : Nat) (v : TideNo) (c : U16) : ShardSt :=
  if slot % 2 = 0 then { x with ver0 := v, cCopy0 := c } else { x with ver1 := v, cCopy1 := c }

/-- An empty slot's version. -/
def noVersion : TideNo := 0xFFFF_FFFF_FFFF

/-- VERSION_SEED takes effect (07 R182). -/
def State.seedShard (s : State) (k : Nat) (v : TideNo) (c : U16) (amax : U32) : State :=
  match s.shard? k with
  | none => s
  | some x =>
    let j := s.job x.job
    let other := j.retired.isSome && j.firstVersion != v
    let s := if other then { s with shards := Tab.mapV s.shards (fun i (y : ShardSt) =>
        if i != k && y.job == x.job then { y with ver0 := noVersion, ver1 := noVersion } else y) }
      else s
    let s := if other || j.retired.isNone then
        s.modJob x.job (fun j => { j with retired := some (v - 1), firstVersion := v, closed := [] })
      else s
    let (i, s) := s.freeIx
    s.modShard k (fun y => { (y.setSlot v.toNat v c) with
      ver0 := if v.toNat % 2 = 0 then v else noVersion
      ver1 := if v.toNat % 2 = 1 then v else noVersion
      amax := amax
      mexp := mexpOf amax i
      pSeed := none })

/-- A shard is POISONED: its step ends, and the gathers that wait on it are refused (07 R204). What the host has rewritten of it counts from
here. -/
def State.poisonShard (s : State) (k : Nat) : State :=
  let s := s.modShard k (fun x => { x with
    status := if x.state = 2 then 2 else x.status
    state := if x.state = 0 then 0 else 3
    rewritten := if x.state = 3 then x.rewritten else []
    pPoison := false })
  (s.gathers.filter (fun g => g.waiting && g.shard == k)).foldl (fun (s : State) g => s.dropGather g 5) s

/-- Has the host rewritten every plane of a shard since it was poisoned (07 R204)? -/
def ShardSt.restored (x : ShardSt) (used : List Nat) : Bool :=
  (x.planeSizes used).all (fun p =>
    let a := x.planeAddr used p.1
    p.2 == 0 || x.rewritten.any (fun r => decide (r.1 ≤ a ∧ a + p.2 ≤ r.1 + r.2)))

/-- A shard takes a record: READY, but a POISONED one stays so until the host has rewritten every plane before it (07 R204). -/
def ShardSt.define (x : ShardSt) (c : ShardCfg) (used : List Nat) : ShardSt :=
  let y := { x with cfg := c, pCfg := none, grads := [], work := [] }
  { y with state := if x.state = 3 && !y.restored used then 3 else 1 }

/-- Step 4 for one shard: its definition, a swap that a half out of service withholds (07 R175, 01 R18, R19), its seeding, the version
that its step wrote, its poisoning. -/
def State.shardAt (s : State) (k : Nat) : State :=
  let s := s.modShard k (fun x => match x.pCfg with
    | some c => if s.withheld x.half then x else x.define c (s.usedPlanes { x with cfg := c })
    | none => x)
  let s := match (s.shard? k).bind (fun x => x.pSeed) with
    | some (v, c, a) => s.seedShard k v c a
    | none => s
  let s := s.modShard k (fun x =>
    if x.state = 2 ∧ x.updCount = x.chunks ∧ x.quantCount = x.chunks then
      let x := match x.pVer with
        | some (v, c) => x.setSlot v.toNat v c
        | none => x
      { x.endStep 1 with pVer := none }
    else x)
  if (s.shard? k).any (fun x => x.pPoison) then s.poisonShard k else s

/-- Retire the versions whose turn has come, at most `fuel` of them (07 R178). -/
def JobSt.retireAll : Nat → JobSt → JobSt
  | 0, j => j
  | fuel + 1, j =>
    match j.retired with
    | some r =>
      if r + 1 ∈ j.closed ∧ j.outOf (r + 1) = 0 then
        JobSt.retireAll fuel { j with retired := some (r + 1), closed := j.closed.filter (fun v => v != r + 1) }
      else j
    | none => j

/-- Gathers that waited for a version are served from now on (07 R180). -/
def State.serveWaiting (s : State) : State :=
  { s with gathers := s.gathers.map (fun (g : Gather) =>
      if g.waiting && (s.shard? g.shard).any (fun x => x.verOf g.version.toNat == g.version) then { g with waiting := false } else g) }

/-- Step 4 for jobs, shards and gathers. -/
def State.jobsAt (s : State) (held : Bool) : State :=
  let s := { s with jobs := Tab.mapV s.jobs (fun _ x => x.boundary held) }
  let s := (Tab.keys s.shards).foldl (fun (s : State) k => s.shardAt k) s
  let s := { s with jobs := Tab.mapV s.jobs (fun _ x => JobSt.retireAll x.closed.length x) }
  s.serveWaiting

/-! ## Collective records (06 R153, R165) -/

/-- The status of a record's stream, of its last run; a stream without a Manifest counts as aborted. -/
def StreamSt.runStatus (x : StreamSt) : BitVec 4 := if x.cfg.isNone then 7 else x.homeStat.status

/-- Step 4 for one record: torn down, armed at its tide, or its round begun. Every round of a RESHARD record has GEN_BASE (log entry
88). -/
def State.collAt (s : State) (cid : Nat) : State :=
  let c := s.coll cid
  let due := c.armT.any (fun t => tideReached s.now t)
  if c.teardown then
    if c.sids.all (fun n => (s.stream n).state == .free) then
      let s := if c.pinned then c.sids.foldl (fun (s : State) n => s.pin n false) s else s
      { s with colls := Tab.erase s.colls cid }
    else s
  else if c.state = 2 ∧ due then
    if c.sids.isEmpty then
      s.modColl cid (fun c => { c with state := 4, gen := if c.armed then c.gen + 1 else c.gen, armed := true, armT := none })
    else if c.sids.all (fun n => (s.stream n).pArm.isNone) then
      s.modColl cid (fun c => { c with state := 3, gen := (s.stream c.sidA).gen, armed := true, armT := none })
    else s
  else if c.reshard.isSome then s.modColl cid (fun c => { c with state := 3 })
  else s

/-- A record that runs is DONE when every stream reports OK, and BROKEN when one reports anything else. -/
def State.collEnds (s : State) (cid : Nat) : State :=
  let c := s.coll cid
  let xs := c.sids.map (fun n => s.stream n)
  if c.state ≠ 3 ∨ c.sids.isEmpty then s
  else if xs.any (fun x => x.state != .live && x.runStatus != 1) then s.modColl cid (fun c => { c with state := 5 })
  else if xs.all (fun x => x.runStatus == 1) then s.modColl cid (fun c => { c with state := 4 })
  else s

/-! ## Tiles and engines (04 R99, R100, R115) -/

/-- A tile write whose images have arrived: they stand in the tile's windows, and its command is answered. A tile with a stream that
is LIVE by now is not written (log entry 81). -/
def State.tileWriteAt (s : State) (id : Nat) : State :=
  match Tab.get? s.mbox.xfers id with
  | some (.tileWrite k first images) =>
    if s.withheld (tileHalf k) then s
    else if s.tileLive k then
      (s.modMbox (fun m => { m with
        xfers := Tab.erase m.xfers id
        xferDone := m.xferDone.filter (fun i => i != id) })).failWait (.transfer id) stState
    else
      let s := s.modTile k (fun t => { t with
        windows := images.zipIdx.foldl (fun w e => Tab.set w (first + e.2) (Window.ofImage e.1)) t.windows })
      (s.modMbox (fun m => { m with
        xfers := Tab.erase m.xfers id
        xferDone := m.xferDone.filter (fun i => i != id) })).finishWait (.transfer id) []
  | _ => s.modMbox (fun m => { m with xferDone := m.xferDone.filter (fun i => i != id) })

/-- Spares that were asked for before this boundary take over once their tile has been drained. -/
def State.sparesAt (s : State) (subs : List (Nat × Nat)) : State :=
  subs.foldl (fun (s : State) e => s.modTile e.1 (fun t => { t with
    drainsWaiting := t.drainsWaiting ++ [.substitution e.2]
    pSub := none })) s

/-- An engine that was withdrawn leaves its index: the repair is entered, and its source's action is complete (13 Table 13-16). -/
def State.engineOut (s : State) (h : Half) (old index : Nat) : State :=
  let s := s.modHalf h (fun x => { x with pEngMap := x.pEngMap.filter (fun e => e.1 != index) })
  if old < 20 ∧ old ∈ (s.half h).badEngines then
    ((s.raisePkg 27).logRepair 3 (h.num * 20 + old) index 0 (BitVec.ofNat 16 (srcHalf h old))).withdrawDone (srcHalf h old)
  else s

/-- The logical tiles of an engine on its physical engine: each on its own tile, or on the spare in place of one that is out of service (04
R99). -/
def State.seatEngine (s : State) (h : Half) (e phys : Nat) : State :=
  (List.range 8).foldl (fun (s : State) i => s.modTile (tileKey h e i) (fun t =>
    { t with phys := if physTile phys i ∈ (s.half h).badTiles then 8 else i, pSub := none })) s

/-- Engines are remapped as asked for before this boundary. -/
def State.remapAt (s : State) (h : Half) (maps : List (Nat × Nat)) : State :=
  maps.foldl (fun (s : State) e =>
    let old := s.physEng h e.1
    ((s.modHalf h (fun x => { x with engMap := Tab.set x.engMap e.1 e.2 })).seatEngine h e.1 e.2).engineOut h old e.1) s

/-! ## The whole step -/

/-- SWAP_STATUS and SWAP_TIDE after a boundary at which a set stood armed (02 R56). -/
def TideSt.noteSwap (t : TideSt) (e w : List Bool) : TideSt :=
  if e.isEmpty && w.isEmpty then t
  else { t with
    swapTide := BitVec.ofNat 32 t.now.toNat
    swappedE := e.any (fun b => !b)
    swappedW := w.any (fun b => !b)
    withheldE := t.withheldE || e.any id
    withheldW := t.withheldW || w.any id }

/-- Mirror sessions change (09 R253). -/
def HalfSt.mirrorsAt (x : HalfSt) : HalfSt :=
  { x with
    mirrors := x.pMirrors.foldl (fun t e => match e.2 with
      | some m => Tab.set t e.1 m
      | none => Tab.erase t e.1) x.mirrors
    pMirrors := [] }

/-- Step 4: everything that is armed, or was asked for before this boundary, takes effect. `subs` and the maps are the substitutions and
remappings asked for before it. -/
def State.swapAt (s : State) (subs mapsE mapsW : List (Nat × Nat)) : State :=
  let s := s.landWrites
  let held := s.heldAny
  let e := s.armedSets s.now .east
  let w := s.armedSets s.now .west
  let s := s.modTide (fun t => t.noteSwap e w)
  let epoch := s.chart.epoch
  let s := ((s.swapChart held).bypassAt).peersAt (((s.swapChart held).chart.epoch) != epoch)
  let s := (s.swapTm .east).swapTm .west
  let s := (s.remapAt .east mapsE).remapAt .west mapsW
  let s := s.sparesAt subs
  let s := s.jobsAt held
  let s := (Tab.keys s.streams).foldl (fun (s : State) n => s.streamAt n) s
  let s := (Tab.keys s.colls).foldl (fun (s : State) n => s.collAt n) s
  let s := s.mbox.xferDone.foldl (fun (s : State) i => s.tileWriteAt i) s
  let s := s.modHalves (fun _ x => x.mirrorsAt)
  let s := s.applyTideCfg
  let s := s.modTide (fun t => { t with asym := t.pAsym.foldl (fun a e => Tab.set a e.1 e.2) t.asym, pAsym := [] })
  (s.bridgeLeave).lanesAt.partsAt

end Sys2Proof.Machine
end

