-- ==== Sys2Proof/Machine/Boundary.lean ====
section
/-! DEFINITION. TIDE_BOUNDARY: the work of a tide boundary in the order of Table 2-2 (02 R44). -/

namespace Sys2Proof.Machine

/-! ## Step 1 (02 R41, 11 R287, R295, 13 R342) -/

/-- A berth at a boundary: how long it has been down, or receiving BREAKWATER (06 R168), and its retries of the tide (11 R293). -/
def BerthSt.tick (y : BerthSt) : BerthSt := { y with retries := 0, downTides := if !y.up || y.bwRx then y.downTides + 1 else 0 }

/-- The cycles that a tile used in the tide just ended join its peak (02 R57), before the snapshot of that tide (02 R47). -/
def TileSt.closeTide (t : TileSt) : TileSt := { t with peak := max t.peak t.busy, busy := 0 }

/-- Step 1: the count advances, the lines are latched, the eye figures follow, and berths with a down event go down. -/
def State.stepOne (s : State) : State :=
  let s := (s.modTide TideSt.advance).latchLines
  let s := { s with tiles := Tab.mapV s.tiles (fun _ t => t.closeTide) }
  let s := (Tab.keys s.berths).foldl (fun (s : State) b => s.laneHealth b) s
  let s := { s with berths := Tab.mapV s.berths (fun _ y => y.tick) }
  (s.berths.filter (fun e => e.2.pDown)).foldl (fun (s : State) e => s.berthDown e.1) s

/-! ## Steps 5 and 6 (10 R265 to R277) -/

/-- The engines of a half whose injectors sent under a throttle in the tide just ended are counted (10 Table 10-5). -/
def State.countThrottled (s : State) (h : Half) : State :=
  let engs := ((s.half h).injUsed.map (fun e => (e.1 - 128) / 8)).foldl (fun l i => insertNew i l) []
  let s := engs.foldl (fun (s : State) i => s.bump .injThrottled (h.num * 20 + i)) s
  s.modHalf h (fun x => { x with injUsed := [] })

/-- Steps 5 and 6. A host ring's use starts anew, and its expired limits go (11 R311). -/
def State.trafficAt (s : State) : State :=
  let s := s.modHalves (fun h x => x.refill.refreshQuanta h)
  let s := (s.grantCredits.throttleHalf .east).throttleHalf .west
  let s := (s.countThrottled .east).countThrottled .west
  s.modPort (fun p => { p with rings := Tab.mapV p.rings (fun _ (r : RingSt) => { r with
    sentCells := []
    limits := r.limits.filter (fun l => !tideReached s.now l.until_) }) })

/-! ## Step 7: releases and resends (05 R132 to R135, 06 R159, R163, 02 R46) -/

/-- Each tile's budget for the tide (02 R48). Log entry 64. -/
def State.loadBudgets (s : State) : State :=
  { s with tiles := (List.range 320).map (fun k => (k, { s.tile k with budget := 3904, running := none })) }

/-- Is a chunk ready for release: its result converted, or come back whole, before this boundary? -/
def State.releaseDue (s : State) (n : Nat) (m : ManifestCfg) (c : Nat) : Bool :=
  let ch := (s.stream n).chunk c
  let before := ch.convTide != s.now
  !ch.released && before && (match s.role n m c with
    | .release => ch.converted
    | _ => m.releaser && s.expectsResult n m c && ch.rxDone)

/-- The noise statistics of a released chunk, whose sum costs its root 16 cycles (07 R200). Log entry 64. -/
def State.noiseRelease (s : State) (n : Nat) (m : ManifestCfg) (c : Nat) (ps : List OutPkt) : State :=
  if s.noisy n m c then
    let vs := gradVals (m.chunkLen c) ps
    (s.charge m.root 16 .other).modStream n (fun x => { x with noiseA := vs.foldl (fun a v => addSquare a v) x.noiseA })
  else s

/-- Release a chunk: to the multicast group of its consumers or, from the top of a tree, of its children (06 R163), to the recipe and down
the ring; its packets are retained and its slot is free. -/
def State.releaseChunk (s : State) (n : Nat) (m : ManifestCfg) (c : Nat) : State :=
  let ch := (s.stream n).chunk c
  let own := s.role n m c == .release
  let ps := if own then ch.out else ch.rx
  let s := s.modChunk n c (fun ch => { ch with released := true, out := ps })
  let s := s.modStat n m.home (fun y => { y with released := satAdd 32 y.released 1 })
  let s := if m.consumer % 2 = 1 ∨ 0 < m.children then ps.foldl (fun (s : State) p => s.sendOut m none p m.mcastGroup.toNat true) s else s
  let s := if 2 ≤ m.consumer then s.deliver n m c ps else s
  let s := (s.forwardResults n m c).noiseRelease n m c ps
  (if own then s.freeSlots n m c else s).freeAcked n m c

/-- Is a root tile's engine one whose line was latched at this boundary (02 R46)? -/
def State.rootLatched (s : State) (m : ManifestCfg) : Bool :=
  decide (srcHalf m.home (s.physEng m.home (tileEng m.root)) ∈ s.fault.latched)

/-- Serve the resends of a stream that were asked for before this boundary (05 R135). -/
def State.serveResends (s : State) (n : Nat) (m : ManifestCfg) : State :=
  let x := s.stream n
  if x.state ≠ .live ∧ x.state ≠ .retaining then s
  else
    let s := s.modStream n (fun x => { x with resends := [] })
    x.resends.foldl (fun (s : State) r =>
      let ch := (s.stream n).chunk r.chunk
      match ch.retained.find? (fun p => !ch.freed && p.elemOff == r.elemOff && p.seg == r.seg) with
      | some p =>
        (s.modStat n m.home (fun y => { y with resends := satAdd 32 y.resends 1, resent := true })).inject m.home
          ((s.half m.home).streamPort n) (p.hdr r.dest.toNat false s.own) (p.payload.drop 64) true
      | none =>
        (s.sendCtrl r.dest m.job (.resendRefused (BitVec.ofNat 20 n) x.gen (BitVec.ofNat 16 r.chunk) (BitVec.ofNat 12 r.elemOff)
          (BitVec.ofNat 2 r.seg))).badCell n m) s

/-- Step 7 for one stream. -/
def State.releasesAt (s : State) (n : Nat) : State :=
  match s.mfst n with
  | none => s
  | some m =>
    let s :=
      if (s.stream n).state = .live ∧ !s.rootLatched m then
        (List.range m.chunkCount).foldl (fun (s : State) c => if s.releaseDue n m c then s.releaseChunk n m c else s) s
      else s
    (s.serveResends n m).endRun n m

/-- Step 7. -/
def State.stepSeven (s : State) : State :=
  let s := (Tab.keys s.streams).foldl (fun (s : State) n => s.releasesAt n) s
  (Tab.keys s.colls).foldl (fun (s : State) n => s.collEnds n) s

/-! ## Power, security, mastership and resets (14 R366 to R386, 15 R402, R403) -/

/-- The halves ordered to reset: the effects of the safe state first, the reset a boundary later. -/
def State.halfResetAt (s : State) (h : Half) : State :=
  if (s.half h).restart = 1 then s.resetHalf h
  else if (s.half h).resetAt.any (fun t => tideReached s.now t) then s.resetStops h
  else s

/-- The latch output reaches each half with the heartbeat (14 R386). -/
def HalfSt.heartbeat (x : HalfSt) : HalfSt := { x with latchSeen := min 2 (x.latchSeen + 1) }

/-- What a boundary does when the tide has not begun: the generator counts its periods, and a package reset that was asked for starts. -/
def State.idleBoundary (s : State) : State :=
  let s := s.modTide TideSt.advance
  if s.boot.resetDue then s.packageReset else s

/-- The transitions of the package; a package reset takes everything. -/
def State.transitionsAt (s : State) : State :=
  let s := s.mastershipAt.powerAt.securityAt
  let s := [256, 257, 258, 259].foldl (fun (s : State) b => (s.ethUp b).storeCheck b) s
  if s.boot.resetDue then s.packageReset else s

/-- The work of a boundary. What is to change at a boundary after a severe source is classified waits for the next one, so the
substitutions and remappings are those asked for before this one. Log entry 63. -/
def State.boundary (s : State) : State :=
  let subs := s.tiles.filterMap (fun e => e.2.pSub.map (fun p => (e.1, p)))
  let mapsE := s.east.pEngMap
  let mapsW := s.west.pEngMap
  let s := s.stepOne
  let s := s.classifyAll.zeroKeys.fencesAt
  let s := s.takeSnap
  let s := s.swapAt subs mapsE mapsW
  let s := s.trafficAt.loadBudgets
  let s := s.stepSeven
  let s := (s.halfResetAt .east).halfResetAt .west
  let s := s.modHalves (fun _ x => x.heartbeat)
  s.transitionsAt

/-- TIDE_BOUNDARY: the faults of the hardware in the tide that ends raise their lines before step 1 latches them (13 R342). -/
def execTideBoundary (faults : List HwFault) (s : State) : Host.Outcome State Fault Refusal :=
  .next (if !s.tide.counting then s else if !s.tide.running then s.idleBoundary
    else (faults.foldl (fun (s : State) f => s.hwFault f) s).boundary)

end Sys2Proof.Machine
end

