-- ==== Sys2Proof/Machine/Dispatch.lean ====
section
/-! DEFINITION. One arm per command. -/

namespace Sys2Proof.Machine

def exec (i : Instr) (s : State) : Host.Outcome State Fault Refusal :=
  match i with
  | .tideBoundary faults => Sys2Proof.Machine.execTideBoundary faults s
  | .tideInEdge time low high => Sys2Proof.Machine.execTideInEdge time low high s
  | .tideInLost now => Sys2Proof.Machine.execTideInLost now s
  | .alignTx b cyc frac => Sys2Proof.Machine.execAlignTx b cyc frac s
  | .align b c cyc frac replayed => Sys2Proof.Machine.execAlign b c cyc frac replayed s
  | .exchangeTimeout => Sys2Proof.Machine.execExchangeTimeout s
  | .tideOverrun h eng tile => Sys2Proof.Machine.execTideOverrun h eng tile s
  | .tideNowLoRead who cyc => Sys2Proof.Machine.execTideNowLoRead who cyc s
  | .faultWordRead who word => Sys2Proof.Machine.execFaultWordRead who word s
  | .contributionCell h eng tile cyc err => Sys2Proof.Machine.execContributionCell h eng tile cyc err s
  | .treeCombine sid chunk srcHalf srcEng srcTile cyc err => Sys2Proof.Machine.execTreeCombine sid chunk srcHalf srcEng srcTile cyc err s
  | .outputConversion sid chunk cyc err => Sys2Proof.Machine.execOutputConversion sid chunk cyc err s
  | .fuseOperandLoad sid chunk => Sys2Proof.Machine.execFuseOperandLoad sid chunk s
  | .drain h eng tile cyc => Sys2Proof.Machine.execDrain h eng tile cyc s
  | .drainDone h eng tile => Sys2Proof.Machine.execDrainDone h eng tile s
  | .spill h eng tile slot cyc err => Sys2Proof.Machine.execSpill h eng tile slot cyc err s
  | .recipeOperation h index chunk eng tile cyc ue => Sys2Proof.Machine.execRecipeOperation h index chunk eng tile cyc ue s
  | .manifestFetch h sid => Sys2Proof.Machine.execManifestFetch h sid s
  | .contributionPacket h pid => Sys2Proof.Machine.execContributionPacket h pid s
  | .streamStart c sid gen => Sys2Proof.Machine.execStreamStart c sid gen s
  | .streamAbortCell c sid gen failChunk status => Sys2Proof.Machine.execStreamAbortCell c sid gen failChunk status s
  | .poison c sid gen failChunk => Sys2Proof.Machine.execPoison c sid gen failChunk s
  | .resultAck c sid gen chunk count => Sys2Proof.Machine.execResultAck c sid gen chunk count s
  | .resendReq c sid gen chunk elemOff seg ue => Sys2Proof.Machine.execResendReq c sid gen chunk elemOff seg ue s
  | .patienceExpiry sid chunk => Sys2Proof.Machine.execPatienceExpiry sid chunk s
  | .streamFenceEmpty sid => Sys2Proof.Machine.execStreamFenceEmpty sid s
  | .teardownDeadline sid => Sys2Proof.Machine.execTeardownDeadline sid s
  | .resultPacket h pid => Sys2Proof.Machine.execResultPacket h pid s
  | .peerLost addr => Sys2Proof.Machine.execPeerLost addr s
  | .reshardPacket h pid => Sys2Proof.Machine.execReshardPacket h pid s
  | .reshardEnd c round => Sys2Proof.Machine.execReshardEnd c round s
  | .reshardReadDone cid entry => Sys2Proof.Machine.execReshardReadDone cid entry s
  | .reshardWritePhase cid => Sys2Proof.Machine.execReshardWritePhase cid s
  | .reshardWriteDone cid => Sys2Proof.Machine.execReshardWriteDone cid s
  | .reshardTimeout cid => Sys2Proof.Machine.execReshardTimeout cid s
  | .gatherReq c tensor first count version dest mcast => Sys2Proof.Machine.execGatherReq c tensor first count version dest mcast s
  | .gatherReadDone gid ue => Sys2Proof.Machine.execGatherReadDone gid ue s
  | .gatherTimeout gid => Sys2Proof.Machine.execGatherTimeout gid s
  | .prefetchReadDone read => Sys2Proof.Machine.execPrefetchReadDone read s
  | .patrolScrub site found => Sys2Proof.Machine.execPatrolScrub site found s
  | .packetArrival h sub cw head => Sys2Proof.Machine.execPacketArrival h sub cw head s
  | .palletAllocation h pid => Sys2Proof.Machine.execPalletAllocation h pid s
  | .packetReceivedWhole h pid rest crc => Sys2Proof.Machine.execPacketReceivedWhole h pid rest crc s
  | .schedulerGrain h => Sys2Proof.Machine.execSchedulerGrain h s
  | .freeRingFetch h => Sys2Proof.Machine.execFreeRingFetch h s
  | .freeMapAudit h => Sys2Proof.Machine.execFreeMapAudit h s
  | .bypassEngage bundle => Sys2Proof.Machine.execBypassEngage bundle s
  | .epochGateOpen => Sys2Proof.Machine.execEpochGateOpen s
  | .chartShadowArm => Sys2Proof.Machine.execChartShadowArm s
  | .discoverTx b => Sys2Proof.Machine.execDiscoverTx b s
  | .discover b c => Sys2Proof.Machine.execDiscover b c s
  | .discoveryTimeout b => Sys2Proof.Machine.execDiscoveryTimeout b s
  | .throttle c mask level dur => Sys2Proof.Machine.execThrottle c mask level dur s
  | .credit b job grants tide => Sys2Proof.Machine.execCredit b job grants tide s
  | .roundTx b => Sys2Proof.Machine.execRoundTx b s
  | .roundRx b r => Sys2Proof.Machine.execRoundRx b r s
  | .linkAck b point => Sys2Proof.Machine.execLinkAck b point s
  | .nakRepeat b => Sys2Proof.Machine.execNakRepeat b s
  | .roundTimeout b => Sys2Proof.Machine.execRoundTimeout b s
  | .train b serial state => Sys2Proof.Machine.execTrain b serial state s
  | .breakwater b => Sys2Proof.Machine.execBreakwater b s
  | .doze b ack => Sys2Proof.Machine.execDoze b ack s
  | .wake b => Sys2Proof.Machine.execWake b s
  | .spareOrderedSet b lane spare cwcnt ack => Sys2Proof.Machine.execSpareOrderedSet b lane spare cwcnt ack s
  | .loop b enter => Sys2Proof.Machine.execLoop b enter s
  | .laneLockLoss b lane => Sys2Proof.Machine.execLaneLockLoss b lane s
  | .spareSwitch b => Sys2Proof.Machine.execSpareSwitch b s
  | .spareTimeout b => Sys2Proof.Machine.execSpareTimeout b s
  | .laserFailover oe standbyOk => Sys2Proof.Machine.execLaserFailover oe standbyOk s
  | .dozeDelay b => Sys2Proof.Machine.execDozeDelay b s
  | .ls2ExitDone target => Sys2Proof.Machine.execLs2ExitDone target s
  | .ethernetFrame lsx f => Sys2Proof.Machine.execEthernetFrame lsx f s
  | .pauseFrame lsx quanta => Sys2Proof.Machine.execPauseFrame lsx quanta s
  | .pauseRepeat lsx => Sys2Proof.Machine.execPauseRepeat lsx s
  | .pauseExpiry lsx => Sys2Proof.Machine.execPauseExpiry lsx s
  | .hostRingPoll f producer rxConsumer => Sys2Proof.Machine.execHostRingPoll f producer rxConsumer s
  | .hostSlotFetch f slot cells => Sys2Proof.Machine.execHostSlotFetch f slot cells s
  | .functionLevelReset f => Sys2Proof.Machine.execFunctionLevelReset f s
  | .perstN asserted => Sys2Proof.Machine.execPerstN asserted s
  | .i3cPrivateWrite bytes => Sys2Proof.Machine.execI3cPrivateWrite bytes s
  | .i3cPrivateRead words => Sys2Proof.Machine.execI3cPrivateRead words s
  | .entdaa addr => Sys2Proof.Machine.execEntdaa addr s
  | .rstdaa => Sys2Proof.Machine.execRstdaa s
  | .rgmiiRead tag offset length => Sys2Proof.Machine.execRgmiiRead tag offset length s
  | .rgmiiWrite tag offset length data => Sys2Proof.Machine.execRgmiiWrite tag offset length data s
  | .rgmiiLinkDown ms => Sys2Proof.Machine.execRgmiiLinkDown ms s
  | .getVersion p => Sys2Proof.Machine.execGetVersion p s
  | .getCapabilities p => Sys2Proof.Machine.execGetCapabilities p s
  | .negotiateAlgorithms p asym hash => Sys2Proof.Machine.execNegotiateAlgorithms p asym hash s
  | .getDigests p => Sys2Proof.Machine.execGetDigests p s
  | .getCertificate p slot offset length => Sys2Proof.Machine.execGetCertificate p slot offset length s
  | .challenge p slot nonce => Sys2Proof.Machine.execChallenge p slot nonce s
  | .getMeasurements p index signed nonce => Sys2Proof.Machine.execGetMeasurements p index signed nonce s
  | .bypass => Sys2Proof.Machine.execBypass s
  | .idcode => Sys2Proof.Machine.execIdcode s
  | .samplePreload scanIn => Sys2Proof.Machine.execSamplePreload scanIn s
  | .extest scanIn => Sys2Proof.Machine.execExtest scanIn s
  | .highz => Sys2Proof.Machine.execHighz s
  | .clamp => Sys2Proof.Machine.execClamp s
  | .debugHm p halt => Sys2Proof.Machine.execDebugHm p halt s
  | .debugDep h halt => Sys2Proof.Machine.execDebugDep h halt s
  | .scanHalf h => Sys2Proof.Machine.execScanHalf h s
  | .memPeek h offset => Sys2Proof.Machine.execMemPeek h offset s
  | .faultInj source => Sys2Proof.Machine.execFaultInj source s
  | .otpProg addr value => Sys2Proof.Machine.execOtpProg addr value s
  | .secDebug => Sys2Proof.Machine.execSecDebug s
  | .doorbell who ch len => Sys2Proof.Machine.execDoorbell who ch len s
  | .mbCtrlRelease who ch => Sys2Proof.Machine.execMbCtrlRelease who ch s
  | .mailboxSlotWrite who ch offset data => Sys2Proof.Machine.execMailboxSlotWrite who ch offset data s
  | .selfReset who => Sys2Proof.Machine.execSelfReset who s
  | .registerWrite who offset value => Sys2Proof.Machine.execRegisterWrite who offset value s
  | .replyPart ch => Sys2Proof.Machine.execReplyPart ch s
  | .moverTransferDone id => Sys2Proof.Machine.execMoverTransferDone id s
  | .version u => Sys2Proof.Machine.execVersion u s
  | .jobOwner u job owner => Sys2Proof.Machine.execJobOwner u job owner s
  | .tideConfig u mode trim parent backup start => Sys2Proof.Machine.execTideConfig u mode trim parent backup start s
  | .tideAsym u berth asym => Sys2Proof.Machine.execTideAsym u berth asym s
  | .tideRelock u => Sys2Proof.Machine.execTideRelock u s
  | .berthMode u lsx mode etherType ownMac peerMac => Sys2Proof.Machine.execBerthMode u lsx mode etherType ownMac peerMac s
  | .poolSetup u half mode salt pages => Sys2Proof.Machine.execPoolSetup u half mode salt pages s
  | .laneState u target state dozeDelay => Sys2Proof.Machine.execLaneState u target state dozeDelay s
  | .laneLoop u berth loop pattern => Sys2Proof.Machine.execLaneLoop u berth loop pattern s
  | .hostRing u log2 enable txBase txProd txCons rxBase rxProd rxCons => Sys2Proof.Machine.execHostRing u log2 enable txBase txProd txCons rxBase rxProd rxCons s
  | .reset u scope => Sys2Proof.Machine.execReset u scope s
  | .fwBegin u size => Sys2Proof.Machine.execFwBegin u size s
  | .fwData u offset len data => Sys2Proof.Machine.execFwData u offset len data s
  | .fwCommit u img => Sys2Proof.Machine.execFwCommit u img s
  | .fwSvnRaise u svn => Sys2Proof.Machine.execFwSvnRaise u svn s
  | .chartWrite u section_ index count entries => Sys2Proof.Machine.execChartWrite u section_ index count entries s
  | .chartArm u t => Sys2Proof.Machine.execChartArm u t s
  | .chartRead u slot section_ index count => Sys2Proof.Machine.execChartRead u slot section_ index count s
  | .discoveryReport u => Sys2Proof.Machine.execDiscoveryReport u s
  | .lift u kind index => Sys2Proof.Machine.execLift u kind index s
  | .tmWrite u section_ half index count entries => Sys2Proof.Machine.execTmWrite u section_ half index count entries s
  | .tmArm u half => Sys2Proof.Machine.execTmArm u half s
  | .streamCreate u sid m => Sys2Proof.Machine.execStreamCreate u sid m s
  | .streamArm u sid cOut => Sys2Proof.Machine.execStreamArm u sid cOut s
  | .streamAbort u sid => Sys2Proof.Machine.execStreamAbort u sid s
  | .streamCommit u sid => Sys2Proof.Machine.execStreamCommit u sid s
  | .streamTeardown u sid => Sys2Proof.Machine.execStreamTeardown u sid s
  | .streamStatus u sid => Sys2Proof.Machine.execStreamStatus u sid s
  | .streamPin u sid pin => Sys2Proof.Machine.execStreamPin u sid pin s
  | .collDefine u cid ctl sids => Sys2Proof.Machine.execCollDefine u cid ctl sids s
  | .collArm u cid t => Sys2Proof.Machine.execCollArm u cid t s
  | .collStatus u cid => Sys2Proof.Machine.execCollStatus u cid s
  | .collTeardown u cid => Sys2Proof.Machine.execCollTeardown u cid s
  | .reshard u cid round table entries => Sys2Proof.Machine.execReshard u cid round table entries s
  | .holdAlloc u stack first count => Sys2Proof.Machine.execHoldAlloc u stack first count s
  | .holdFree u stack first count => Sys2Proof.Machine.execHoldFree u stack first count s
  | .quayAlloc u half base size => Sys2Proof.Machine.execQuayAlloc u half base size s
  | .seedSet u seed => Sys2Proof.Machine.execSeedSet u seed s
  | .stepSet u step => Sys2Proof.Machine.execStepSet u step s
  | .shardDefine u index half r => Sys2Proof.Machine.execShardDefine u index half r s
  | .versionClose u version => Sys2Proof.Machine.execVersionClose u version s
  | .prefetch u version group ranges => Sys2Proof.Machine.execPrefetch u version group ranges s
  | .holdWrite u addr len data => Sys2Proof.Machine.execHoldWrite u addr len data s
  | .holdRead u addr len => Sys2Proof.Machine.execHoldRead u addr len s
  | .quayWrite u addr len data => Sys2Proof.Machine.execQuayWrite u addr len data s
  | .quayRead u addr len => Sys2Proof.Machine.execQuayRead u addr len s
  | .versionSeed u index half version cCopy amax => Sys2Proof.Machine.execVersionSeed u index half version cCopy amax s
  | .recipeLoad u image last offset len data => Sys2Proof.Machine.execRecipeLoad u image last offset len data s
  | .recipeParam u block scalars => Sys2Proof.Machine.execRecipeParam u block scalars s
  | .recipeStatus u shard => Sys2Proof.Machine.execRecipeStatus u shard s
  | .recipeUnload u image => Sys2Proof.Machine.execRecipeUnload u image s
  | .faultRead u first => Sys2Proof.Machine.execFaultRead u first s
  | .faultConfig u source n wLog2 => Sys2Proof.Machine.execFaultConfig u source n wLog2 s
  | .safeExit u scope maskIndex => Sys2Proof.Machine.execSafeExit u scope maskIndex s
  | .fence u kind index enable => Sys2Proof.Machine.execFence u kind index enable s
  | .spare u kind berth lane spareIdx engine tile => Sys2Proof.Machine.execSpare u kind berth lane spareIdx engine tile s
  | .engineMap u half logical physical => Sys2Proof.Machine.execEngineMap u half logical physical s
  | .repairLog u first => Sys2Proof.Machine.execRepairLog u first s
  | .tileRead u engine tile first count => Sys2Proof.Machine.execTileRead u engine tile first count s
  | .tileWrite u engine tile first count images => Sys2Proof.Machine.execTileWrite u engine tile first count images s
  | .palletDiag u half first count => Sys2Proof.Machine.execPalletDiag u half first count s
  | .palletAudit u half => Sys2Proof.Machine.execPalletAudit u half s
  | .powerSet u state => Sys2Proof.Machine.execPowerSet u state s
  | .debugChallenge u => Sys2Proof.Machine.execDebugChallenge u s
  | .debugOpen u target signature => Sys2Proof.Machine.execDebugOpen u target signature s
  | .debugClose u => Sys2Proof.Machine.execDebugClose u s
  | .lifecycleSet u target signature => Sys2Proof.Machine.execLifecycleSet u target signature s
  | .zeroize u scope => Sys2Proof.Machine.execZeroize u scope s
  | .mastership u => Sys2Proof.Machine.execMastership u s
  | .countersRead u set first count => Sys2Proof.Machine.execCountersRead u set first count s
  | .tastingSet u k threshold => Sys2Proof.Machine.execTastingSet u k threshold s
  | .noiseSet u sid j key => Sys2Proof.Machine.execNoiseSet u sid j key s
  | .stepReport u kind index => Sys2Proof.Machine.execStepReport u kind index s
  | .mirrorSet u half session source dir vc analysis key flow job => Sys2Proof.Machine.execMirrorSet u half session source dir vc analysis key flow job s
  | .samplerCreate u part persona whole addr berths engines => Sys2Proof.Machine.execSamplerCreate u part persona whole addr berths engines s
  | .samplerGen u g => Sys2Proof.Machine.execSamplerGen u g s
  | .samplerCheck u part berth trigger pre post mode ring entries => Sys2Proof.Machine.execSamplerCheck u part berth trigger pre post mode ring entries s
  | .samplerGolden u part ack sid gen table out m => Sys2Proof.Machine.execSamplerGolden u part ack sid gen table out m s
  | .samplerStart u part t => Sys2Proof.Machine.execSamplerStart u part t s
  | .samplerStop u part => Sys2Proof.Machine.execSamplerStop u part s
  | .samplerStatus u part => Sys2Proof.Machine.execSamplerStatus u part s
  | .samplerDestroy u part => Sys2Proof.Machine.execSamplerDestroy u part s
  | .mgmtInterrupt block => Sys2Proof.Machine.execMgmtInterrupt block s
  | .forcePkg who => Sys2Proof.Machine.execForcePkg who s
  | .forceE who => Sys2Proof.Machine.execForceE who s
  | .forceW who => Sys2Proof.Machine.execForceW who s
  | .ack who => Sys2Proof.Machine.execAck who s
  | .watchdog p => Sys2Proof.Machine.execWatchdog p s
  | .lockstepMismatch p => Sys2Proof.Machine.execLockstepMismatch p s
  | .latchLost h => Sys2Proof.Machine.execLatchLost h s
  | .fenceEmpty o => Sys2Proof.Machine.execFenceEmpty o s
  | .fenceDeadline o => Sys2Proof.Machine.execFenceDeadline o s
  | .tempHigh sensor celsius => Sys2Proof.Machine.execTempHigh sensor celsius s
  | .thermTrip sensor celsius => Sys2Proof.Machine.execThermTrip sensor celsius s
  | .voltage rail => Sys2Proof.Machine.execVoltage rail s
  | .powerGood pg level => Sys2Proof.Machine.execPowerGood pg level s
  | .pll h => Sys2Proof.Machine.execPll h s
  | .nonceExpiry => Sys2Proof.Machine.execNonceExpiry s
  | .zeroizeDone => Sys2Proof.Machine.execZeroizeDone s
  | .powerOn group => Sys2Proof.Machine.execPowerOn group s
  | .bootRom pllOk otpOk secOk hmA hmB => Sys2Proof.Machine.execBootRom pllOk otpOk secOk hmA hmB s
  | .warmReset lowNs => Sys2Proof.Machine.execWarmReset lowNs s
  | .firmwareAuthentication f => Sys2Proof.Machine.execFirmwareAuthentication f s
  | .bist h ok => Sys2Proof.Machine.execBist h ok s
  | .memoryTraining h quayOk stacksOk => Sys2Proof.Machine.execMemoryTraining h quayOk stacksOk s
  | .laneBringUp feeds => Sys2Proof.Machine.execLaneBringUp feeds s
  | .discovery => Sys2Proof.Machine.execDiscovery s
  | .chartLoad => Sys2Proof.Machine.execChartLoad s
  | .bindingTableLock => Sys2Proof.Machine.execBindingTableLock s
  | .firstTide now => Sys2Proof.Machine.execFirstTide now s
  | .halfRejoin h => Sys2Proof.Machine.execHalfRejoin h s
  | .generatorPacket part gen slot => Sys2Proof.Machine.execGeneratorPacket part gen slot s
  | .mark b genId seq departure cyc frac => Sys2Proof.Machine.execMark b genId seq departure cyc frac s
  | .goldenEvaluation part => Sys2Proof.Machine.execGoldenEvaluation part s
  | .goldenCompare part b payload => Sys2Proof.Machine.execGoldenCompare part b payload s
  | .powerOff => Sys2Proof.Machine.execPowerOff s
  | .bridgeSubportRemoved h j moduleDown => Sys2Proof.Machine.execBridgeSubportRemoved h j moduleDown s
  | .trstN => Sys2Proof.Machine.execTrstN s
  | .thermtripNDeassert => Sys2Proof.Machine.execThermtripNDeassert s
  | .clock h => Sys2Proof.Machine.execClock h s

end Sys2Proof.Machine
end

