-- ==== Sys2Proof/Safety.lean ====
section
/-! DEFINITION. The terms that claims use: the modes that the spec allows, memories in canonical form, what is added into a window, a format's precision,
and a UCI command that firmware serves with its answer. -/

namespace Sys2Proof.Machine

/-! ## Legal modes (14 Table 14-1, R366, R368) -/

/-- The state codes of Table 14-1; FACTORY-OPEN only in FACTORY, and AUTH-OPEN only outside it (R368). -/
def SecSt.modesOk (x : SecSt) : Bool :=
  decide (1 ≤ x.lifecycle.toNat ∧ x.lifecycle.toNat ≤ 4) && decide (x.dbg.toNat ≤ 2) && decide (x.power.toNat ≤ 3)
    && (x.dbg != 2 || x.lifecycle == 1) && (x.dbg != 1 || x.lifecycle != 1)

/-- May a lifecycle change to `l` wait: forward only (R366), and not from FACTORY straight past PROVISIONED (Table 14-2)? -/
def SecSt.mayBecome (x : SecSt) (l : Byte) : Bool :=
  decide (2 ≤ l.toNat ∧ l.toNat ≤ 4) && decide (x.lifecycle.toNat ≤ l.toNat) && (l == 2 || x.lifecycle != 1)

/-- The transitions that wait for a boundary or for a zeroization lead to legal modes. -/
def SecSt.waitingOk (x : SecSt) : Bool :=
  x.pLifecycle.all (fun l => x.mayBecome l) && x.pDebug.all (fun d => d == 0 || (d == 1 && x.lifecycle != 1))
    && x.pPower.all (fun p => decide (p.toNat ≤ 2))
    && x.zero.all (fun z => (!z.debugOpen || x.lifecycle != 1) && z.lifecycle.all (fun l => l == 4 && x.lifecycle != 1))

/-- The invariant of the security core's modes. -/
def State.modesLegal (s : State) : Bool := s.sec.modesOk && s.sec.waitingOk

/-! ## Memories (01 R444, 12 R314) -/

/-- The Quay of both halves, the Hold and the mailbox slots are in canonical form. -/
def State.memOk (s : State) : Bool := s.quayE.wf && s.quayW.wf && s.hold.wf && s.mbox.slots.wf

/-! ## A UCI command that is served (12 R324 to R330) -/

/-- Firmware takes the message, and no cause that every command has refuses it: its header is well formed (R326), its sender may issue it
(R327), and the part accepts the command in its present state (15 R396, 14 R378, R379). -/
def State.served (s : State) (u : Uci) (c : CmdInfo) : Bool := s.takes u && (s.gate u c).all (fun e => !e.2)

/-- The state with the command's slot released (R324). -/
def State.taken (s : State) (u : Uci) : State := s.modChan u.ch.val (fun x => { x with full := false })

/-- State `t` with the reply of a command that state `s` accepted: its status, EFFECT and body; with `wait`, the reply waits (R324,
R331). -/
def State.answered (s t : State) (u : Uci) (code : Nat) (effect : Option TideNo := none) (body : List Byte := [])
    (wait : Option Await := none) (status : Nat := 0) : State :=
  t.replyTo u code { st := t, status := status, effect := effect, body := body, wait := wait } s.now

/-- State `t` with a refusal of a command that state `s` took: the status alone (R326, R328). -/
def State.refused (s t : State) (u : Uci) (code status : Nat) : State := s.answered t u code (status := status)

/-! ## Additions into a window (04 R88, R89) -/

/-- What is added into a window: a contribution element's value, or a partial window. -/
inductive WindowAdd where
  | place (v : Val)
  | combine (p : Window)

/-- The window after an addition. -/
def WindowAdd.into (cexp : Int) (w : Window) : WindowAdd → Window
  | .place v => w.place v cexp
  | .combine p => w.combine p

/-- The integer that an addition adds, in units of 2^(C - 48), which depends on its own input alone. -/
def WindowAdd.units (cexp : Int) : WindowAdd → Int
  | .place v =>
    if v.special || (v.mag != 0 && decide (cexp + 48 < Int.ofNat (bitLen v.mag) + v.e)) then 0
    else
      let k := Int.ofNat (roundMag v.mag v.e (cexp - 48) 3 0)
      if v.neg then -k else k
  | .combine p => p.trueValue

/-- Does an addition set SPEC? -/
def WindowAdd.setsSpec : WindowAdd → Bool
  | .place v => v.special
  | .combine p => p.spec

/-- Does an addition set OVFN (`neg`), or OVFP? -/
def WindowAdd.setsOver (cexp : Int) (neg : Bool) : WindowAdd → Bool
  | .place v => !v.special && v.mag != 0 && decide (cexp + 48 < Int.ofNat (bitLen v.mag) + v.e) && v.neg == neg
  | .combine p => if neg then p.ovfn else p.ovfp

/-- The precision of a format (03 Table 3-1). -/
def Fmt.precision (c : Fmt) : Nat := if c.isInt then bitLen c.maxSig else c.mbits + 1

/-! ## The UCI commands (12 Tables 12-12 to 12-21) -/

end Sys2Proof.Machine

namespace Sys2Proof

open Sys2Proof.Machine

/-- The header of a UCI command's message, with its code, the length of its body, and who may send it when (12 R327, 15 R396, 14 R378,
R379); a row that is no UCI command has none. -/
def Instr.uciLaw : Instr → Option (Uci × CmdInfo)
  | .version u => some (u, { code := 0x0101, len := 0, sender := .any, window := true, anchor := true, rom := true })
  | .jobOwner u _ _ => some (u, { code := 0x0102, len := 4, window := true })
  | .tideConfig u _ _ _ _ _ => some (u, { code := 0x0103, len := 16, window := true })
  | .tideAsym u _ _ => some (u, { code := 0x0104, len := 4, window := true })
  | .tideRelock u => some (u, { code := 0x0105, len := 0 })
  | .berthMode u _ _ _ _ _ => some (u, { code := 0x0106, len := 16, window := true })
  | .poolSetup u _ _ _ _ => some (u, { code := 0x0107, len := 1456, window := true })
  | .laneState u _ _ _ => some (u, { code := 0x0108, len := 8, window := true })
  | .laneLoop u _ _ _ => some (u, { code := 0x0109, len := 4, window := true })
  | .hostRing u _ _ _ _ _ _ _ _ => some (u, { code := 0x010A, len := 56, sender := .func })
  | .reset u scope => some (u, { code := 0x010B, len := 4, window := true, anchor := scope == 3 })
  | .fwBegin u _ => some (u, { code := 0x010C, len := 4, window := true, anchor := true, rom := true })
  | .fwData u _ len _ => some (u, { code := 0x010D, len := 8 + word4 len.toNat, window := true, anchor := true, rom := true })
  | .fwCommit u _ => some (u, { code := 0x010E, len := 0, window := true, anchor := true, rom := true })
  | .fwSvnRaise u _ => some (u, { code := 0x010F, len := 4, window := true, anchor := true })
  | .chartWrite u _ _ _ entries => some (u, { code := 0x0201, len := 8 + word4 entries.length, window := true })
  | .chartArm u _ => some (u, { code := 0x0202, len := 8, doze := false })
  | .chartRead u _ _ _ _ => some (u, { code := 0x0203, len := 8, window := true })
  | .discoveryReport u => some (u, { code := 0x0204, len := 0, window := true })
  | .lift u _ _ => some (u, { code := 0x0205, len := 4, window := true })
  | .tmWrite u _ _ _ _ entries => some (u, { code := 0x0206, len := 8 + word4 entries.length, window := true })
  | .tmArm u _ => some (u, { code := 0x0207, len := 4, doze := false })
  | .streamCreate u _ _ => some (u, { code := 0x0301, len := 128, sender := .owner, job := true })
  | .streamArm u _ _ => some (u, { code := 0x0302, len := 8, sender := .owner, job := true, doze := false })
  | .streamAbort u _ => some (u, { code := 0x0303, len := 4, sender := .owner, job := true })
  | .streamCommit u _ => some (u, { code := 0x0304, len := 4, sender := .owner, job := true })
  | .streamTeardown u _ => some (u, { code := 0x0305, len := 4, sender := .owner, job := true })
  | .streamStatus u _ => some (u, { code := 0x0306, len := 4, sender := .owner, job := true })
  | .streamPin u _ _ => some (u, { code := 0x0307, len := 8, sender := .owner, job := true })
  | .collDefine u _ _ _ => some (u, { code := 0x0401, len := 12, sender := .owner, job := true })
  | .collArm u _ _ => some (u, { code := 0x0402, len := 16, sender := .owner, job := true, doze := false })
  | .collStatus u _ => some (u, { code := 0x0403, len := 4, sender := .owner, job := true })
  | .collTeardown u _ => some (u, { code := 0x0404, len := 4, sender := .owner, job := true })
  | .reshard u _ _ _ _ => some (u, { code := 0x0405, len := 20, sender := .owner, job := true })
  | .holdAlloc u _ _ _ => some (u, { code := 0x0501, len := 12, job := true })
  | .holdFree u _ _ _ => some (u, { code := 0x0502, len := 12, job := true })
  | .quayAlloc u _ _ _ => some (u, { code := 0x0503, len := 24, job := true })
  | .seedSet u _ => some (u, { code := 0x0504, len := 8, sender := .owner, job := true })
  | .stepSet u _ => some (u, { code := 0x0505, len := 8, sender := .owner, job := true })
  | .shardDefine u _ _ _ => some (u, { code := 0x0506, len := 72, sender := .owner, job := true })
  | .versionClose u _ => some (u, { code := 0x0507, len := 8, sender := .owner, job := true })
  | .prefetch u _ _ ranges => some (u, { code := 0x0508, len := 16 + 12 * ranges.length, sender := .owner, job := true, doze := false })
  | .holdWrite u _ len _ => some (u, { code := 0x0509, len := 16 + word4 len.toNat, sender := .owner, job := true, doze := false })
  | .holdRead u _ _ => some (u, { code := 0x050A, len := 12, sender := .owner, job := true, doze := false })
  | .quayWrite u _ len _ => some (u, { code := 0x050B, len := 16 + word4 len.toNat, sender := .owner, job := true, doze := false })
  | .quayRead u _ _ => some (u, { code := 0x050C, len := 12, sender := .owner, job := true, doze := false })
  | .versionSeed u _ _ _ _ _ => some (u, { code := 0x050D, len := 24, sender := .owner, job := true })
  | .recipeLoad u _ _ _ len _ => some (u, { code := 0x0601, len := 16 + word4 len.toNat, sender := .owner, job := true, doze := false })
  | .recipeParam u _ _ => some (u, { code := 0x0602, len := 260, sender := .owner, job := true })
  | .recipeStatus u _ => some (u, { code := 0x0603, len := 4, sender := .owner, job := true })
  | .recipeUnload u _ => some (u, { code := 0x0604, len := 4, sender := .owner, job := true })
  | .faultRead u _ => some (u, { code := 0x0701, len := 4, window := true, anchor := true })
  | .faultConfig u _ _ _ => some (u, { code := 0x0702, len := 8, window := true })
  | .safeExit u _ _ => some (u, { code := 0x0703, len := 8 })
  | .fence u _ _ _ => some (u, { code := 0x0704, len := 8 })
  | .spare u _ _ _ _ _ _ => some (u, { code := 0x0705, len := 8 })
  | .engineMap u _ _ _ => some (u, { code := 0x0706, len := 4 })
  | .repairLog u _ => some (u, { code := 0x0707, len := 4, window := true, anchor := true })
  | .tileRead u _ _ _ _ => some (u, { code := 0x0708, len := 8, doze := false })
  | .tileWrite u _ _ _ count _ => some (u, { code := 0x0709, len := 8 + 16 * count.toNat, doze := false })
  | .palletDiag u _ _ _ => some (u, { code := 0x070A, len := 12, window := true })
  | .palletAudit u _ => some (u, { code := 0x070B, len := 4 })
  | .powerSet u _ => some (u, { code := 0x0801, len := 4, sender := .privSec, window := true, anchor := true })
  | .debugChallenge u => some (u, { code := 0x0802, len := 0, sender := .privSec, window := true, anchor := true })
  | .debugOpen u _ _ => some (u, { code := 0x0803, len := 100, sender := .privSec, window := true, anchor := true })
  | .debugClose u => some (u, { code := 0x0804, len := 0, sender := .privSec, window := true, anchor := true })
  | .lifecycleSet u _ _ => some (u, { code := 0x0805, len := 100, sender := .privSec, window := true, anchor := true })
  | .zeroize u scope => some (u, { code := 0x0806, len := 4, sender := .privSec, job := scope == 0, window := true })
  | .mastership u => some (u, { code := 0x0807, len := 0, sender := .privSec, window := true, anchor := true })
  | .countersRead u set _ _ => some (u, { code := 0x0901, len := 8, sender := if set.toNat = 4 then .owner else .priv, job := set.toNat == 4, window := true })
  | .tastingSet u _ _ => some (u, { code := 0x0902, len := 8, sender := .owner, job := true })
  | .noiseSet u _ _ _ => some (u, { code := 0x0903, len := 12, sender := .owner, job := true })
  | .stepReport u _ _ => some (u, { code := 0x0904, len := 8, sender := .owner, job := true })
  | .mirrorSet u _ _ _ _ _ _ _ _ _ => some (u, { code := 0x0905, len := 16 })
  | .samplerCreate u _ _ whole _ _ _ => some (u, { code := 0x0A01, len := 56, sender := if whole == 1 then .priv else .owner, job := true })
  | .samplerGen u _ => some (u, { code := 0x0A02, len := 64, sender := .owner, job := true })
  | .samplerCheck u _ _ _ _ _ _ _ _ => some (u, { code := 0x0A03, len := 28, sender := .owner, job := true })
  | .samplerGolden u _ _ _ _ _ _ _ => some (u, { code := 0x0A04, len := 152, sender := .owner, job := true })
  | .samplerStart u _ _ => some (u, { code := 0x0A05, len := 16, sender := .owner, job := true })
  | .samplerStop u _ => some (u, { code := 0x0A06, len := 4, sender := .owner, job := true })
  | .samplerStatus u _ => some (u, { code := 0x0A07, len := 4, sender := .owner, job := true })
  | .samplerDestroy u _ => some (u, { code := 0x0A08, len := 4, sender := .owner, job := true })
  | _ => none

end Sys2Proof
end

