-- ==== Sys2Proof/Machine/Messages.lean ====
section
/-! DEFINITION. The bytes of a UCI request (12 R323, Tables 12-8, 12-10 to 12-20; 17 Tables 17-1, 17-4; 00 R5): where the fields of each
command stand in its body. -/

namespace Sys2Proof.Machine

/-- A field of one byte, or of two, four or eight, little-endian, at an offset. -/
def f1 (off : Nat) (x : Byte) : Nat × List Byte := (off, [x])
def f2 (off : Nat) (x : U16) : Nat × List Byte := (off, leBytes 2 x.toNat)
def f4 (off : Nat) (x : U32) : Nat × List Byte := (off, leBytes 4 x.toNat)
def f8 (off : Nat) (x : U64) : Nat × List Byte := (off, leBytes 8 x.toNat)

/-- A bit vector of n bytes at an offset. -/
def fN (n : Nat) {w : Nat} (off : Nat) (x : BitVec w) : Nat × List Byte := (off, leBytes n x.toNat)

/-- The Manifest bytes 0x04 to 0x67, the last that is not reserved (05 Table 5-1), at an offset. -/
def fManifest (off : Nat) (m : ManifestCfg) : Nat × List Byte := (off, m.bytes.take 100)

/-- The RW fields of a shard record (07 Table 7-2) at an offset. -/
def shardFields (off : Nat) (r : ShardCfg) : List (Nat × List Byte) :=
  [f4 off r.ctl, f4 (off + 0x04) r.fmts, f4 (off + 0x08) r.tensor, f4 (off + 0x0C) r.grad, f4 (off + 0x10) r.chunks, f4 (off + 0x14) r.elems,
   f8 (off + 0x18) r.holdBase, f4 (off + 0x20) r.params, f4 (off + 0x24) r.exps, f4 (off + 0x3C) r.amaxSid]

/-- The fields of a SAMPLER_GEN body (17 Table 17-1). -/
def genFields (g : SamplerGenCfg) : List (Nat × List Byte) :=
  [f1 0x00 g.part, f1 0x01 g.genId, f2 0x02 g.berth, f1 0x04 g.source, f1 0x05 g.flags, f1 0x06 g.const, f1 0x07 g.errKind, f2 0x08 g.period,
   f2 0x0A g.packets, f2 0x0C g.offset, f2 0x0E g.spacing, f4 0x10 g.count, f4 0x14 g.errFirst, f4 0x18 g.errInterval, f8 0x20 g.template,
   f8 0x28 g.replayAddr, f4 0x30 g.replayLen]

/-- The fields of the body of a UCI command: each its offset and its bytes. -/
def fieldsOf : Instr → List (Nat × List Byte)
  | .jobOwner _ job owner => [f1 0 job, f1 1 owner]
  | .tideConfig _ mode trim parent backup start => [f1 0 mode, f1 1 trim, f2 2 parent, f2 4 backup, f8 8 start]
  | .tideAsym _ berth asym => [f2 0 berth, f2 2 asym]
  | .berthMode _ lsx mode et own peer => [f1 0 lsx, f1 1 mode, f2 2 et, fN 6 4 own, fN 6 0x0A peer]
  | .poolSetup _ half mode salt pages => [f1 0 half, f1 1 mode, f8 8 salt, (0x10, pages.flatMap (fun p => leBytes 8 p.toNat))]
  | .laneState _ target state delay => [f2 0 target, f1 2 state, f4 4 delay]
  | .laneLoop _ berth loop pattern => [f2 0 berth, f1 2 loop, f1 3 pattern]
  | .hostRing _ log2 enable tb tp tc rb rp rc =>
    [f1 0 log2, f1 1 enable, f8 0x08 tb, f8 0x10 tp, f8 0x18 tc, f8 0x20 rb, f8 0x28 rp, f8 0x30 rc]
  | .reset _ scope => [f1 0 scope]
  | .fwBegin _ size => [f4 0 size]
  | .fwData _ offset len data => [f4 0 offset, f2 4 len, (8, data)]
  | .fwSvnRaise _ svn => [f4 0 svn]
  | .chartWrite _ section_ index count entries => [f1 0 section_, f2 2 index, f2 4 count, (8, entries)]
  | .chartArm _ t => [f8 0 t]
  | .chartRead _ slot section_ index count => [f1 0 slot, f1 1 section_, f2 2 index, f2 4 count]
  | .lift _ kind index => [f1 0 kind, f2 2 index]
  | .tmWrite _ section_ half index count entries => [f1 0 section_, f1 1 half, f2 2 index, f2 4 count, (8, entries)]
  | .tmArm _ half => [f1 0 half]
  | .streamCreate _ sid m => [f4 0 sid, fManifest 4 m]
  | .streamArm _ sid cOut => [f4 0 sid, f2 4 cOut]
  | .streamAbort _ sid => [f4 0 sid]
  | .streamCommit _ sid => [f4 0 sid]
  | .streamTeardown _ sid => [f4 0 sid]
  | .streamStatus _ sid => [f4 0 sid]
  | .streamPin _ sid pin => [f4 0 sid, f1 4 pin]
  | .collDefine _ cid ctl sids => [f2 0 cid, f4 4 ctl, f4 8 sids]
  | .collArm _ cid t => [f2 0 cid, f8 8 t]
  | .collStatus _ cid => [f2 0 cid]
  | .collTeardown _ cid => [f2 0 cid]
  | .reshard _ cid round table entries => [f2 0 cid, f4 4 round, f8 8 table, f4 0x10 entries]
  | .holdAlloc _ stack first count => [f1 0 stack, f4 4 first, f4 8 count]
  | .holdFree _ stack first count => [f1 0 stack, f4 4 first, f4 8 count]
  | .quayAlloc _ half base size => [f1 0 half, f8 8 base, f8 0x10 size]
  | .seedSet _ seed => [f8 0 seed]
  | .stepSet _ step => [f8 0 step]
  | .shardDefine _ index half r => f4 0 index :: f1 4 half :: shardFields 8 r
  | .versionClose _ version => [f8 0 version]
  | .prefetch _ version group ranges =>
    [f8 0 version, f2 8 group, f2 0x0A (BitVec.ofNat 16 ranges.length), (0x10, ranges.flatMap (fun r => leBytes 4 r.1.toNat ++ leBytes 4 r.2.1.toNat ++ leBytes 4 r.2.2.toNat))]
  | .holdWrite _ addr len data => [f8 0 addr, f4 8 len, (0x10, data)]
  | .quayWrite _ addr len data => [f8 0 addr, f4 8 len, (0x10, data)]
  | .holdRead _ addr len => [f8 0 addr, f4 8 len]
  | .quayRead _ addr len => [f8 0 addr, f4 8 len]
  | .versionSeed _ index half version cCopy amax => [f4 0 index, f1 4 half, f8 8 version, f2 0x10 cCopy, f4 0x14 amax]
  | .recipeLoad _ image last offset len data => [f2 0 image, f1 2 last, f4 4 offset, f2 8 len, (0x10, data)]
  | .recipeParam _ block scalars => [f1 0 block, (4, scalars.flatMap (fun x => leBytes 4 x.toNat))]
  | .recipeStatus _ shard => [f4 0 shard]
  | .recipeUnload _ image => [f2 0 image]
  | .faultRead _ first => [f2 0 first]
  | .faultConfig _ source n wLog2 => [f2 0 source, f2 2 n, f1 4 wLog2]
  | .safeExit _ scope maskIndex => [f1 0 scope, f2 4 maskIndex]
  | .fence _ kind index enable => [f1 0 kind, f2 2 index, f1 4 enable]
  | .spare _ kind berth lane spareIdx engine tile =>
    f1 0 kind :: (if kind = 0 then [f2 2 berth, f1 4 lane, f1 5 spareIdx] else [f1 2 engine, f1 3 tile])
  | .engineMap _ half logical physical => [f1 0 half, f1 1 logical, f1 2 physical]
  | .repairLog _ first => [f2 0 first]
  | .tileRead _ engine tile first count => [f1 0 engine, f1 1 tile, f2 2 first, f2 4 count]
  | .tileWrite _ engine tile first count images =>
    [f1 0 engine, f1 1 tile, f2 2 first, f2 4 count, (8, images.flatMap (fun x => leBytes 16 x.toNat))]
  | .palletDiag _ half first count => [f1 0 half, f4 4 first, f2 8 count]
  | .palletAudit _ half => [f1 0 half]
  | .powerSet _ state => [f1 0 state]
  | .debugOpen _ target signature => [f1 0 target, fN 96 4 signature]
  | .lifecycleSet _ target signature => [f1 0 target, fN 96 4 signature]
  | .zeroize _ scope => [f1 0 scope]
  | .countersRead _ set first count => [f1 0 set, f2 2 first, f2 4 count]
  | .tastingSet _ k threshold => [f1 0 k, f4 4 threshold]
  | .noiseSet _ sid j key => [f4 0 sid, f1 4 j, f4 8 key]
  | .stepReport _ kind index => [f1 0 kind, f4 4 index]
  | .mirrorSet _ half session source dir vc analysis key flow job =>
    [f1 0 half, f1 1 session, f1 2 source, f1 3 dir, f1 4 vc, f2 6 analysis, f4 8 key, f2 0x0C flow, f1 0x0E job]
  | .samplerCreate _ part persona whole addr berths engines =>
    [f1 0 part, f1 1 persona, f1 2 whole, f4 4 addr, fN 33 8 berths, f8 0x30 engines]
  | .samplerGen _ g => genFields g
  | .samplerCheck _ part berth trigger pre post mode ring entries =>
    [f1 0 part, f2 2 berth, f2 4 trigger, f1 6 pre, f2 7 post, f1 0x0A mode, f8 0x10 ring, f4 0x18 entries]
  | .samplerGolden _ part ack sid gen table out m => [f1 0 part, f1 1 ack, f4 4 sid, f1 8 gen, f8 0x0C table, f8 0x14 out, fManifest 0x1C m]
  | .samplerStart _ part t => [f1 0 part, f8 8 t]
  | .samplerStop _ part => [f1 0 part]
  | .samplerStatus _ part => [f1 0 part]
  | .samplerDestroy _ part => [f1 0 part]
  | _ => []

/-- The fields of a request's header (12 Table 12-8); STATUS, PART, ACCEPT and EFFECT are 0 in a request, like the reserved bytes. -/
def headerFields (u : Uci) (code : Nat) : List (Nat × List Byte) :=
  [f2 0 (BitVec.ofNat 16 code), f1 2 u.hdrVer, f1 3 u.flags, f4 4 u.tag, f2 8 u.bodyLen, f1 0x0C u.job]

/-- Do a message's bytes spell a request: as long as LEN says, with every field that lies in it at its offset, and `rsv` telling whether any
other byte is nonzero? -/
def spells (u : Uci) (code : Nat) (body : List (Nat × List Byte)) : Bool :=
  let fs := headerFields u code ++ body.map (fun f => (32 + f.1, f.2))
  let agrees := fun (f : Nat × List Byte) =>
    let there := (u.bytes.drop f.1).take f.2.length
    there == f.2.take there.length
  let other := fun (i : Nat) => fs.all (fun f => decide (i < f.1 ∨ f.1 + f.2.length ≤ i))
  u.bytes.length == u.len.toNat && fs.all agrees && u.rsv == u.bytes.zipIdx.any (fun b => b.1 != 0 && other b.2)

end Sys2Proof.Machine
end

