-- ==== Sys2Proof/WellFormed.lean ====
section
/-! DEFINITION. Which terms of `Instr` a wire, a bus or an event can give: the lengths and ranges that no type fixes. The meanings do
not need it (each is total); it says what the commands stand for. -/

namespace Sys2Proof

/-- A core cycle within a tide: at most 7,999, in a relock tide (02 R445). -/
def cycleOk (cyc : Nat) : Bool := decide (cyc < 8000)

/-- A codeword carries 640 payload bytes (11 R284). -/
def Codeword.wf (c : Codeword) : Bool :=
  match c.word with
  | some w => w.2.length == 640
  | none => true

def Round.wf (r : Round) : Bool := r.l0.wf && r.l1.wf && r.l2.wf && r.l3.wf

/-- Bytes that lie inside the 4 KiB slot of a channel (12 R314). -/
def slotRangeOk (offset n : Nat) : Bool := decide (1 ≤ n ∧ offset + n ≤ 4096)

/-- Do the 64 payload bytes of a control cell spell the body that the command has (08 Tables 8-6, 8-7)? -/
def Ctrl.spells (c : Ctrl) (b : Machine.CtrlBody) : Bool := c.bytes.length == 64 && Machine.CtrlBody.ofBytes c.bytes == some b

/-- Is the command's own part one that can be sent? -/
def Instr.ownWf : Instr → Bool
  | .alignTx _ cyc _ => cycleOk cyc
  | .align _ _ cyc _ _ => cycleOk cyc
  | .tideNowLoRead _ cyc => cycleOk cyc
  | .contributionCell _ _ _ cyc _ => cycleOk cyc
  | .treeCombine _ _ _ _ _ cyc _ => cycleOk cyc
  | .outputConversion _ _ cyc _ => cycleOk cyc
  | .drain _ _ _ cyc => cycleOk cyc
  | .spill _ _ _ _ cyc _ => cycleOk cyc
  | .recipeOperation _ _ _ _ _ cyc _ => cycleOk cyc
  | .mark _ _ _ _ cyc _ => cycleOk cyc
  | .tideInEdge _ low high => decide (1 ≤ low ∧ 1 ≤ high)
  | .streamStart c sid gen => c.spells (.streamStart sid gen)
  | .streamAbortCell c sid gen f st => c.spells (.streamAbort sid gen f st)
  | .poison c sid gen f => c.spells (.poison sid gen f)
  | .resultAck c sid gen k n => c.spells (.resultAck sid gen k n)
  | .resendReq c sid gen k o sg _ => c.spells (.resendReq sid gen k o sg)
  | .gatherReq c t f n v d m => c.spells (.gatherReq t f n v d m)
  | .reshardEnd c r => c.spells (.reshardEnd r)
  | .throttle c m l d => c.spells (.throttle m l d)
  | .packetArrival _ _ _ head => head.length == 64
  | .packetReceivedWhole _ _ rest _ => rest.length % 64 == 0
  | .credit _ _ grants _ => grants.length == 8
  | .roundRx _ r => r.wf
  | .hostSlotFetch _ slot _ => decide (64 ≤ slot.length ∧ slot.length ≤ 4352)
  | .mailboxSlotWrite _ _ offset data => slotRangeOk offset.toNat data.length
  | .poolSetup _ _ _ _ pages => pages.length == 180
  | .recipeParam _ _ scalars => scalars.length == 64
  | .laneBringUp feeds => feeds.length == 16
  | .goldenCompare _ _ payload => payload.length % 64 == 0
  | _ => true

/-- Do the bytes of a UCI command's message spell the command (12 R323)? Every other command has none. -/
def Instr.spelled (i : Instr) : Bool :=
  match i.uciLaw with
  | some (u, c) => Machine.spells u c.code (Machine.fieldsOf i)
  | none => true

/-- Is a command one that can be sent? -/
def Instr.wf (i : Instr) : Bool := i.ownWf && i.spelled

end Sys2Proof
end

