-- ==== Sys2Proof/Certificates/Slice0/Obligations.lean ====
section
/-! DEFINITION. The statements for the provers: what each command does where it takes effect, and the rules that hold of the block. -/

open Sys2Proof Sys2Proof.Machine

/-- A step runs the command at the front of the queue (12 R330, 12 R324). Log entry 3. -/
def Obligations.StepRunsTheFrontCommand : Prop :=
  ∀ (c : Instr) (rest : List Instr) (s : State),
    step { s with pending := c :: rest } = exec c { s with pending := rest }

/-- A step with no command waiting changes nothing (DESIGN CHOICE, log entry 5) (12 R330). Log entry 5. -/
def Obligations.EmptyQueueIdles : Prop :=
  ∀ (s : State), s.pending = [] → step s = .next s

/-- Every command answers a next state in every state (12 R324, 12 R326, 12 R328, 95 What each step holds). Log entry 4. -/
def Obligations.EveryCommandCompletes : Prop :=
  ∀ (i : Instr) (s : State), ∃ t : State, exec i s = .next t

/-- What reset leaves, as far as the manual states it (15 R388, 15 R389, 12 R322, 13 R350, 05 R119). Log entries 1, 2. -/
def Obligations.ResetLeavesTheStatedValues : Prop :=
  State.reset.boot.safeN = true ∧ State.reset.fault.faultN = false ∧ State.reset.boot.resetN = false ∧ State.reset.boot.rails = 5 ∧
  State.reset.boot.stage = 0 ∧ State.reset.east.started = false ∧ State.reset.west.started = false ∧
  State.reset.tide.counting = false ∧ State.reset.tide.running = false ∧ State.reset.mbox.opened = false ∧
  State.reset.mbox.locked = false ∧ State.reset.mbox.uciReady = false ∧ State.reset.fault.recs = [] ∧ State.reset.anySafe = false ∧
  (∀ n, (State.reset.stream n).state = .free) ∧ State.reset.shards = [] ∧ State.reset.colls = [] ∧ State.reset.parts = [] ∧
  State.reset.gathers = [] ∧ (∀ b, (State.reset.berth b).up = false) ∧ State.reset.quayE = [] ∧ State.reset.quayW = [] ∧
  State.reset.pending = []

/-- The modes are legal and the memories canonical at reset (14 R366, 14 R368, 14 R378). Log entry 2. -/
def Obligations.ResetIsLegal : Prop :=
  State.reset.modesLegal = true ∧ State.reset.memOk = true

/-- Every step keeps the lifecycle, debug and power states legal (14 R366, 14 R368, 14 R369, 14 R378, 14 R380). -/
def Obligations.EveryStepKeepsTheModesLegal : Prop :=
  ∀ (s t : State), s.modesLegal = true → step s = .next t → t.modesLegal = true

/-- No command, reset or debug state moves the lifecycle backwards (14 R366). -/
def Obligations.LifecycleNeverMovesBackwards : Prop :=
  ∀ (s t : State), s.modesLegal = true → step s = .next t → s.sec.lifecycle.toNat ≤ t.sec.lifecycle.toNat

/-- When the debug state changes by itself, and when it may not (R368). -/
def Obligations.DebugFollowsResetsAndLifecycle : Prop :=
  (∀ (s : State), s.packageReset.sec.dbg = if s.sec.lifecycle = 1 then 2 else 0) ∧
  (∀ (s : State), s.boot.rails ≠ 0 →
    ∃ t : State, exec .powerOff s = .next t ∧ t.sec.dbg = if s.sec.lifecycle = 1 then 2 else 0) ∧
  (∀ (hmA hmB : Bool) (s : State), s.boot.resetN = false → s.boot.rails = 5 → (hmA || hmB) = true →
    ∃ t : State, exec (.bootRom true true true hmA hmB) s = .next t ∧ t.sec.dbg = if s.sec.lifecycle = 1 then 2 else 0) ∧
  (∀ (h : Half) (s : State), (s.resetStops h).sec.dbg = s.sec.dbg ∧ (s.resetHalf h).sec.dbg = s.sec.dbg) ∧
  (∀ (who : BitVec 4) (s : State), (s.receiverReset who).sec.dbg = s.sec.dbg) ∧
  (∀ (s : State), s.powerAt.sec.dbg = s.sec.dbg ∧ s.leaveAnchor.sec.dbg = s.sec.dbg) ∧
  (∀ (s t : State), s.modesLegal = true → step s = .next t →
    (t.sec.dbg = 2 → t.sec.lifecycle = 1) ∧ (t.sec.dbg = 1 → t.sec.lifecycle ≠ 1))

/-- A window's word is the same whatever the order of its additions (R89). -/
def Obligations.WindowOrderDoesNotMatter : Prop :=
  (∀ (cexp : Int) (w : Window) (l m : List WindowAdd), l.Perm m → l.foldl (WindowAdd.into cexp) w = m.foldl (WindowAdd.into cexp) w) ∧
  (∀ (cexp : Int) (w : Window) (l : List WindowAdd),
    -(2 ^ 104) ≤ w.trueValue + (l.map (WindowAdd.units cexp)).sum → w.trueValue + (l.map (WindowAdd.units cexp)).sum ≤ 2 ^ 104 →
    (l.foldl (WindowAdd.into cexp) w).trueValue = w.trueValue + (l.map (WindowAdd.units cexp)).sum) ∧
  (∀ (cexp : Int) (w : Window) (l : List WindowAdd),
    (l.foldl (WindowAdd.into cexp) w).spec = (w.spec || l.any WindowAdd.setsSpec) ∧
    (l.foldl (WindowAdd.into cexp) w).ovfp = (w.ovfp || l.any (WindowAdd.setsOver cexp false)) ∧
    (l.foldl (WindowAdd.into cexp) w).ovfn = (w.ovfn || l.any (WindowAdd.setsOver cexp true))) ∧
  (∀ (w x : Window), w.trueValue = x.trueValue → w.a = x.a ∧ w.wrap = x.wrap)

/-- INT8 and INT32 are read over their full range and written symmetrically (R63). -/
def Obligations.IntegerFormatsKeepTheirRange : Prop :=
  (∀ b : Nat, b < 2 ^ 8 →
    (decodeElement .int8 b).special = false ∧ (decodeElement .int8 b).e = 0 ∧ (decodeElement .int8 b).sig = (BitVec.ofNat 8 b).toInt) ∧
  (∀ b : Nat, b < 2 ^ 32 →
    (decodeElement .int32 b).special = false ∧ (decodeElement .int32 b).e = 0 ∧ (decodeElement .int32 b).sig = (BitVec.ofNat 32 b).toInt) ∧
  (∀ (mode : Nat) (neg : Bool) (qm : Nat) (qe x : Int) (r : Nat),
    (convertElement .int8 mode neg qm qe x r).1 < 2 ^ 8 ∧ (convertElement .int8 mode neg qm qe x r).1 ≠ 0x80 ∧
    (convertElement .int32 mode neg qm qe x r).1 < 2 ^ 32 ∧ (convertElement .int32 mode neg qm qe x r).1 ≠ 0x80000000) ∧
  Fmt.nan .int32 = 0x80000000

/-- The format codes and what they name (R58). -/
def Obligations.FormatCodes : Prop :=
  (∀ n : Nat, n = 0 ∨ (0xB ≤ n ∧ n ≤ 0xF) → Fmt.ofCode n = none) ∧
  ([1, 2, 3, 4, 5, 6, 7, 8, 9, 10].map (fun n => (Fmt.ofCode n).map (fun c => (c, c.width, c.wide, c.fine, c.precision)))) =
    [some (.e2m1, 4, false, true, 2), some (.e2m3, 6, false, true, 4), some (.e3m2, 6, false, true, 3), some (.e4m3, 8, false, true, 4),
     some (.e5m2, 8, false, true, 3), some (.int8, 8, false, true, 7), some (.bf16, 16, false, false, 8), some (.fp16, 16, false, false, 11),
     some (.fp32, 32, true, false, 24), some (.int32, 32, true, false, 31)]

/-- A block with no nonzero value converts to zeros with fine scale 0x00 and loses nothing (03 R78). -/
def Obligations.ZeroBlocksConvertToZero : Prop :=
  ∀ (c : Fmt) (mode sc : Nat) (ce : Int) (vs : List (Val × Nat)), c.fine = true →
    (∀ v ∈ vs, v.1.mag = 0 ∨ v.1.special = true) → (c.hasNan = true ∨ ∀ v ∈ vs, v.1.special = false) →
    (convertBlockBy c mode sc ce vs).fine = 0 ∧ (convertBlockBy c mode sc ce vs).sat = false ∧
    (∀ b ∈ (convertBlockBy c mode sc ce vs).lost, b = false) ∧
    (∀ e ∈ vs.zip (convertBlockBy c mode sc ce vs).bits, e.1.1.special = false → e.2 = 0)

/-- A malformed UCI message is answered MALFORMED without being executed (R326). -/
def Obligations.MalformedMessagesAreNotExecuted : Prop :=
  ∀ (i : Instr) (s : State) (u : Uci) (c : CmdInfo), i.uciLaw = some (u, c) → s.takes u = true →
    (u.len.toNat < 32 ∨ u.len.toNat ≠ 32 + u.bodyLen.toNat ∨ u.hdrVer ≠ 1 ∨ u.flags ≠ 0 ∨ u.rsv = true ∨ u.bodyLen.toNat ≠ c.len) →
    exec i s = .next (s.refused (s.taken u) u c.code 1)

/-- A UCI command from a sender that may not issue it is not executed (12 R327, 12 R328, 12 R326). -/
def Obligations.SendersThatMayNotAreDenied : Prop :=
  ∀ (i : Instr) (s : State) (u : Uci) (c : CmdInfo), i.uciLaw = some (u, c) → s.takes u = true → s.mayIssue u c.sender = false →
    ∃ k : Nat, (k = 1 ∨ k = 3) ∧ exec i s = .next (s.refused (s.taken u) u c.code k)

/-- In DOZE and in ANCHOR only the commands of those states are executed (14 R378, 14 R379, 12 R328). -/
def Obligations.SleepingPartsAdmitOnlyTheirCommands : Prop :=
  ∀ (i : Instr) (s : State) (u : Uci) (c : CmdInfo), i.uciLaw = some (u, c) → s.takes u = true →
    ((s.sec.power = 1 ∧ c.doze = false) ∨ (s.sec.power = 2 ∧ c.anchor = false)) →
    ∃ k : Nat, 1 ≤ k ∧ k ≤ 0xB ∧ exec i s = .next (s.refused (s.taken u) u c.code k)

/-- A UCI command whose message firmware does not take has no effect (12 R324, 12 R316). Log entries 3, 4. -/
def Obligations.MessagesNotTakenChangeNothing : Prop :=
  ∀ (i : Instr) (s : State) (u : Uci) (c : CmdInfo), i.uciLaw = some (u, c) → s.takes u = false → exec i s = .next s

/-- Bytes written to a memory read back, and every other byte is as before (01 R444, 12 R331, 14 R375). Log entry 2. -/
def Obligations.MemoryReadsWhatWasWritten : Prop :=
  (∀ (m : Mem) (a : Nat) (bs : List Byte) (c : Nat), m.wf = true →
    (m.writeBytes a bs).read c = if a ≤ c ∧ c < a + bs.length then bs.getD (c - a) 0 else m.read c) ∧
  (∀ (m : Mem) (a n c : Nat), m.wf = true → (m.zeroRange a n).read c = if a ≤ c ∧ c < a + n then 0 else m.read c) ∧
  (∀ (m k : Mem), m.wf = true → k.wf = true → (∀ a, m.read a = k.read a) → m = k)

/-- VERSION, FAULT_READ, REPAIR_LOG and DISCOVERY_REPORT answer (12 R332, 12 R339, 12 R334, 13 R349). The next states are those of
the model, whose choices here are log entries 3, 14. -/
def Obligations.SystemQueriesComplete : Prop :=
  (∀ (u : Uci) (s : State), s.served u { code := 0x0101, len := 0, sender := .any, window := true, anchor := true, rom := true } = true →
    exec (.version u) s = .next (s.answered (s.taken u) u 0x0101 none s.versionBytes)) ∧
  (∀ (u : Uci) (first : U16) (s : State), s.served u { code := 0x0701, len := 4, window := true, anchor := true } = true →
    exec (.faultRead u first) s = .next (s.answered (s.taken u) u 0x0701 none ((s.fault.recs.filter (fun r => decide (first.toNat ≤ r.seq))).flatMap Rec.bytes))) ∧
  (∀ (u : Uci) (first : U16) (s : State), s.served u { code := 0x0707, len := 4, window := true, anchor := true } = true →
    exec (.repairLog u first) s = .next (s.answered (s.taken u) u 0x0707 none ((s.fault.log.filter (fun e => decide (first.toNat ≤ e.seq))).flatMap RepairEntry.bytes))) ∧
  (∀ (u : Uci) (s : State), s.served u { code := 0x0204, len := 0, window := true } = true →
    exec (.discoveryReport u) s = .next (s.answered (s.taken u) u 0x0204 none ((List.range 260).flatMap (fun b => let y := s.berth b; let (sb, sa) := (y.seen.map (fun (d : DiscoverCell) => (d.berth, d.addr))).getD (0, 0); [y.outcome.setWidth 8, sb, 0, 0] ++ leBytes 4 sa.toNat))))

/-- The commands of a stream are accepted for the next boundary (12 R335, 05 R119, 05 R121, 05 R140, 05 R144, 05 R145, 05 R146, 05
R148). The next states are those of the model, whose choices here are log entries 3, 35, 40, 50, 67, 86. -/
def Obligations.StreamCommandsComplete : Prop :=
  (∀ (u : Uci) (sid : U32) (m : ManifestCfg) (s : State), s.served u { code := 0x0301, len := 128, sender := .owner, job := true } = true →
    sid.toNat < 2 ^ 20 →
    s.manifestBad m u.job.toNat = false →
    (s.stream sid.toNat).state = .free →
    m.job = u.job.toNat →
    (s.stream sid.toNat).pCreate = none →
    s.usesUnmapped m = false →
    s.sec.lifecycle ≠ 4 →
    s.streamOut m = false →
    exec (.streamCreate u sid m) s = .next (s.answered ((s.taken u).modStream sid.toNat (fun x => { x with pCreate := some m })) u 0x0301 s.nextBoundary)) ∧
  (∀ (u : Uci) (sid : U32) (cOut : U16) (s : State), s.served u { code := 0x0302, len := 8, sender := .owner, job := true, doze := false } = true →
    sid.toNat < 2 ^ 20 →
    (s.stream sid.toNat).man.any (fun m => m.job != u.job.toNat) = false →
    (s.armCauses sid.toNat (s.now + 1)).all (fun e => !e.2) = true →
    (s.stream sid.toNat).armScaleBad cOut = false →
    exec (.streamArm u sid cOut) s = .next (s.answered ((s.taken u).modStream sid.toNat (fun x => { x with pArm := some (s.now + 1, cOut) })) u 0x0302 (some (s.now + 1)))) ∧
  (∀ (u : Uci) (sid : U32) (s : State), s.served u { code := 0x0303, len := 4, sender := .owner, job := true } = true →
    sid.toNat < 2 ^ 20 →
    (s.stream sid.toNat).man.any (fun m => m.job != u.job.toNat) = false →
    (s.stream sid.toNat).state = .live →
    (s.stream sid.toNat).pAbortCmd = false →
    exec (.streamAbort u sid) s = .next (s.answered ((s.taken u).modStream sid.toNat (fun x => { x with pAbortCmd := true })) u 0x0303 s.nextBoundary)) ∧
  (∀ (u : Uci) (sid : U32) (s : State), s.served u { code := 0x0304, len := 4, sender := .owner, job := true } = true →
    sid.toNat < 2 ^ 20 →
    (s.stream sid.toNat).man.any (fun m => m.job != u.job.toNat) = false →
    (s.stream sid.toNat).state ≠ .free →
    (s.stream sid.toNat).state ≠ .fencing →
    ((s.stream sid.toNat).state = .live → (s.stream sid.toNat).pAbortCmd = true) →
    (s.stream sid.toNat).pCommit = false →
    exec (.streamCommit u sid) s = .next (s.answered ((s.taken u).modStream sid.toNat (fun x => { x with pCommit := true })) u 0x0304 s.nextBoundary)) ∧
  (∀ (u : Uci) (sid : U32) (s : State), s.served u { code := 0x0305, len := 4, sender := .owner, job := true } = true →
    sid.toNat < 2 ^ 20 →
    (s.stream sid.toNat).man.any (fun m => m.job != u.job.toNat) = false →
    (s.stream sid.toNat).state ≠ .free →
    (s.stream sid.toNat).state ≠ .fencing →
    (s.stream sid.toNat).pTeardown = false →
    exec (.streamTeardown u sid) s = .next (s.answered ((s.taken u).modStream sid.toNat (fun x => { x with pTeardown := true })) u 0x0305 s.nextBoundary)) ∧
  (∀ (u : Uci) (sid : U32) (s : State), s.served u { code := 0x0306, len := 4, sender := .owner, job := true } = true →
    sid.toNat < 2 ^ 20 →
    (s.stream sid.toNat).man.any (fun m => m.job != u.job.toNat) = false →
    exec (.streamStatus u sid) s = .next (s.answered (s.taken u) u 0x0306 none (s.statusBytes sid.toNat))) ∧
  (∀ (u : Uci) (sid : U32) (pin : Byte) (s : State), s.served u { code := 0x0307, len := 8, sender := .owner, job := true } = true →
    sid.toNat < 2 ^ 20 →
    (s.stream sid.toNat).man.any (fun m => m.job != u.job.toNat) = false →
    pin.toNat ≤ 1 →
    (s.stream sid.toNat).cfg.isSome = true →
    (pin = 0 → s.collOf sid.toNat = none) →
    (pin = 1 → s.pinsOver [sid.toNat] = false) →
    exec (.streamPin u sid pin) s = .next (s.answered ((s.taken u).pin sid.toNat (pin == 1)) u 0x0307))

/-- The commands of a collective are accepted (12 R336, 06 R151, 06 R152, 06 R153, 06 R165). The next states are those of the model,
whose choices here are log entries 3, 5, 26, 35, 41, 67. -/
def Obligations.CollectiveCommandsComplete : Prop :=
  (∀ (u : Uci) (cid : U16) (ctl sids : U32) (r : CollSt) (s : State), r = { ctl := ctlRw ctl, gen := BitVec.ofNat 8 (bitsOf sids.toNat 20 8), sidB := BitVec.ofNat 20 sids.toNat, state := 1, job := u.job.toNat } →
    s.served u { code := 0x0401, len := 12, sender := .owner, job := true } = true →
    cid.toNat < 4096 →
    (s.coll cid.toNat).state = 0 →
    sids.toNat < 2 ^ 28 →
    1 ≤ r.kind →
    r.kind ≤ 10 →
    (r.pair = false → r.sidB = 0) →
    (r.pair = true → kindReduces r.kind = true ∧ r.sidA ≠ r.sidB.toNat) →
    (∀ a b : ManifestCfg, r.pair = true → r.sids.filterMap (fun i => s.mfst i) = [a, b] → a.upAddr = b.downAddr ∧ a.downAddr = b.upAddr) →
    s.pinsOver r.sids = false →
    (r.sids.zipIdx.flatMap (fun e => s.bindCauses u.job.toNat e.1 r.kind r.axis (e.2 == 1) r.gen)).all (fun e => !e.2) = true →
    exec (.collDefine u cid ctl sids) s = .next (s.answered ((r.sids.foldl (fun (t : State) i => (t.modStream i (fun x => { x with gen := r.gen - 1 })).pin i true) (s.taken u)).modColl cid.toNat (fun _ => { r with pinned := !r.sids.isEmpty })) u 0x0401 s.nextBoundary)) ∧
  (∀ (u : Uci) (cid : U16) (t : U64) (s : State), s.served u { code := 0x0402, len := 16, sender := .owner, job := true, doze := false } = true →
    cid.toNat < 4096 →
    t.toNat < 2 ^ 48 →
    (s.coll cid.toNat).job = u.job.toNat →
    ((s.coll cid.toNat).state = 1 ∨ (s.coll cid.toNat).state = 4 ∨ (s.coll cid.toNat).state = 5) →
    (s.coll cid.toNat).kind ≠ 8 →
    (s.coll cid.toNat).teardown = false →
    (s.job u.job.toNat).fenced = false →
    4 ≤ tideSince (t.setWidth 48) s.now →
    tideSince (t.setWidth 48) s.now ≤ 65536 →
    ((s.coll cid.toNat).sids = [] → s.anySafe = false) →
    (s.armAll (t.setWidth 48) (s.coll cid.toNat).sids).1.all (fun e => !e.2) = true →
    exec (.collArm u cid t) s = .next (s.answered (((s.taken u).armAll (t.setWidth 48) (s.coll cid.toNat).sids).2.modColl cid.toNat (fun c => { c with state := 2, armT := some (t.setWidth 48) })) u 0x0402 (some (t.setWidth 48)))) ∧
  (∀ (u : Uci) (cid : U16) (s : State), s.served u { code := 0x0403, len := 4, sender := .owner, job := true } = true →
    cid.toNat < 4096 →
    ((s.coll cid.toNat).state ≠ 0 → (s.coll cid.toNat).job = u.job.toNat) →
    exec (.collStatus u cid) s = .next (s.answered (s.taken u) u 0x0403 none (s.collBytes cid.toNat))) ∧
  (∀ (u : Uci) (cid : U16) (s : State), s.served u { code := 0x0404, len := 4, sender := .owner, job := true } = true →
    cid.toNat < 4096 →
    (s.coll cid.toNat).state ≠ 0 →
    (s.coll cid.toNat).job = u.job.toNat →
    (s.coll cid.toNat).teardown = false →
    exec (.collTeardown u cid) s = .next (s.answered (((s.coll cid.toNat).sids.foldl (fun (t : State) i => t.modStream i (fun x => if x.state = .free ∨ x.state = .fencing then x else { x with pTeardown := true })) (s.taken u)).modColl cid.toNat (fun c => { c with teardown := true })) u 0x0404 s.nextBoundary)) ∧
  (∀ (u : Uci) (cid : U16) (round : U32) (table : U64) (entries : U32) (s : State), s.served u { code := 0x0405, len := 20, sender := .owner, job := true } = true →
    cid.toNat < 4096 →
    table.toNat < 2 ^ 34 →
    (s.job u.job.toNat).inQuayAt table.toNat (32 * entries.toNat) = true →
    (s.reshardTable table entries.toNat).all (fun e => !e.bad) = true →
    (s.coll cid.toNat).job = u.job.toNat →
    (s.coll cid.toNat).kind = 8 →
    ((s.coll cid.toNat).state = 1 ∨ (s.coll cid.toNat).state = 4 ∨ (s.coll cid.toNat).state = 5) →
    (s.coll cid.toNat).teardown = false →
    (s.job u.job.toNat).fenced = false →
    s.jobLive u.job.toNat = false →
    (s.job u.job.toNat).outOf (s.job u.job.toNat).step = 0 →
    (s.coll cid.toNat).reshard = none →
    s.reshardIn (s.reshardTable table entries.toNat) .east ≤ 2 ^ 32 →
    s.reshardIn (s.reshardTable table entries.toNat) .west ≤ 2 ^ 32 →
    s.halfOut (Half.ofNum (bitsOf table.toNat 33 1)) = false →
    exec (.reshard u cid round table entries) s = .next (s.answered ((s.taken u).modColl cid.toNat (fun c => { c with reshard := some ⟨round, s.now + 65536, s.reshardTable table entries.toNat, Config.reshardSources cid.toNat round.toNat, [], [], false⟩ })) u 0x0405 s.nextBoundary))

/-- JOB_OWNER, TIDE_CONFIG, TIDE_ASYM and TIDE_RELOCK take effect (12 R333, 02 R57, 02 R34). The next states are those of the model,
whose choices here are log entries 3, 14. -/
def Obligations.IdentityAndOwnersComplete : Prop :=
  (∀ (u : Uci) (job owner : Byte) (s : State), s.served u { code := 0x0102, len := 4, window := true } = true →
    job.toNat < 64 →
    (owner.toNat ≤ 9 ∨ owner = 0xF) →
    s.jobLive job.toNat = false →
    s.jobUpdating job.toNat = false →
    (s.job job.toNat).granules = [] →
    exec (.jobOwner u job owner) s = .next (s.answered ((s.taken u).modJob job.toNat (fun x => { x with owner := owner.setWidth 4 })) u 0x0102)) ∧
  (∀ (u : Uci) (mode trim : Byte) (parent backup : U16) (start : U64) (s : State), s.served u { code := 0x0103, len := 16, window := true } = true →
    tideFits mode parent backup start = true →
    (s.tide.running = true → s.anyLive = false ∧ start = 0) →
    exec (.tideConfig u mode trim parent backup start) s = .next (s.answered ((s.taken u).modTide (fun x => if s.tide.running then { x with pCfg := some ⟨mode.setWidth 3, trim, parent, backup, start.setWidth 48⟩ } else { x with cfg := ⟨mode.setWidth 3, trim, parent, backup, start.setWidth 48⟩, pCfg := none })) u 0x0103 s.nextBoundary)) ∧
  (∀ (u : Uci) (berth asym : U16) (s : State), s.served u { code := 0x0104, len := 4, window := true } = true →
    berth.toNat < 260 →
    exec (.tideAsym u berth asym) s = .next (s.answered ((s.taken u).modTide (fun x => if s.tide.running then { x with pAsym := Tab.set x.pAsym berth.toNat asym } else { x with asym := Tab.set x.asym berth.toNat asym })) u 0x0104 s.nextBoundary)) ∧
  (∀ (u : Uci) (s : State), s.served u { code := 0x0105, len := 0 } = true →
    s.anyLive = false →
    s.tide.cfg.mode = modeFollow →
    s.tide.running = true →
    exec (.tideRelock u) s = .next (s.answered ((s.taken u).modTide (fun x => { x with relock := true })) u 0x0105))

/-- BERTH_MODE, POOL_SETUP, LANE_STATE, LANE_LOOP and HOST_RING take effect (12 R333, 11 R299, 11 R310, 15 R396, 15 R403). The next
states are those of the model, whose choices here are log entries 3, 35, 36, 77, 105. -/
def Obligations.BerthAndRingCommandsComplete : Prop :=
  (∀ (u : Uci) (lsx mode : Byte) (etherType : U16) (ownMac peerMac : BitVec 48) (s : State), s.served u { code := 0x0106, len := 16, window := true } = true →
    lsx.toNat < 4 →
    mode.toNat < 2 →
    (s.tide.running = true → (s.half (berthHalf (256 + lsx.toNat % 4))).restart ≠ 0) →
    exec (.berthMode u lsx mode etherType ownMac peerMac) s = .next (s.answered (((if (s.berth (256 + lsx.toNat % 4)).eth != (mode == 1) then (s.taken u).berthDown (256 + lsx.toNat % 4) else s.taken u).modBerth (256 + lsx.toNat % 4) (fun y => { y with eth := mode == 1, etherType := etherType, ownMac := ownMac, peerMac := peerMac })).ethUp (256 + lsx.toNat % 4)) u 0x0106)) ∧
  (∀ (u : Uci) (half mode : Byte) (salt : U64) (pages : List U64) (s : State), s.served u { code := 0x0107, len := 1456, window := true } = true →
    half.toNat < 2 →
    mode.toNat < 2 →
    pages.length = 180 →
    pages.any pageBad = false →
    ((s.half (Half.ofNum half.toNat)).started = true ∨ (s.half (Half.ofNum half.toNat)).restart ≠ 0) →
    pages.any (s.pageTaken (Half.ofNum half.toNat)) = false →
    (s.tide.running = true → (s.half (Half.ofNum half.toNat)).restart ≠ 0) →
    exec (.poolSetup u half mode salt pages) s = .next (s.answered (if s.boot.stage = 12 then ((s.taken u).modHalf (Half.ofNum half.toNat) (fun x => { x with pool := { x.pool with p6 := mode == 1, salt := salt, pages := pages } })).buildPool (Half.ofNum half.toNat) else (s.taken u).modHalf (Half.ofNum half.toNat) (fun x => { x with pool := { x.pool with p6 := mode == 1, salt := salt, pages := pages } })) u 0x0107)) ∧
  (∀ (u : Uci) (target : U16) (state : Byte) (dozeDelay : U32) (s : State), s.served u { code := 0x0108, len := 8, window := true } = true →
    laneStateOk target.toNat state.toNat dozeDelay.toNat = true →
    (state = 1 ∨ state = 2 → (laneBerths target.toNat).any (fun b => s.isParent b) = false) →
    (state = 2 → (laneBerths target.toNat).any (fun b => s.onRing b) = false) →
    (s.inWindow = true → 8 ≤ s.boot.stage.toNat) →
    (laneBerths target.toNat).any (fun b => s.halfOut (berthHalf b)) = false →
    exec (.laneState u target state dozeDelay) s = .next (s.answered (if s.tide.running then (s.taken u).modMbox (fun m => { m with pLanes := m.pLanes ++ [.state target.toNat state.toNat dozeDelay.toNat] }) else (s.taken u).setLaneState target.toNat state.toNat dozeDelay.toNat) u 0x0108 s.nextBoundary)) ∧
  (∀ (u : Uci) (berth : U16) (loop pattern : Byte) (s : State), s.served u { code := 0x0109, len := 4, window := true } = true →
    berth.toNat < 260 →
    loop.toNat < 4 →
    pattern.toNat < 2 →
    (loop = 1 ∨ loop = 2 → (s.berth berth.toNat).up = true → s.quarantined berth.toNat = true) →
    (s.inWindow = true → 8 ≤ s.boot.stage.toNat) →
    s.halfOut (berthHalf berth.toNat) = false →
    ((s.berth berth.toNat).loopKind ≠ loop.setWidth 2 ∨ (s.berth berth.toNat).loopPattern ≠ pattern) →
    exec (.laneLoop u berth loop pattern) s = .next (s.answered (if s.tide.running then (s.taken u).modMbox (fun m => { m with pLanes := m.pLanes ++ [.loop berth.toNat loop.toNat pattern.toNat] }) else (s.taken u).setLoop berth.toNat loop.toNat pattern.toNat) u 0x0109 s.nextBoundary (leBytes 8 (if loop = 0 then (s.berth berth.toNat).loopErrors else 0)))) ∧
  (∀ (u : Uci) (berth : U16) (loop pattern : Byte) (s : State), s.served u { code := 0x0109, len := 4, window := true } = true →
    berth.toNat < 260 →
    loop.toNat < 4 →
    pattern.toNat < 2 →
    (loop = 1 ∨ loop = 2 → (s.berth berth.toNat).up = true → s.quarantined berth.toNat = true) →
    (s.inWindow = true → 8 ≤ s.boot.stage.toNat) →
    s.halfOut (berthHalf berth.toNat) = false →
    (s.berth berth.toNat).loopKind = loop.setWidth 2 →
    (s.berth berth.toNat).loopPattern = pattern →
    exec (.laneLoop u berth loop pattern) s = .next (s.answered (s.taken u) u 0x0109 none (leBytes 8 (s.berth berth.toNat).loopErrors))) ∧
  (∀ (u : Uci) (log2 enable : Byte) (txBase txProd txCons rxBase rxProd rxCons : U64) (s : State), s.served u { code := 0x010A, len := 56, sender := .func } = true →
    4 ≤ log2.toNat →
    log2.toNat ≤ 12 →
    enable.toNat < 2 →
    txBase.toNat % 4096 = 0 →
    rxBase.toNat % 4096 = 0 →
    txProd.toNat % 4 = 0 →
    txCons.toNat % 4 = 0 →
    rxProd.toNat % 4 = 0 →
    rxCons.toNat % 4 = 0 →
    (s.senderOf u).toNat ∈ s.port.busMaster →
    s.halfOut .west = false →
    exec (.hostRing u log2 enable txBase txProd txCons rxBase rxProd rxCons) s = .next (s.answered ((s.taken u).modPort (fun p => { p with rings := if enable = 1 then Tab.set p.rings (s.senderOf u).toNat { log2 := log2.toNat, bases := [txBase, txProd, txCons, rxBase, rxProd, rxCons] } else Tab.erase p.rings (s.senderOf u).toNat })) u 0x010A))

/-- RESET and the firmware commands take effect (12 R333, 14 R374, 15 R402, 15 R403). The next states are those of the model, whose
choices here are log entries 3, 37, 46. -/
def Obligations.ResetAndFirmwareCommandsComplete : Prop :=
  (∀ (u : Uci) (scope : Byte) (h : Half) (s : State), s.served u { code := 0x010B, len := 4, window := true } = true →
    (scope = 1 ∨ scope = 2) →
    h = Half.ofNum (scope.toNat - 1) →
    (s.half h.other).inUse = true →
    (s.half h.other).resetAt = none →
    (s.half h).resetAt = none →
    (s.half h).inUse = true →
    exec (.reset u scope) s = .next (s.answered ((s.taken u).modHalf h (fun x => { x with resetAt := some (s.now + 1) })) u 0x010B s.nextBoundary)) ∧
  (∀ (u : Uci) (s : State), s.served u { code := 0x010B, len := 4, window := true, anchor := true } = true →
    exec (.reset u 3) s = .next (s.answered (if s.sec.power = 2 then (s.taken u).packageReset else (s.taken u).modBoot (fun b => { b with resetDue := true })) u 0x010B)) ∧
  (∀ (u : Uci) (size : U32) (s : State), s.served u { code := 0x010C, len := 4, window := true, anchor := true, rom := true } = true →
    4096 ≤ size.toNat →
    size.toNat ≤ 2 ^ 24 →
    (s.hostLoad = true → s.boot.waitHost = true) →
    (s.boot.fwSize.isSome = true → s.hostLoad = true ∧ s.boot.fwWho = (s.senderOf u).toNat) →
    exec (.fwBegin u size) s = .next (s.answered ((s.taken u).modBoot (fun b => if s.hostLoad then { b with fwSize := some size.toNat, fwNext := 0, fwBuf := [], fwWho := (s.senderOf u).toNat } else ({ b with fwSize := some size.toNat, fwNext := 0, fwBuf := [], fwWho := (s.senderOf u).toNat } : BootSt).modBank (!b.bank) (fun _ => { state := 3 }))) u 0x010C)) ∧
  (∀ (u : Uci) (offset : U32) (len : U16) (data : List Byte) (s : State), s.served u { code := 0x010D, len := 8 + word4 len.toNat, window := true, anchor := true, rom := true } = true →
    1 ≤ len.toNat →
    len.toNat ≤ 4056 →
    data.length = len.toNat →
    s.loading u = true →
    (s.hostLoad = true → s.boot.waitHost = true) →
    offset.toNat + len.toNat ≤ s.boot.fwSize.getD 0 →
    offset.toNat = s.boot.fwNext →
    exec (.fwData u offset len data) s = .next (s.answered ((s.taken u).modBoot (fun b => if s.hostLoad then { b with fwNext := offset.toNat + len.toNat, fwBuf := b.fwBuf.writeBytes offset.toNat data } else ({ b with fwNext := offset.toNat + len.toNat, fwBuf := b.fwBuf.writeBytes offset.toNat data } : BootSt).modBank (!b.bank) (fun k => { k with bytes := b.fwBuf.writeBytes offset.toNat data }))) u 0x010D)) ∧
  (∀ (u : Uci) (img : ImageInfo) (s : State), s.served u { code := 0x010E, len := 0, window := true, anchor := true, rom := true } = true →
    s.loading u = true →
    s.boot.fwSize = some s.boot.fwNext →
    s.imageOk img s.hostLoad = true →
    (s.hostLoad = true → s.boot.waitHost = true) →
    exec (.fwCommit u img) s = .next (s.answered (if s.hostLoad then ((s.taken u).modBoot (fun b => { b with fwSize := none, fwNext := 0, fwBuf := [] })).startImage img false true else (s.taken u).modBoot (fun b => { (({ b with fwSize := none, fwNext := 0, fwBuf := [] } : BootSt).modBank (!b.bank) (fun x => { x with state := 1, image := some img })) with committed := !b.bank })) u 0x010E none (bvBytes 48 img.digest))) ∧
  (∀ (u : Uci) (svn : U32) (s : State), s.served u { code := 0x010F, len := 4, window := true, anchor := true } = true →
    svn.toNat ≤ s.boot.svn →
    s.sec.minSvn.toNat ≤ svn.toNat →
    exec (.fwSvnRaise u svn) s = .next (s.answered ((s.taken u).modSec (fun x => { x with minSvn := svn })) u 0x010F))

/-- The commands of Charts and traffic management take effect (12 R334, 08 R229, 08 R230, 08 R232, 08 R234, 10 R263). The next
states are those of the model, whose choices here are log entries 3, 35, 38, 51, 67. -/
def Obligations.ChartCommandsComplete : Prop :=
  (∀ (u : Uci) (section_ : Byte) (index count : U16) (entries : List Byte) (s : State), s.served u { code := 0x0201, len := 8 + word4 entries.length, window := true } = true →
    chartWriteOk section_.toNat index.toNat count.toNat entries = true →
    (section_ ≠ 8 → s.tide.running = true → s.chartBusy = false) →
    exec (.chartWrite u section_ index count entries) s = .next (s.answered ((s.taken u).chartSet section_.toNat index.toNat entries) u 0x0201)) ∧
  (∀ (u : Uci) (t : U64) (s : State), s.served u { code := 0x0202, len := 8, doze := false } = true →
    t.toNat < 2 ^ 48 →
    s.dateLineClash (s.chartOf (!s.chart.epoch)) = false →
    (List.range 64).any (fun j => s.moving j && s.active.reroutes (s.chartOf (!s.chart.epoch)) j) = false →
    s.chartBusy = false →
    tideReached (s.now + 3) (t.setWidth 48) = false →
    s.anySafe = false →
    exec (.chartArm u t) s = .next (s.answered ((s.taken u).modChart (fun c => { c with armT := some (t.setWidth 48) })) u 0x0202 (some (t.setWidth 48)))) ∧
  (∀ (u : Uci) (slot section_ : Byte) (index count : U16) (e : Nat × Nat) (s : State), s.served u { code := 0x0203, len := 8, window := true } = true →
    slot.toNat < 2 →
    chartEntry section_.toNat = some e →
    index.toNat + (if section_.toNat = 5 then 1 else count.toNat) ≤ e.2 →
    exec (.chartRead u slot section_ index count) s = .next (s.answered (s.taken u) u 0x0203 none ((rangeFrom index.toNat (if section_.toNat = 5 then 1 else count.toNat)).flatMap (fun j => if section_.toNat = 8 then planBytes (Tab.get? s.chart.plan j) else (s.chartOf (if slot = 0 then s.chart.epoch else !s.chart.epoch)).bytesOf section_.toNat j)))) ∧
  (∀ (u : Uci) (index : U16) (s : State), s.served u { code := 0x0205, len := 4, window := true } = true →
    index.toNat < 260 →
    (s.berth index.toNat).outcome = 0 →
    exec (.lift u 0 index) s = .next (s.answered (if s.tide.running then (s.taken u).modChart (fun c => { c with pLiftQ := insertNew index.toNat c.pLiftQ }) else (s.taken u).liftQ index.toNat) u 0x0205 s.nextBoundary)) ∧
  (∀ (u : Uci) (index : U16) (b : BundleE) (s : State), s.served u { code := 0x0205, len := 4, window := true } = true →
    index.toNat < 16 →
    Tab.get? s.active.bundles index.toNat = some b →
    b.role ≠ 0 →
    b.berths ≠ [] →
    b.berths.any (fun k => (s.berth k).outcome != 0) = false →
    exec (.lift u 1 index) s = .next (s.answered (if s.tide.running then (s.taken u).modChart (fun c => { c with pLiftB := insertNew index.toNat c.pLiftB }) else (s.taken u).liftB index.toNat) u 0x0205 s.nextBoundary)) ∧
  (∀ (u : Uci) (section_ half : Byte) (index count : U16) (entries : List Byte) (s : State), s.served u { code := 0x0206, len := 8 + word4 entries.length, window := true } = true →
    tmWriteOk section_.toNat half.toNat index.toNat count.toNat entries = true →
    ((s.half (Half.ofNum half.toNat)).tmShadow.puts section_.toNat index.toNat (chunksOf (((tmEntry section_.toNat).map (fun e => e.1)).getD 1) count.toNat entries)).twoPolicers = false →
    (s.half (Half.ofNum half.toNat)).tmArmed = false →
    exec (.tmWrite u section_ half index count entries) s = .next (s.answered ((s.taken u).tmSet (Half.ofNum half.toNat) section_.toNat index.toNat entries) u 0x0206)) ∧
  (∀ (u : Uci) (half : Byte) (s : State), s.served u { code := 0x0207, len := 4, doze := false } = true →
    half.toNat ≤ 2 →
    (halvesOf half.toNat).any (fun h => (s.half h).tmShadow.partitions.any (fun e => !ratesOk e.2)) = false →
    (halvesOf half.toNat).any (fun h => (s.half h).tmArmed) = false →
    (halvesOf half.toNat).all (fun h => decide ((s.half h).tmShadow.reserved ≤ 147456)) = true →
    (halvesOf half.toNat).any (fun h => s.halfSafe h || s.halfOut h) = false →
    exec (.tmArm u half) s = .next (s.answered ((halvesOf half.toNat).foldl (fun s h => s.modHalf h (fun x => { x with tmArmed := true })) (s.taken u)) u 0x0207 s.nextBoundary))

/-- The commands that allocate the Hold and the Quay take effect (12 R337, 12 R447, 07 R172, 07 R173). The next states are those of
the model, whose choices here are log entries 3, 39. -/
def Obligations.AllocationCommandsComplete : Prop :=
  (∀ (u : Uci) (stack : Byte) (first count : U32) (s : State), s.served u { code := 0x0501, len := 12, job := true } = true →
    granulesBad stack.toNat first.toNat count.toNat = false →
    s.jobs.any (fun e => e.1 != u.job.toNat && e.2.granules.any (fun g => runsMeet g.1 g.2 (stack.toNat * 2 ^ 16 + first.toNat) count.toNat)) = false →
    stack.toNat ∉ s.fault.badStacks →
    s.sec.lifecycle ≠ 4 →
    exec (.holdAlloc u stack first count) s = .next (s.answered ((if count ≠ 0 ∧ (s.job u.job.toNat).keyEpoch.isNone then (s.taken u).drawKeys u.job.toNat else s.taken u).modJob u.job.toNat (fun x => { x with granules := cutRun (stack.toNat * 2 ^ 16 + first.toNat, count.toNat) x.granules ++ (if count = 0 then [] else [(stack.toNat * 2 ^ 16 + first.toNat, count.toNat)]) })) u 0x0501)) ∧
  (∀ (u : Uci) (stack : Byte) (first count : U32) (s : State), s.served u { code := 0x0502, len := 12, job := true } = true →
    granulesBad stack.toNat first.toNat count.toNat = false →
    (rangeFrom (stack.toNat * 2 ^ 16 + first.toNat) count.toNat).all (fun g => (s.job u.job.toNat).owns g) = true →
    s.shards.any (fun e => (e.2.state != 0 || e.2.pCfg.isSome) && e.2.job == u.job.toNat && runsMeet (s.planeRange e.2).1 (s.planeRange e.2).2 ((stack.toNat * 2 ^ 16 + first.toNat) * 2 ^ 21) (count.toNat * 2 ^ 21)) = false →
    exec (.holdFree u stack first count) s = .next (s.answered ((s.taken u).modJob u.job.toNat (fun x => { x with granules := cutRun (stack.toNat * 2 ^ 16 + first.toNat, count.toNat) (s.job u.job.toNat).granules, keyEpoch := if (cutRun (stack.toNat * 2 ^ 16 + first.toNat, count.toNat) (s.job u.job.toNat).granules).isEmpty then none else x.keyEpoch })) u 0x0502)) ∧
  (∀ (u : Uci) (half : Byte) (base size : U64) (s : State), s.served u { code := 0x0503, len := 24, job := true } = true →
    half.toNat < 2 →
    base.toNat % 4096 = 0 →
    size.toNat % 4096 = 0 →
    base.toNat + size.toNat ≤ 2 ^ 33 →
    (size.toNat = 0 ∨ 0x2000_0000 ≤ base.toNat) →
    (s.quayUsed u.job.toNat (Half.ofNum half.toNat)).all (fun r => insideRange base.toNat size.toNat r) = true →
    (s.half (Half.ofNum half.toNat)).pool.pages.any (fun p => bytesMeet base.toNat size.toNat p.toNat 4096) = false →
    s.jobs.any (fun e => e.1 != u.job.toNat && (e.2.quayOf (Half.ofNum half.toNat)).any (fun q => bytesMeet base.toNat size.toNat q.1 q.2)) = false →
    exec (.quayAlloc u half base size) s = .next (s.answered ((s.taken u).modJob u.job.toNat (fun x => match Half.ofNum half.toNat with | .east => { x with pQuayE := some (base.toNat, size.toNat) } | .west => { x with pQuayW := some (base.toNat, size.toNat) })) u 0x0503 s.nextBoundary))

/-- The commands of seeds, steps, shards and versions take effect (12 R337, 07 R174, 07 R178, 07 R182, 07 R194, 07 R195, 07 R203).
The next states are those of the model, whose choices here are log entries 2, 3, 5, 35, 42, 89, 90. -/
def Obligations.JobCommandsComplete : Prop :=
  (∀ (u : Uci) (seed : U64) (s : State), s.served u { code := 0x0504, len := 8, sender := .owner, job := true } = true →
    s.stepHeld u.job.toNat = false →
    exec (.seedSet u seed) s = .next (s.answered ((s.taken u).modJob u.job.toNat (fun x => { x with pSeed := some seed })) u 0x0504 s.nextBoundary)) ∧
  (∀ (u : Uci) (step : U64) (s : State), s.served u { code := 0x0505, len := 8, sender := .owner, job := true } = true →
    step.toNat < 2 ^ 48 →
    s.stepHeld u.job.toNat = false →
    exec (.stepSet u step) s = .next (s.answered ((s.taken u).modJob u.job.toNat (fun x => { x with pStep := some (step.setWidth 48) })) u 0x0505 s.nextBoundary)) ∧
  (∀ (u : Uci) (index : U32) (half : Byte) (r : ShardCfg) (h : Half) (x : ShardSt) (s : State), s.served u { code := 0x0506, len := 72, sender := .owner, job := true } = true →
    half.toNat < 2 →
    h = Half.ofNum half.toNat →
    x = { half := h, cfg := r } →
    index.toNat < 2 ^ 20 →
    s.shardBad h r = false →
    x.job = u.job.toNat →
    (s.shard? (shardKey h index.toNat)).any (fun o => (o.state != 0 || o.pCfg.isSome) && o.job != u.job.toNat) = false →
    (s.job u.job.toNat).inHold (s.planeRange x).1 (s.planeRange x).2 = true →
    (s.shard? (shardKey h index.toNat)).any (fun o => o.state == 2) = false →
    (s.shard? (shardKey h index.toNat)).any (fun o => o.pCfg.isSome) = false →
    s.halfOut h = false →
    exec (.shardDefine u index half r) s = .next (s.answered { s.taken u with shards := Tab.set s.shards (shardKey h index.toNat) { (match s.shard? (shardKey h index.toNat) with | some o => if o.state = 0 then x else o | none => x : ShardSt) with pCfg := some r } } u 0x0506 s.nextBoundary)) ∧
  (∀ (u : Uci) (version : U64) (s : State), s.served u { code := 0x0507, len := 8, sender := .owner, job := true } = true →
    version.toNat < 2 ^ 48 →
    (s.job u.job.toNat).retired.isSome = true →
    (s.job u.job.toNat).isOld (version.setWidth 48) = false →
    version.setWidth 48 ∉ (s.job u.job.toNat).closed →
    version.setWidth 48 ∉ (s.job u.job.toNat).pClose →
    exec (.versionClose u version) s = .next (s.answered ((s.taken u).modJob u.job.toNat (fun x => { x with pClose := x.pClose ++ [version.setWidth 48] })) u 0x0507 s.nextBoundary)) ∧
  (∀ (u : Uci) (version : U64) (group : U16) (ranges : List (U32 × U32 × U32)) (rs : List (Nat × Nat × Nat)) (r : List (Nat × Nat × Nat) × State) (s : State), r = rs.foldl (fun (a : List (Nat × Nat × Nat) × State) r => a.2.prefetchRange u.job.toNat (version.setWidth 48) group a.1 r) ([], (s.taken u).fresh.2) →
    rs = ranges.map (fun r => (r.1.toNat, r.2.1.toNat, r.2.2.toNat)) →
    s.served u { code := 0x0508, len := 16 + 12 * rs.length, sender := .owner, job := true, doze := false } = true →
    version.toNat < 2 ^ 48 →
    rs.any (fun r => decide (2 ^ 20 ≤ r.1 ∨ 2 ^ 20 < r.2.1 + r.2.2)) = false →
    (s.job u.job.toNat).fenced = false →
    ((s.prefetches.filter (fun p => p.job == u.job.toNat)).map (fun p => p.bytesE)).sum + (rs.map (s.prefetchBytes u.job.toNat .east)).sum ≤ 2 ^ 30 →
    ((s.prefetches.filter (fun p => p.job == u.job.toNat)).map (fun p => p.bytesW)).sum + (rs.map (s.prefetchBytes u.job.toNat .west)).sum ≤ 2 ^ 30 →
    s.halfOut .east = false →
    s.halfOut .west = false →
    exec (.prefetch u version group ranges) s = .next (s.answered (r.2.addPrefetch ⟨s.nextId, u.job.toNat, version.setWidth 48, group, r.1, (rs.map (s.prefetchBytes u.job.toNat .east)).sum, (rs.map (s.prefetchBytes u.job.toNat .west)).sum⟩) u 0x0508 s.nextBoundary)) ∧
  (∀ (u : Uci) (index : U32) (half : Byte) (version : U64) (cCopy : U16) (amax : U32) (s : State), s.served u { code := 0x050D, len := 24, sender := .owner, job := true } = true →
    index.toNat < 2 ^ 20 →
    half.toNat < 2 →
    version.toNat < 2 ^ 48 →
    bf16Ok cCopy.toNat = true →
    (s.shard? (shardKey (Half.ofNum half.toNat) index.toNat)).any (fun o => (o.state != 0 || o.pCfg.isSome) && o.job != u.job.toNat) = false →
    (s.shard? (shardKey (Half.ofNum half.toNat) index.toNat)).all (fun o => o.state == 0 && o.pCfg.isNone) = false →
    (s.shard? (shardKey (Half.ofNum half.toNat) index.toNat)).any (fun o => o.state == 2) = false →
    (s.job u.job.toNat).outstanding.any (fun e => e.2 != 0) = false →
    ((s.job u.job.toNat).retired.isSome = true → (s.job u.job.toNat).firstVersion ≠ version.setWidth 48 → s.jobLive u.job.toNat = false) →
    s.halfOut (Half.ofNum half.toNat) = false →
    exec (.versionSeed u index half version cCopy amax) s = .next (s.answered ((s.taken u).modShard (shardKey (Half.ofNum half.toNat) index.toNat) (fun x => { x with pSeed := some (version.setWidth 48, cCopy, amax) })) u 0x050D s.nextBoundary))

/-- HOLD_WRITE, HOLD_READ, QUAY_WRITE and QUAY_READ start a transfer (12 R331, 12 R337). The next states are those of the model,
whose choices here are log entries 3, 12, 35. -/
def Obligations.HostTransfersComplete : Prop :=
  (∀ (u : Uci) (addr : U64) (len : U32) (data : List Byte) (s : State), s.served u { code := 0x0509, len := 16 + word4 len.toNat, sender := .owner, job := true, doze := false } = true →
    1 ≤ len.toNat →
    len.toNat ≤ 4048 →
    addr.toNat < 2 ^ 41 →
    data.length = len.toNat →
    (s.job u.job.toNat).inHold addr.toNat len.toNat = true →
    s.holdOut addr.toNat = false →
    exec (.holdWrite u addr len data) s = .next (s.answered (((s.taken u).fresh.2).modMbox (fun m => { m with xfers := Tab.set m.xfers s.nextId (.holdWrite u.job.toNat addr.toNat data) })) u 0x0509 none [] (some (.transfer s.nextId)))) ∧
  (∀ (u : Uci) (addr : U64) (len : U32) (s : State), s.served u { code := 0x050A, len := 12, sender := .owner, job := true, doze := false } = true →
    1 ≤ len.toNat →
    len.toNat ≤ 4064 →
    addr.toNat < 2 ^ 41 →
    (s.job u.job.toNat).inHold addr.toNat len.toNat = true →
    s.holdOut addr.toNat = false →
    exec (.holdRead u addr len) s = .next (s.answered (((s.taken u).fresh.2).modMbox (fun m => { m with xfers := Tab.set m.xfers s.nextId (.holdRead u.job.toNat addr.toNat len.toNat) })) u 0x050A none [] (some (.transfer s.nextId)))) ∧
  (∀ (u : Uci) (addr : U64) (len : U32) (data : List Byte) (s : State), s.served u { code := 0x050B, len := 16 + word4 len.toNat, sender := .owner, job := true, doze := false } = true →
    1 ≤ len.toNat →
    len.toNat ≤ 4048 →
    addr.toNat < 2 ^ 34 →
    data.length = len.toNat →
    (s.job u.job.toNat).inQuayAt addr.toNat len.toNat = true →
    s.halfOut (quayHalf addr.toNat) = false →
    exec (.quayWrite u addr len data) s = .next (s.answered (((s.taken u).fresh.2).modMbox (fun m => { m with xfers := Tab.set m.xfers s.nextId (.quayWrite (quayHalf addr.toNat) (quayOff addr.toNat) data) })) u 0x050B none [] (some (.transfer s.nextId)))) ∧
  (∀ (u : Uci) (addr : U64) (len : U32) (s : State), s.served u { code := 0x050C, len := 12, sender := .owner, job := true, doze := false } = true →
    1 ≤ len.toNat →
    len.toNat ≤ 4064 →
    addr.toNat < 2 ^ 34 →
    (s.job u.job.toNat).inQuayAt addr.toNat len.toNat = true →
    s.halfOut (quayHalf addr.toNat) = false →
    exec (.quayRead u addr len) s = .next (s.answered (((s.taken u).fresh.2).modMbox (fun m => { m with xfers := Tab.set m.xfers s.nextId (.quayRead (quayHalf addr.toNat) (quayOff addr.toNat) len.toNat) })) u 0x050C none [] (some (.transfer s.nextId))))

/-- The commands of recipes take effect (12 R338, 07 R184, 07 R186, 07 R205). The next states are those of the model, whose choices
here are log entries 3, 25, 43, 44, 50. -/
def Obligations.RecipeCommandsComplete : Prop :=
  (∀ (u : Uci) (image : U16) (offset : U32) (len : U16) (data : List Byte) (s : State), s.served u { code := 0x0601, len := 16 + word4 len.toNat, sender := .owner, job := true, doze := false } = true →
    image.toNat ≤ 0xEF →
    1 ≤ len.toNat →
    len.toNat ≤ 4048 →
    data.length = len.toNat →
    offset.toNat + len.toNat ≤ recipeMemory →
    (s.job u.job.toNat).fenced = false →
    s.shards.any (fun e => e.2.state == 2 && e.2.job == u.job.toNat && e.2.image == image.toNat) = false →
    Tab.get? (s.job u.job.toNat).imgArmed image.toNat = none →
    s.anySafe = false →
    exec (.recipeLoad u image 0 offset len data) s = .next (s.answered ((s.taken u).modJob u.job.toNat (fun x => { x with loading := Tab.set x.loading image.toNat (((rangeFrom offset.toNat len.toNat).zip data).foldl (fun (t : List (Nat × Byte)) e => Tab.set t e.1 e.2) (Tab.get [] (s.job u.job.toNat).loading image.toNat)) })) u 0x0601)) ∧
  (∀ (u : Uci) (image : U16) (offset : U32) (len : U16) (data : List Byte) (r : Recipe) (s : State), s.served u { code := 0x0601, len := 16 + word4 len.toNat, sender := .owner, job := true, doze := false } = true →
    image.toNat ≤ 0xEF →
    1 ≤ len.toNat →
    len.toNat ≤ 4048 →
    data.length = len.toNat →
    offset.toNat + len.toNat ≤ recipeMemory →
    (s.job u.job.toNat).fenced = false →
    s.shards.any (fun e => e.2.state == 2 && e.2.job == u.job.toNat && e.2.image == image.toNat) = false →
    Tab.get? (s.job u.job.toNat).imgArmed image.toNat = none →
    s.anySafe = false →
    recipeOf (((rangeFrom offset.toNat len.toNat).zip data).foldl (fun (t : List (Nat × Byte)) e => Tab.set t e.1 e.2) (Tab.get [] (s.job u.job.toNat).loading image.toNat)) = some r →
    r.bad = false →
    (s.job u.job.toNat).recipeUsed (some image.toNat) none + r.bytes ≤ recipeMemory →
    exec (.recipeLoad u image 1 offset len data) s = .next (s.answered ((s.taken u).modJob u.job.toNat (fun x => { x with loading := Tab.erase x.loading image.toNat, imgArmed := Tab.set x.imgArmed image.toNat r })) u 0x0601 s.nextBoundary)) ∧
  (∀ (u : Uci) (block : Byte) (scalars : List U32) (s : State), s.served u { code := 0x0602, len := 260, sender := .owner, job := true } = true →
    scalars.length = 64 →
    (s.job u.job.toNat).fenced = false →
    (s.job u.job.toNat).recipeUsed none (some block.toNat) ≤ recipeMemory →
    exec (.recipeParam u block scalars) s = .next (s.answered ((s.taken u).modJob u.job.toNat (fun x => { x with pParams := Tab.set x.pParams block.toNat scalars })) u 0x0602 s.nextBoundary)) ∧
  (∀ (u : Uci) (image : U16) (s : State), s.served u { code := 0x0604, len := 4, sender := .owner, job := true } = true →
    image.toNat ≤ 0xEF →
    (s.job u.job.toNat).fenced = false →
    s.shards.any (fun e => (e.2.state != 0 || e.2.pCfg.isSome) && e.2.job == u.job.toNat && (e.2.image == image.toNat || e.2.pCfg.any (fun c => bitsOf c.ctl.toNat 16 8 == image.toNat))) = false →
    exec (.recipeUnload u image) s = .next (s.answered ((s.taken u).modJob u.job.toNat (fun x => { x with pUnload := insertNew image.toNat x.pUnload })) u 0x0604 s.nextBoundary)) ∧
  (∀ (u : Uci) (shard : U32) (s : State), s.served u { code := 0x0603, len := 4, sender := .owner, job := true } = true →
    shard.toNat < 2 ^ 20 →
    s.shardForeign u.job.toNat shard.toNat = false →
    exec (.recipeStatus u shard) s = .next (s.answered { s.taken u with freeCtr := s.freeCtr + 32 } u 0x0603 none (match s.snapShard u.job.toNat shard.toNat with | some (_, x) => x.statusBytes (s.job u.job.toNat) s.freeCtr | none => List.replicate 172 0)))

/-- FAULT_CONFIG, SAFE_EXIT and FENCE take effect (12 R339, 13 R354, 13 R355). The next states are those of the model, whose choices
here are log entries 3, 35, 45. -/
def Obligations.FaultCommandsComplete : Prop :=
  (∀ (u : Uci) (source n : U16) (wLog2 : Byte) (s : State), s.served u { code := 0x0702, len := 8, window := true } = true →
    (srcInfo source.toNat).any (fun i => !i.fixed) = true →
    n ≠ 0 →
    4 ≤ wLog2.toNat →
    wLog2.toNat ≤ 30 →
    exec (.faultConfig u source n wLog2) s = .next (s.answered ((s.taken u).modFault (fun f => { f with sources := Tab.set f.sources source.toNat { s.sourceSt source.toNat with pCfg := some (n.toNat, wLog2.toNat) } })) u 0x0702 s.nextBoundary)) ∧
  (∀ (u : Uci) (scope : Byte) (maskIndex : U16) (s : State), s.served u { code := 0x0703, len := 8 } = true →
    scope.toNat ≤ 3 →
    (scope.toNat = 0 → maskIndex.toNat ≤ 8) →
    s.scopeSafe scope.toNat maskIndex.toNat = true →
    (s.fault.therm && !s.fault.hot.isEmpty) = false →
    (scope.toNat ≠ 3 → s.fault.pkgSafe = false) →
    (scope.toNat = 0 → s.leaving maskIndex.toNat ≠ []) →
    (scope.toNat ≠ 0 → s.stillSevere scope.toNat = false ∧ s.blockFailed scope.toNat = false ∧ s.latchMissing scope.toNat = false) →
    exec (.safeExit u scope maskIndex) s = .next (s.answered ((s.taken u).modFault (fun f => { f with pExit := f.pExit ++ [(scope.toNat, maskIndex.toNat)] })) u 0x0703 s.nextBoundary)) ∧
  (∀ (u : Uci) (kind : Byte) (index : U16) (o : FenceObj) (s : State), s.served u { code := 0x0704, len := 8 } = true →
    fenceObj kind.toNat index.toNat = some o →
    s.fault.fences.find? (fun f => f.obj == o) = none →
    (match o with | .engine h _ => s.halfOut h | .berth b => s.halfOut (berthHalf b.val) | .job _ => false) = false →
    exec (.fence u kind index 0) s = .next (s.answered ((s.taken u).modFault (fun f => { f with fences := f.fences ++ [⟨o, s.now + 1, false, false, none, false⟩] })) u 0x0704 s.nextBoundary [] (some (.fence o)))) ∧
  (∀ (u : Uci) (kind : Byte) (index : U16) (o : FenceObj) (f : FenceSt) (s : State), s.served u { code := 0x0704, len := 8 } = true →
    fenceObj kind.toNat index.toNat = some o →
    s.fault.fences.find? (fun f => f.obj == o) = some f →
    f.internal = false →
    f.enableAt = none →
    (match o with | .engine h _ => s.halfOut h | .berth b => s.halfOut (berthHalf b.val) | .job _ => false) = false →
    exec (.fence u kind index 1) s = .next (s.answered ((s.taken u).modFault (fun f => { f with fences := f.fences.map (fun x => if x.obj = o then { x with enableAt := some (s.now + 1) } else x) })) u 0x0704 s.nextBoundary [] (some (.fence o))))

/-- SPARE, ENGINE_MAP, TILE_READ, TILE_WRITE, PALLET_DIAG and PALLET_AUDIT take effect (12 R339, 11 R296, 04 R99, 04 R100, 04 R115,
09 R260). The next states are those of the model, whose choices here are log entries 2, 3, 27, 35, 63, 80, 81. -/
def Obligations.RepairCommandsComplete : Prop :=
  (∀ (u : Uci) (berth : U16) (lane spareIdx engine tile : Byte) (s : State), s.served u { code := 0x0705, len := 8 } = true →
    berth.toNat < 256 →
    lane.toNat < 4 →
    spareIdx.toNat = spareOf berth.toNat →
    s.spareFree berth.toNat = true →
    (s.berth berth.toNat).spareReq = none →
    (s.berth berth.toNat).up = true →
    s.halfOut (berthHalf berth.toNat) = false →
    exec (.spare u 0 berth lane spareIdx engine tile) s = .next (s.answered ((s.taken u).askSpare berth.toNat lane.toNat) u 0x0705)) ∧
  (∀ (u : Uci) (berth : U16) (lane spareIdx engine tile : Byte) (s : State), s.served u { code := 0x0705, len := 8 } = true →
    engine.toNat < 40 →
    tile.toNat < 8 →
    s.unmapped (engHalf engine.toNat) (engine.toNat % 20) = false →
    (s.spareTile (engHalf engine.toNat) (engine.toNat % 20)).isSome = true →
    (s.tile (tileKey (engHalf engine.toNat) (engine.toNat % 20) tile.toNat)).pSub = none →
    s.halfOut (engHalf engine.toNat) = false →
    exec (.spare u 1 berth lane spareIdx engine tile) s = .next (s.answered ((s.taken u).modTile (tileKey (engHalf engine.toNat) (engine.toNat % 20) tile.toNat) (fun x => { x with pSub := s.spareTile (engHalf engine.toNat) (engine.toNat % 20) })) u 0x0705)) ∧
  (∀ (u : Uci) (half logical physical : Byte) (s : State), s.served u { code := 0x0706, len := 4 } = true →
    half.toNat < 2 →
    logical.toNat < 20 →
    physical.toNat < 20 →
    (List.range 20).all (fun e => e == logical.toNat || (Tab.get (s.physEng (Half.ofNum half.toNat) e) (s.half (Half.ofNum half.toNat)).pEngMap e != physical.toNat && s.physEng (Half.ofNum half.toNat) e != physical.toNat)) = true →
    8 ≤ ((s.half (Half.ofNum half.toNat)).inService physical.toNat).length →
    physical.toNat ∉ (s.half (Half.ofNum half.toNat)).badEngines →
    s.halfOut (Half.ofNum half.toNat) = false →
    exec (.engineMap u half logical physical) s = .next (s.answered ((s.taken u).modHalf (Half.ofNum half.toNat) (fun x => { x with pEngMap := Tab.set x.pEngMap logical.toNat physical.toNat })) u 0x0706 s.nextBoundary)) ∧
  (∀ (u : Uci) (engine tile : Byte) (first count : U16) (s : State), s.served u { code := 0x0708, len := 8, doze := false } = true →
    engine.toNat < 40 →
    tile.toNat < 8 →
    1 ≤ count.toNat →
    count.toNat ≤ 240 →
    first.toNat + count.toNat ≤ 65536 →
    s.tileLive (tileKey (engHalf engine.toNat) (engine.toNat % 20) tile.toNat) = false →
    s.unmapped (engHalf engine.toNat) (engine.toNat % 20) = false →
    s.halfOut (engHalf engine.toNat) = false →
    exec (.tileRead u engine tile first count) s = .next (s.answered ((((s.taken u).fresh.2).modMbox (fun m => { m with xfers := Tab.set m.xfers s.nextId (.tileRead (tileKey (engHalf engine.toNat) (engine.toNat % 20) tile.toNat) first.toNat count.toNat) })).modTile (tileKey (engHalf engine.toNat) (engine.toNat % 20) tile.toNat) (fun x => { x with drainsWaiting := x.drainsWaiting ++ [.read s.nextId] })) u 0x0708 none [] (some (.transfer s.nextId)))) ∧
  (∀ (u : Uci) (engine tile : Byte) (first count : U16) (images : List (BitVec 128)) (s : State), s.served u { code := 0x0709, len := 8 + 16 * count.toNat, doze := false } = true →
    engine.toNat < 40 →
    tile.toNat < 8 →
    1 ≤ count.toNat →
    count.toNat ≤ 240 →
    first.toNat + count.toNat ≤ 65536 →
    images.length = count.toNat →
    images.all imageOk = true →
    s.tileLive (tileKey (engHalf engine.toNat) (engine.toNat % 20) tile.toNat) = false →
    s.unmapped (engHalf engine.toNat) (engine.toNat % 20) = false →
    s.halfOut (engHalf engine.toNat) = false →
    exec (.tileWrite u engine tile first count images) s = .next (s.answered (((s.taken u).fresh.2).modMbox (fun m => { m with xfers := Tab.set m.xfers s.nextId (.tileWrite (tileKey (engHalf engine.toNat) (engine.toNat % 20) tile.toNat) first.toNat images) })) u 0x0709 none [] (some (.transfer s.nextId)))) ∧
  (∀ (u : Uci) (half : Byte) (first : U32) (count : U16) (s : State), s.served u { code := 0x070A, len := 12, window := true } = true →
    half.toNat < 2 →
    1 ≤ count.toNat →
    count.toNat ≤ 1016 →
    first.toNat + count.toNat ≤ 184320 →
    s.halfOut (Half.ofNum half.toNat) = false →
    exec (.palletDiag u half first count) s = .next (s.answered (s.taken u) u 0x070A none ((rangeFrom first.toNat count.toNat).flatMap (fun i => leBytes 4 ((s.half (Half.ofNum half.toNat)).pool.descOf i))))) ∧
  (∀ (u : Uci) (half : Byte) (s : State), s.served u { code := 0x070B, len := 4 } = true →
    half.toNat < 2 →
    s.halfOut (Half.ofNum half.toNat) = false →
    exec (.palletAudit u half) s = .next (s.answered ((s.taken u).audit (Half.ofNum half.toNat)) u 0x070B none (leBytes 4 (toTwos 32 (s.half (Half.ofNum half.toNat)).pool.difference))))

/-- The commands of power and security take effect (12 R340, 14 R366, 14 R367, 14 R369, 14 R371, 14 R375, 14 R378, 14 R384). The
next states are those of the model, whose choices here are log entries 3, 53, 54, 59, 72. -/
def Obligations.PowerAndSecurityCommandsComplete : Prop :=
  (∀ (u : Uci) (state : Byte) (s : State), s.served u { code := 0x0801, len := 4, sender := .privSec, window := true, anchor := true } = true →
    state.toNat ≤ 2 →
    powerStep s.sec.power.toNat state.toNat = true →
    s.inWindow = false →
    (state.toNat = 1 → s.dozeBlocked = false ∧ s.safeInForce = false) →
    (state.toNat = 2 → s.anchorBlocked = false) →
    (s.sec.power.toNat = 2 → s.fault.pkgSafe = false) →
    s.sec.pPower = none →
    exec (.powerSet u state) s = .next (s.answered (if s.sec.power.toNat = 2 then (s.taken u).leaveAnchor else (s.taken u).modSec (fun x => { x with pPower := some state })) u 0x0801 (if s.sec.power.toNat = 2 then none else s.nextBoundary) [] (if s.sec.power.toNat = 2 ∨ state.toNat = 2 then none else some .power))) ∧
  (∀ (u : Uci) (s : State), s.served u { code := 0x0802, len := 0, sender := .privSec, window := true, anchor := true } = true →
    s.sec.authFails < 8 →
    exec (.debugChallenge u) s = .next (s.answered ((s.taken u).freeIx.2.modSec (fun x => { x with nonce := some (Config.random s.freeCtr) })) u 0x0802 none (bvBytes 48 (Config.random s.freeCtr)))) ∧
  (∀ (u : Uci) (s : State), s.served u { code := 0x0804, len := 0, sender := .privSec, window := true, anchor := true } = true →
    s.sec.dbg ≠ 0 →
    s.securityPending = false →
    exec (.debugClose u) s = .next (s.answered (if s.tide.running then (s.taken u).modSec (fun x => { x with pDebug := some 0 }) else (s.taken u).setDebug 0) u 0x0804 s.nextBoundary)) ∧
  (∀ (u : Uci) (scope : Byte) (z : ZeroSt) (s : State), s.served u { code := 0x0806, len := 4, sender := .privSec, job := scope == 0, window := true } = true →
    scope.toNat < 2 →
    z = { job := if scope = 0 then some u.job.toNat else none, keysGone := false, granules := [], debugOpen := false, lifecycle := none } →
    s.zeroLive z = false →
    s.zeroBusy z = false →
    s.securityPending = false →
    exec (.zeroize u scope) s = .next (s.answered (if s.tide.running then (s.taken u).zeroStart z else (s.taken u).zeroNow (match z.job with | some j => { z with granules := (s.job j).granules } | none => z)) u 0x0806 s.nextBoundary [] (if s.tide.running then some .zeroize else none))) ∧
  (∀ (u : Uci) (s : State), s.served u { code := 0x0807, len := 0, sender := .privSec, window := true, anchor := true } = true →
    s.standbyReady = true →
    exec (.mastership u) s = .next (s.answered (if s.tide.running then (s.taken u).modSec (fun x => { x with pHandover := true }) else (s.taken u).flipLatch) u 0x0807 s.nextBoundary [] (if s.tide.running then some .handover else none)))

/-- DEBUG_OPEN and LIFECYCLE_SET act on an accepted signature and spend the nonce on a refused one (12 R340, 14 R366, 14 R367, 14
R368, 14 R369). The next states are those of the model, whose choices here are log entries 3, 11, 53, 54. -/
def Obligations.SignedCommandsComplete : Prop :=
  (∀ (u : Uci) (target : Byte) (signature : BitVec 768) (s : State), s.served u { code := 0x0803, len := 100, sender := .privSec, window := true, anchor := true } = true →
    target = 1 →
    s.sec.dbg = 0 →
    2 ≤ s.sec.lifecycle.toNat →
    s.sec.lifecycle.toNat ≤ 4 →
    (s.sec.power = 0 ∨ s.sec.power = 2) →
    s.anyLive = false →
    s.shards.any (fun e => e.2.state == 2) = false →
    s.securityPending = false →
    (s.sec.lifecycle.toNat = 3 → s.sec.ownerKey = true) →
    exec (.debugOpen u target signature) s = .next (if s.authOk (if s.sec.lifecycle.toNat = 3 then keyOwner else keyDebug) 0x81 signature = true then s.answered (if s.tide.running then (if s.sec.lifecycle.toNat = 3 then ((s.taken u).modSec (fun x => { x with nonce := none })).zeroStart { job := none, keysGone := false, granules := [], debugOpen := true, lifecycle := none } else ((s.taken u).modSec (fun x => { x with nonce := none })).modSec (fun x => { x with pDebug := some 1 })) else (if s.sec.lifecycle.toNat ≠ 3 then (s.taken u).modSec (fun x => { x with nonce := none }) else if s.sec.power = 2 then ((s.taken u).modSec (fun x => { x with nonce := none })).destroyAllKeys else ((s.taken u).modSec (fun x => { x with nonce := none })).zeroNow { job := none, keysGone := false, granules := [], debugOpen := true, lifecycle := none }).setDebug 1) u 0x0803 none [] (if s.tide.running then some .zeroize else none) else s.answered ((s.taken u).modSec (fun x => { x with nonce := none, authFails := x.authFails + 1 })) u 0x0803 none [] none 0xA)) ∧
  (∀ (u : Uci) (target : Byte) (signature : BitVec 768) (s : State), s.served u { code := 0x0805, len := 100, sender := .privSec, window := true, anchor := true } = true →
    1 ≤ target.toNat →
    target.toNat ≤ 4 →
    s.mayMove target.toNat = true →
    s.securityPending = false →
    exec (.lifecycleSet u target signature) s = .next (if s.authOk (if target.toNat = 3 then keyOwner else keyRoot) target signature = true then s.answered (if s.tide.running then (if target.toNat = 4 then ((s.taken u).modSec (fun x => { x with nonce := none })).zeroStart { job := none, keysGone := false, granules := [], debugOpen := false, lifecycle := some 4 } else ((s.taken u).modSec (fun x => { x with nonce := none })).modSec (fun x => { x with pLifecycle := some target })) else (if target.toNat ≠ 4 then (s.taken u).modSec (fun x => { x with nonce := none }) else if s.sec.power = 2 then ((s.taken u).modSec (fun x => { x with nonce := none })).destroyAllKeys else ((s.taken u).modSec (fun x => { x with nonce := none })).zeroNow { job := none, keysGone := false, granules := [], debugOpen := false, lifecycle := some 4 }).setLifecycle target) u 0x0805 none [] (if s.tide.running then some .zeroize else none) else s.answered ((s.taken u).modSec (fun x => { x with nonce := none, authFails := x.authFails + 1 })) u 0x0805 none [] none 0xA))

/-- The commands of telemetry take effect (12 R341, 07 R198, 07 R200, 07 R201, 09 R253). The next states are those of the model,
whose choices here are log entries 3, 25, 35, 49, 60. -/
def Obligations.TelemetryCommandsComplete : Prop :=
  (∀ (u : Uci) (set : Byte) (first count : U16) (s : State), s.served u { code := 0x0901, len := 8, sender := if set.toNat = 4 then .owner else .priv, job := set.toNat == 4, window := true } = true →
    set.toNat ≤ 5 →
    first.toNat + count.toNat ≤ (counterKeys set.toNat u.job.toNat).length →
    exec (.countersRead u set first count) s = .next (s.answered ((((counterKeys set.toNat u.job.toNat).drop first.toNat).take count.toNat).foldl (fun (t : State) k => t.resetPeak k) (s.taken u)) u 0x0901 none ((((counterKeys set.toNat u.job.toNat).drop first.toNat).take count.toNat).flatMap (fun k => leBytes 4 (Tab.get (snapDefault k) s.snap k))))) ∧
  (∀ (u : Uci) (k : Byte) (threshold : U32) (s : State), s.served u { code := 0x0902, len := 8, sender := .owner, job := true } = true →
    (k = 0 ∨ (6 ≤ k.toNat ∧ k.toNat ≤ 16)) →
    exec (.tastingSet u k threshold) s = .next (s.answered ((s.taken u).modJob u.job.toNat (fun x => { x with pTaste := some (k.toNat, threshold) })) u 0x0902 s.nextBoundary)) ∧
  (∀ (u : Uci) (sid : U32) (j : Byte) (key : U32) (s : State), s.served u { code := 0x0903, len := 12, sender := .owner, job := true } = true →
    sid.toNat < 2 ^ 20 →
    (s.stream sid.toNat).man.any (fun m => m.job != u.job.toNat) = false →
    (j = 0xFF ∨ j.toNat ≤ 16) →
    key.toNat < 2 ^ 20 →
    (s.stream sid.toNat).cfg.any (fun m => m.op == 1) = true →
    (s.stream sid.toNat).cfg.any (fun m => s.streamOut m) = false →
    exec (.noiseSet u sid j key) s = .next (s.answered ((s.taken u).modStream sid.toNat (fun x => { x with pNoise := some (if j = 0xFF then none else some (j.toNat, key)) })) u 0x0903 s.nextBoundary)) ∧
  (∀ (u : Uci) (index : U32) (s : State), s.served u { code := 0x0904, len := 8, sender := .owner, job := true } = true →
    index.toNat < 2 ^ 20 →
    (s.stream index.toNat).man.any (fun m => m.job != u.job.toNat) = false →
    exec (.stepReport u 0 index) s = .next (s.answered { s.taken u with freeCtr := s.freeCtr + 4 } u 0x0904 none (s.streamReport index.toNat))) ∧
  (∀ (u : Uci) (index : U32) (s : State), s.served u { code := 0x0904, len := 8, sender := .owner, job := true } = true →
    index.toNat < 2 ^ 20 →
    s.shardForeign u.job.toNat index.toNat = false →
    exec (.stepReport u 1 index) s = .next (s.answered { s.taken u with freeCtr := s.freeCtr + 4 } u 0x0904 none (s.shardReport u.job.toNat index.toNat))) ∧
  (∀ (u : Uci) (half session source dir vc : Byte) (analysis : U16) (key : U32) (flow : U16) (job : Byte) (s : State), s.served u { code := 0x0905, len := 16 } = true →
    half.toNat < 2 →
    session.toNat < 8 →
    source.toNat ≤ 3 →
    mirrorBad source.toNat dir.toNat vc.toNat analysis.toNat key.toNat job.toNat = false →
    (source ≠ 0 → s.analysisBerth analysis.toNat = true) →
    s.halfOut (Half.ofNum half.toNat) = false →
    exec (.mirrorSet u half session source dir vc analysis key flow job) s = .next (s.answered ((s.taken u).modHalf (Half.ofNum half.toNat) (fun x => { x with pMirrors := Tab.set x.pMirrors session.toNat (if source = 0 then none else some ⟨source, dir, vc.toNat, analysis.toNat, key, flow, job⟩) })) u 0x0905 s.nextBoundary))

/-- The commands of Sampler mode take effect (17 R430, 17 R432, 17 R434, 17 R442). The next states are those of the model, whose
choices here are log entries 3, 35, 50. -/
def Obligations.SamplerCommandsComplete : Prop :=
  (∀ (u : Uci) (part persona whole : Byte) (addr : U32) (berths : BitVec 264) (engines : U64) (p : PartSt) (s : State), s.served u { code := 0x0A01, len := 56, sender := if whole == 1 then .priv else .owner, job := true } = true →
    p = { job := u.job.toNat, switchPersona := persona == 1, whole := whole == 1, addr := addr, berths := maskOf 260 (whole == 1) berths.toNat, engines := maskOf 40 (whole == 1) engines.toNat } →
    part.toNat < 4 →
    persona.toNat < 2 →
    whole.toNat < 2 →
    berths.toNat < 2 ^ 260 →
    engines.toNat < 2 ^ 40 →
    (whole = 1 → s.streams.any (fun e => e.2.state != .free || e.2.pCreate.isSome) = false ∧ s.shards.any (fun e => e.2.state != 0 || e.2.pCfg.isSome) = false) →
    s.fault.fences.any (fun f => !f.internal && decide (f.obj ∈ p.objects)) = false →
    Tab.get? s.parts part.toNat = none →
    p.berths ≠ [] →
    p.engines ≠ [] →
    p.berths.any (fun b => (s.berth b).eth) = false →
    s.parts.any (fun e => e.2.berths.any (fun b => decide (b ∈ p.berths)) || e.2.engines.any (fun g => decide (g ∈ p.engines))) = false →
    p.berths.any (fun b => s.halfOut (berthHalf b)) = false →
    p.engines.any (fun e => s.halfOut (engHalf e)) = false →
    exec (.samplerCreate u part persona whole addr berths engines) s = .next (s.answered { (s.taken u).modFault (fun f => { f with fences := f.fences ++ p.objects.map (fun o => (⟨o, s.now + 1, false, false, none, true⟩ : FenceSt)) }) with parts := Tab.set s.parts part.toNat p } u 0x0A01 s.nextBoundary [] (some (.sampler part.toNat)))) ∧
  (∀ (u : Uci) (g : SamplerGenCfg) (p : PartSt) (s : State), s.served u { code := 0x0A02, len := 64, sender := .owner, job := true } = true →
    Tab.get? s.parts g.part.toNat = some p →
    p.job = u.job.toNat →
    p.active = true →
    p.pDestroy = false →
    (p.whole = true → privileged (s.senderOf u) = true) →
    genFieldsBad g = false →
    (s.job u.job.toNat).inQuayAt (genArea g).1 (genArea g).2 = true →
    s.genLongest g ≤ g.spacing.toNat →
    s.genLate g = false →
    g.berth.toNat ∈ p.berths →
    p.running = false →
    p.genFits g.berth.toNat = true →
    p.gens.any (fun e => s.genOverlap g e.2.cfg) = false →
    exec (.samplerGen u g) s = .next (s.answered ((s.taken u).modPart g.part.toNat (fun p => { p with gens := Tab.set p.gens g.genId.toNat { cfg := g } })) u 0x0A02)) ∧
  (∀ (u : Uci) (part : Byte) (berth trigger : U16) (pre : Byte) (post : U16) (mode : Byte) (ring : U64) (entries : U32) (p : PartSt) (s : State), s.served u { code := 0x0A03, len := 28, sender := .owner, job := true } = true →
    Tab.get? s.parts part.toNat = some p →
    p.job = u.job.toNat →
    p.active = true →
    p.pDestroy = false →
    (p.whole = true → privileged (s.senderOf u) = true) →
    berth.toNat < 260 →
    trigger.toNat < 2 ^ 11 →
    pre.toNat ≤ 15 →
    mode.toNat < 2 →
    entries.toNat ≤ 65536 →
    (s.job u.job.toNat).inQuayAt ring.toNat (4608 * entries.toNat) = true →
    berth.toNat ∈ p.berths →
    exec (.samplerCheck u part berth trigger pre post mode ring entries) s = .next (s.answered ((s.taken u).modPart part.toNat (fun p => { p with pChecks := Tab.set p.pChecks berth.toNat { trigger := trigger, pre := pre.toNat, post := post.toNat, mode := mode, ring := ring.toNat, entries := entries.toNat, armed := true } })) u 0x0A03 s.nextBoundary)) ∧
  (∀ (u : Uci) (part ack : Byte) (sid : U32) (gen : Byte) (table out : U64) (m : ManifestCfg) (p : PartSt) (s : State), s.served u { code := 0x0A04, len := 152, sender := .owner, job := true } = true →
    Tab.get? s.parts part.toNat = some p →
    p.job = u.job.toNat →
    p.active = true →
    p.pDestroy = false →
    (p.whole = true → privileged (s.senderOf u) = true) →
    sid.toNat < 2 ^ 20 →
    ack.toNat < 2 →
    s.manifestBad m u.job.toNat = false →
    m.job = u.job.toNat →
    (s.job u.job.toNat).inQuayAt table.toNat 1 = true →
    (s.job u.job.toNat).inQuayAt out.toNat 1 = true →
    exec (.samplerGolden u part ack sid gen table out m) s = .next (s.answered ((s.taken u).modPart part.toNat (fun p => { p with gold := some { sid := sid.toNat, gen := gen, ack := ack == 1, table := table.toNat, out := out.toNat, cfg := m, begins := s.now + 1 } })) u 0x0A04 s.nextBoundary)) ∧
  (∀ (u : Uci) (part : Byte) (t : U64) (p : PartSt) (s : State), s.served u { code := 0x0A05, len := 16, sender := .owner, job := true } = true →
    Tab.get? s.parts part.toNat = some p →
    p.job = u.job.toNat →
    p.active = true →
    p.pDestroy = false →
    (p.whole = true → privileged (s.senderOf u) = true) →
    t.toNat < 2 ^ 48 →
    4 ≤ tideSince (BitVec.ofNat 48 t.toNat) s.now →
    tideSince (BitVec.ofNat 48 t.toNat) s.now ≤ 65536 →
    p.gens.any (fun e => s.genLate e.2.cfg) = false →
    p.gens.any (fun e => p.gens.any (fun f => s.genOverlap e.2.cfg f.2.cfg)) = false →
    p.berths.any (fun b => s.berthSafe b) = false →
    exec (.samplerStart u part t) s = .next (s.answered ((s.taken u).modPart part.toNat (fun p => { p with startT := some (BitVec.ofNat 48 t.toNat), running := false, safe := false })) u 0x0A05 (some (BitVec.ofNat 48 t.toNat)))) ∧
  (∀ (u : Uci) (part : Byte) (p : PartSt) (s : State), s.served u { code := 0x0A06, len := 4, sender := .owner, job := true } = true →
    Tab.get? s.parts part.toNat = some p →
    p.job = u.job.toNat →
    p.active = true →
    p.pDestroy = false →
    (p.whole = true → privileged (s.senderOf u) = true) →
    p.running = true →
    exec (.samplerStop u part) s = .next (s.answered ((s.taken u).modPart part.toNat (fun p => { p with running := false, startT := none, gold := p.gold.map (fun g => g.close) })) u 0x0A06)) ∧
  (∀ (u : Uci) (part : Byte) (p : PartSt) (s : State), s.served u { code := 0x0A07, len := 4, sender := .owner, job := true } = true →
    Tab.get? s.parts part.toNat = some p →
    p.job = u.job.toNat →
    p.active = true →
    p.pDestroy = false →
    (p.whole = true → privileged (s.senderOf u) = true) →
    exec (.samplerStatus u part) s = .next (s.answered (s.taken u) u 0x0A07 none (((Tab.get? s.snapParts part.toNat).map (fun (p : PartSt) => p.statusBytes)).getD []))) ∧
  (∀ (u : Uci) (part : Byte) (p : PartSt) (s : State), s.served u { code := 0x0A08, len := 4, sender := .owner, job := true } = true →
    Tab.get? s.parts part.toNat = some p →
    p.job = u.job.toNat →
    p.active = true →
    p.pDestroy = false →
    (p.whole = true → privileged (s.senderOf u) = true) →
    exec (.samplerDestroy u part) s = .next (s.answered ((s.taken u).modPart part.toNat (fun p => { p with pDestroy := true, running := false })) u 0x0A08 s.nextBoundary))

/-- The events of the tide take effect (02 R33, 02 R34, 02 R36, 02 R37, 02 R38, 02 R44, 02 R49). The next states are those of the
model, whose choices here are log entries 7, 8, 13, 70, 73, 75, 76. -/
def Obligations.TideEventsComplete : Prop :=
  (∀ (faults : List HwFault) (s : State), s.tide.counting = true →
    s.tide.running = true →
    exec (.tideBoundary faults) s = .next ((faults.foldl (fun (s : State) f => s.hwFault f) s).boundary)) ∧
  (∀ (faults : List HwFault) (s : State), s.tide.counting = true →
    s.tide.running = false →
    s.boot.resetDue = false →
    exec (.tideBoundary faults) s = .next (s.modTide TideSt.advance)) ∧
  (∀ (time low high : Nat) (s : State), s.tide.cfg.mode = modeFollow →
    8 ≤ low →
    8 ≤ high →
    high ≤ 200 →
    exec (.tideInEdge time low high) s = .next ((if s.tide.running then s.judgeEdge time else s).modTide (fun t => { t with lastEdge := some time, lockRun := if s.tide.spacing time = 4000 then s.tide.lockRun + 1 else 1, locked := t.locked || decide (4 ≤ (if s.tide.spacing time = 4000 then s.tide.lockRun + 1 else 1)) }))) ∧
  (∀ (now : Nat) (s : State), s.tide.running = true →
    s.tide.cfg.mode = modeFollow →
    s.tide.holdover = false →
    s.tide.lastFollowed + 8002 ≤ now →
    exec (.tideInLost now) s = .next ((s.modTide (fun t => { t with inLost := t.inLost || (match s.tide.lastEdge with | some e => decide (e + 8002 ≤ now) | none => true) })).enterHoldover)) ∧
  (∀ (b : Berth) (cyc : Nat) (frac : BitVec 4) (s : State), (s.berth b.val).up = true →
    (s.berth b.val).eth = false →
    s.berthSafe b.val = false →
    cyc < s.tide.len →
    s.tide.beyondStamp cyc = false →
    (∀ p, (s.berth b.val).alignAt = some p → p + (if s.isParent b.val || s.servesChild b.val then 1 else 256) ≤ s.tide.periods) →
    exec (.alignTx b cyc frac) s = .next ((s.sendLocal b.val 0 (.align ⟨mkStamp s.tideCount cyc frac.toNat, ((s.berth b.val).lastRx.getD (0, 0)).1, ((s.berth b.val).lastRx.getD (0, 0)).2, (s.berth b.val).lastRx.isSome, s.tide.running, s.tide.holdover, BitVec.ofNat 8 b.val⟩)).modBerth b.val (fun y => { y with alignAt := some s.tide.periods, answer := match y.lastRx with | some (d, a) => some ((mkStamp s.tideCount cyc frac.toNat).toNat, d.toNat, a.toNat) | none => y.answer, lastRx := none }))) ∧
  (∀ (b : Berth) (c : AlignCell) (cyc : Nat) (frac : BitVec 4) (v t : State) (s : State), (s.berth b.val).up = true →
    (s.berth b.val).eth = false →
    s.berthSafe b.val = false →
    s.tide.beyondStamp cyc = false →
    v = s.modBerth b.val (fun y => y.noteAlign s.tide.periods (s.isParent b.val)) →
    t = (if c.counting then v.modBerth b.val (fun y => { y with lastAlign := some (c, s.tide.start + cyc) }) else v) →
    exec (.align b c cyc frac false) s = .next (((if t.tide.running && c.counting then t.checkTide b.val c.dep (mkStamp s.tideCount cyc frac.toNat) else t).exchange b.val c).modBerth b.val (fun y => { y with lastRx := some (c.dep, mkStamp s.tideCount cyc frac.toNat) }))) ∧
  (∀ (s : State), s.tide.counting = true →
    s.tide.running = true →
    s.tide.cfg.mode = modeGenerate →
    64 ≤ s.tide.sincePrimary →
    exec (.exchangeTimeout) s = .next (if s.tide.cfg.backup.toNat = 0xFFFF ∨ 64 ≤ s.tide.sinceBackup then s.enterHoldover else s.modTide (fun t => { t with onBackup := true }))) ∧
  (∀ (s : State), s.tide.counting = true →
    s.tide.running = false →
    s.tide.cfg.mode = modeGenerate →
    64 ≤ s.tide.sincePrimary →
    s.tide.onBackup = false →
    s.tide.cfg.backup.toNat ≠ 0xFFFF →
    exec (.exchangeTimeout) s = .next (s.modTide (fun t => { t with onBackup := true }))) ∧
  (∀ (h : Half) (eng : Fin 20) (tile : Fin 8) (k : Nat) (u : TileWork) (t : State) (s : State), k = tileKey h eng.val tile.val →
    (s.tile k).running = some u →
    t = ((s.modTile k (fun t => { t with running := none })).raiseWith h (s.physEng h eng.val) (engineDetail (s.tile k).phys 3 0xFFFF u.sid)).modTide (fun t => { t with overrun := true, overruns := satAdd 32 t.overruns 1 }) →
    exec (.tideOverrun h eng tile) s = .next (match u with | .chunk n c => if (t.stream n).state = .live then t.askAbort n ⟨4, BitVec.ofNat 16 c, 0xFF, false, none⟩ else t | .shard key _ => t.modShard key (fun y => y.endStep 3) | .other => t.modTile k (fun y => match y.draining with | some d => { y with drainsWaiting := d :: y.drainsWaiting, draining := none } | none => y)))

/-- TIDE_NOW_LO_READ and FAULT_WORD_READ answer and capture (02 R55, 13 R343). -/
def Obligations.CapturingReadsComplete : Prop :=
  (∀ (who : BitVec 4) (cyc : Nat) (s : State), s.portOk who = true →
    s.tide.running = true →
    exec (.tideNowLoRead who cyc) s = .next ((s.modTide (fun t => { t with capHi := BitVec.ofNat 16 (s.now.toNat / 2 ^ 32), capCycle := BitVec.ofNat 12 (min cyc 4095) })).answer who.toNat [BitVec.ofNat 32 s.now.toNat])) ∧
  (∀ (who : BitVec 4) (cyc : Nat) (s : State), s.portOk who = true →
    s.tide.running = false →
    exec (.tideNowLoRead who cyc) s = .next ((s.modTide (fun t => { t with capHi := 0, capCycle := 0 })).answer who.toNat [0])) ∧
  (∀ (who : BitVec 4) (s : State), s.portOk who = true →
    exec (.faultWordRead who 0) s = .next ((s.modHalf .east (fun x => { x with lightCap := BitVec.ofNat 32 ((s.lighthouse .east).toNat / 2 ^ 32) })).answer who.toNat [BitVec.ofNat 32 (s.lighthouse .east).toNat])) ∧
  (∀ (who : BitVec 4) (s : State), s.portOk who = true →
    exec (.faultWordRead who 1) s = .next ((s.modHalf .west (fun x => { x with lightCap := BitVec.ofNat 32 ((s.lighthouse .west).toNat / 2 ^ 32) })).answer who.toNat [BitVec.ofNat 32 (s.lighthouse .west).toNat])) ∧
  (∀ (who : BitVec 4) (s : State), s.portOk who = true →
    exec (.faultWordRead who 2) s = .next ((s.modFault (fun f => { f with pkgCap := BitVec.ofNat 32 (s.pkgWord.toNat / 2 ^ 32) })).answer who.toNat [BitVec.ofNat 32 s.pkgWord.toNat]))

/-- The events of the reduction engines take effect (04 R88, 04 R93, 04 R98, 04 R112, 04 R114, 05 R124, 05 R132, 06 R158). The next
states are those of the model, whose choices here are log entries 2, 5, 16, 18, 19, 30, 66, 73, 78, 79, 80, 81, 82, 83, 89, 91,
92, 93, 94, 95, 109. -/
def Obligations.EngineEventsComplete : Prop :=
  (∀ (h : Half) (eng : Fin 20) (tile : Fin 8) (cyc k : Nat) (w : CellWork) (m : ManifestCfg) (ph : Half) (p : Pkt) (err : Option TileFault) (s : State), k = tileKey h eng.val tile.val →
    s.blocked k cyc 3 = false →
    s.nextCell k = some w →
    s.mfst w.sid = some m →
    s.findPkt w.pid = some (ph, p) →
    s.cellFresh w = true →
    s.fits k cyc (1 + s.cellExtra w) = true →
    exec (.contributionCell h eng tile cyc err) s = .next ((let jr := (s.rankEntry h m p.hdr.rank).2; let t := ((p.hdr.cellElems w.idx).foldl (fun s j => s.placeElem w.sid m p jr k j) (s.charge k (1 + s.cellExtra w) (.chunk w.sid p.hdr.chunk))).cellTaken k w; if m.isLse then t.mergeLeaf w.sid m p.hdr.chunk k else t).workFault k k w.sid m p.hdr.chunk err)) ∧
  (∀ (h : Half) (eng : Fin 20) (tile : Fin 8) (cyc k : Nat) (w : CellWork) (m : ManifestCfg) (ph : Half) (p : Pkt) (err : Option TileFault) (s : State), k = tileKey h eng.val tile.val →
    s.blocked k cyc 3 = false →
    s.nextCell k = some w →
    s.mfst w.sid = some m →
    s.findPkt w.pid = some (ph, p) →
    s.cellFresh w = false →
    s.fits k cyc 1 = true →
    exec (.contributionCell h eng tile cyc err) s = .next ((((s.charge k 1 .other).modStat w.sid ph (fun x => { x with stale := satAdd 32 x.stale 1 })).dropCells w.pid).consume ph w.pid)) ∧
  (∀ (h : Half) (eng : Fin 20) (tile : Fin 8) (slot : Fin 16) (cyc k : Nat) (e : Nat × ChunkSlot) (m : ManifestCfg) (err : Option TileFault) (s : State), k = tileKey h eng.val tile.val →
    s.blocked k cyc 2 = false →
    s.fits k cyc costSpill = true →
    (s.tile k).slots.find? (fun e => e.1 % 16 == slot.val && (s.mfst e.2.sid).any (fun m => (s.stream e.2.sid).state == .live && s.needsSpill m e.2 k)) = some e →
    s.mfst e.2.sid = some m →
    exec (.spill h eng tile slot cyc err) s = .next (((s.charge k costSpill (.chunk e.2.sid e.2.chunk)).spillSlot e.2.sid m e.2.chunk k).workFault k k e.2.sid m e.2.chunk err)) ∧
  (∀ (sid : Sid) (chunk : U16) (srcHalf : Half) (srcEng : Fin 20) (srcTile : Fin 8) (cyc j k : Nat) (m : ManifestCfg) (err : Option TileFault) (s : State), j = tileKey srcHalf srcEng.val srcTile.val →
    s.mfst sid.toNat = some m →
    m.windowTiles.find? (fun k => s.nextKid sid.toNat m chunk.toNat k == some j) = some k →
    s.blocked k cyc 2 = false →
    s.combineOver sid.toNat m chunk.toNat k j = false →
    s.fits k cyc (s.combineCost sid.toNat m chunk.toNat j) = true →
    exec (.treeCombine sid chunk srcHalf srcEng srcTile cyc err) s = .next (((s.charge k (s.combineCost sid.toNat m chunk.toNat j) (.chunk sid.toNat chunk.toNat)).combinePartial sid.toNat m chunk.toNat k j).workFault k j sid.toNat m chunk.toNat err)) ∧
  (∀ (sid : Sid) (chunk : U16) (cyc : Nat) (m : ManifestCfg) (s : State), s.mfst sid.toNat = some m →
    s.convReady sid.toNat m chunk.toNat = true →
    s.blocked m.root cyc 1 = false →
    s.fits m.root cyc costConvert = true →
    exec (.outputConversion sid chunk cyc none) s = .next (((s.charge m.root costConvert (.chunk sid.toNat chunk.toNat)).convert sid.toNat m chunk.toNat).sendCarry sid.toNat m chunk.toNat)) ∧
  (∀ (sid : Sid) (chunk : U16) (cyc : Nat) (m : ManifestCfg) (f : TileFault) (s : State), s.mfst sid.toNat = some m →
    s.convReady sid.toNat m chunk.toNat = true →
    s.blocked m.root cyc 1 = false →
    s.fits m.root cyc costConvert = true →
    exec (.outputConversion sid chunk cyc (some f)) s = .next ((s.charge m.root costConvert (.chunk sid.toNat chunk.toNat)).workFault m.root m.root sid.toNat m chunk.toNat (some f))) ∧
  (∀ (sid : Sid) (chunk : U16) (m : ManifestCfg) (s : State), s.mfst sid.toNat = some m →
    m.fuse ≠ 0 →
    (s.stream sid.toNat).state = .live →
    chunk.toNat < m.chunkCount →
    ((s.stream sid.toNat).chunk chunk.toNat).fuseLoaded = false →
    exec (.fuseOperandLoad sid chunk) s = .next (s.loadFuse sid.toNat m chunk.toNat)) ∧
  (∀ (h : Half) (eng : Fin 20) (tile : Fin 8) (cyc k : Nat) (d : DrainFor) (rest : List DrainFor) (s : State), k = tileKey h eng.val tile.val →
    (s.tile k).drainsWaiting = d :: rest →
    (s.tile k).draining = none →
    s.fits k cyc costDrain = true →
    exec (.drain h eng tile cyc) s = .next ((s.charge k costDrain .other).modTile k (fun t => { t with drainsWaiting := rest, draining := some d }))) ∧
  (∀ (h : Half) (eng : Fin 20) (tile : Fin 8) (k : Nat) (d : DrainFor) (s : State), k = tileKey h eng.val tile.val →
    (s.tile k).draining = some d →
    exec (.drainDone h eng tile) s = .next (match d with | .read id => (s.modTile k (fun t => { t with draining := none })).finishTileRead id | .substitution p => (s.modTile k (fun t => { t with draining := none })).substitute k p | _ => s.modTile k (fun t => { t with draining := none }))) ∧
  (∀ (h : Half) (index : BitVec 20) (chunk : U16) (eng : Fin 20) (tile : Fin 8) (cyc key k : Nat) (x : ShardSt) (r : Recipe) (rc : RecChunk) (ue : Option (BitVec 41)) (s : State), key = shardKey h index.toNat →
    k = tileKey h eng.val tile.val →
    s.shard? key = some x →
    x.state = 2 →
    s.blocked k cyc 4 = false →
    x.image ∉ (s.job x.job).imageBad →
    s.imageOf x = some r →
    s.nextSection x chunk.toNat eng.val tile.val = some rc →
    (!rc.quant && rc.pc == 0 && x.stamped chunk.toNat (s.job x.job).step.toNat) = false →
    exec (.recipeOperation h index chunk eng tile cyc ue) s = .next (s.runRecipe key x r chunk.toNat rc k cyc ue))

/-- The events of streams take effect (05 R120, 05 R124, 05 R126, 05 R136, 05 R147, 06 R159, 06 R168). The next states are those of
the model, whose choices here are log entries 19, 22, 61, 85, 107. -/
def Obligations.StreamEventsComplete : Prop :=
  (∀ (h : Half) (pid : Nat) (p : Pkt) (s : State), s.readyPkt h pid 1 = some p →
    s.queuedPkt pid = false →
    exec (.contributionPacket h pid) s = .next (s.contribution h p)) ∧
  (∀ (h : Half) (sid : Sid) (t : State) (s : State), sid.toNat ∈ (s.half h).mcache.fetching →
    t = s.modHalf h (fun x => { x with mcache := x.mcache.fill sid.toNat }) →
    exec (.manifestFetch h sid) s = .next (((t.half h).pkts.filter (fun p => p.missed && p.toSelf && p.hdr.sid == sid.toNat && p.hdr.kind == 1 && !t.queuedPkt p.id)).foldl (fun s p => s.contribution h p) t)) ∧
  (∀ (h : Half) (pid : Nat) (p : Pkt) (s : State), s.readyPkt h pid 2 = some p →
    exec (.resultPacket h pid) s = .next (s.resultIn h p)) ∧
  (∀ (sid : Sid) (chunk : U16) (m : ManifestCfg) (t : TideNo) (s : State), s.mfst sid.toNat = some m →
    ((s.stream sid.toNat).chunk chunk.toNat).clock = some t →
    (s.stream sid.toNat).state = .live →
    tideReached (s.now + 1) (t + BitVec.ofNat 48 m.patience) = true →
    s.chunkHere sid.toNat m chunk.toNat = false →
    exec (.patienceExpiry sid chunk) s = .next (s.modChunk sid.toNat chunk.toNat (fun ch => { ch with expired := true }))) ∧
  (∀ (sid : Sid) (s : State), (s.stream sid.toNat).state = .fencing →
    (s.east.pkts ++ s.west.pkts).any (fun p => p.ofStream sid.toNat) = false →
    s.tiles.any (fun e => e.2.draining == some (.abort sid.toNat) || e.2.drainsWaiting.contains (.abort sid.toNat)) = false →
    (s.stream sid.toNat).resends = [] →
    exec (.streamFenceEmpty sid) s = .next (s.modStream sid.toNat (fun x => { x with fenceEmpty := true }))) ∧
  (∀ (sid : Sid) (t : TideNo) (s : State), (s.stream sid.toNat).state = .fencing →
    (s.stream sid.toNat).torn = some t →
    tideReached s.now (t + 64) = true →
    exec (.teardownDeadline sid) s = .next ([Half.east, Half.west].foldl (fun s h => ((s.half h).pkts.filter (fun p => p.ofStream sid.toNat)).foldl (fun s p => (s.modStat sid.toNat h (fun x => { x with discarded := satAdd 32 x.discarded p.cells })).dropPkt h p.id) s) s)) ∧
  (∀ (addr : U32) (t : State) (s : State), s.peerGone addr.toNat = true →
    t = { s with lost := Tab.set s.lost addr.toNat s.now } →
    exec (.peerLost addr) s = .next (t.streams.foldl (fun s e => match e.2.cfg with | some m => if e.2.state = .live ∧ addr ∈ s.peersOf m then s.askAbort e.1 ⟨6, BitVec.ofNat 16 (s.lowestOpen e.1 m), 0xFF, false, none⟩ else s | none => s) t))

/-- The control cells of streams that reach this switch take effect (05 R133, 05 R135, 05 R137, 05 R140, 06 R154). The next states
are those of the model, whose choices here are log entries 61, 62, 68, 73. -/
def Obligations.StreamCellsComplete : Prop :=
  (∀ (c : Ctrl) (sid : Sid) (gen : Byte) (t : State) (m : ManifestCfg) (s : State), s.ctrlIn c (.streamStart sid gen) = (t, true) →
    t.mfst sid.toNat = some m →
    m.hasDown = true →
    c.src = m.downAddr →
    exec (.streamStart c sid gen) s = .next ((t.modStream sid.toNat (fun x => { x with startSeen := some gen })).flushStream sid.toNat gen)) ∧
  (∀ (c : Ctrl) (sid : Sid) (gen : Byte) (failChunk : U16) (status : BitVec 4) (t : State) (m : ManifestCfg) (s : State), s.ctrlIn c (.streamAbort sid gen failChunk status) = (t, true) →
    t.mfst sid.toNat = some m →
    (t.stream sid.toNat).gen = gen →
    (t.stream sid.toNat).state = .live →
    c.src ∈ t.peersOf m →
    2 ≤ status →
    status ≤ 8 →
    exec (.streamAbortCell c sid gen failChunk status) s = .next (t.askAbort sid.toNat ⟨status, failChunk, 0xFF, true, some c.src⟩)) ∧
  (∀ (c : Ctrl) (sid : Sid) (gen : Byte) (failChunk : U16) (t : State) (m : ManifestCfg) (s : State), s.ctrlIn c (.poison sid gen failChunk) = (t, true) →
    t.mfst sid.toNat = some m →
    (t.stream sid.toNat).gen = gen →
    ((t.stream sid.toNat).state = .live ∨ (t.stream sid.toNat).state = .retaining) →
    ((2 ≤ m.ringN ∧ c.src = m.upAddr) ∨ c.src ∈ t.childAddrs m) →
    exec (.poison c sid gen failChunk) s = .next (t.askAbort sid.toNat ⟨2, failChunk, 0xFF, true, none⟩)) ∧
  (∀ (c : Ctrl) (sid : Sid) (gen : Byte) (chunk count : U16) (t : State) (m : ManifestCfg) (good : Nat → Bool) (s : State), s.ctrlIn c (.resultAck sid gen chunk count) = (t, true) →
    t.mfst sid.toNat = some m →
    (t.stream sid.toNat).gen = gen →
    count ≠ 0 →
    c.src ∈ t.consumers m →
    good = (fun i => ((t.stream sid.toNat).chunk i).released && !((t.stream sid.toNat).chunk i).freed) →
    exec (.resultAck c sid gen chunk count) s = .next (((rangeFrom chunk.toNat count.toNat).filter good).foldl (fun s i => (s.modChunk sid.toNat i (fun ch => { ch with acks := insertNew c.src.toNat ch.acks })).freeAcked sid.toNat m i) (if (rangeFrom chunk.toNat count.toNat).all good then t else t.badCell sid.toNat m))) ∧
  (∀ (c : Ctrl) (sid : Sid) (gen : Byte) (chunk : U16) (elemOff : BitVec 12) (seg : BitVec 2) (t : State) (m : ManifestCfg) (s : State), s.ctrlIn c (.resendReq sid gen chunk elemOff seg) = (t, true) →
    (t.stream sid.toNat).cfg = some m →
    ((t.stream sid.toNat).state = .live ∨ (t.stream sid.toNat).state = .retaining) →
    (t.stream sid.toNat).gen = gen →
    m.releaser = true →
    ((t.stream sid.toNat).chunk chunk.toNat).freed = false →
    ((t.stream sid.toNat).chunk chunk.toNat).retained.any (fun p => p.elemOff == elemOff.toNat && p.seg == seg.toNat) = true →
    exec (.resendReq c sid gen chunk elemOff seg none) s = .next (t.modStream sid.toNat (fun x => { x with resends := x.resends ++ [⟨c.src, chunk.toNat, elemOff.toNat, seg.toNat⟩] }))) ∧
  (∀ (c : Ctrl) (sid : Sid) (gen : Byte) (chunk : U16) (elemOff : BitVec 12) (seg : BitVec 2) (addr : BitVec 33) (t u : State) (m : ManifestCfg) (s : State), s.ctrlIn c (.resendReq sid gen chunk elemOff seg) = (t, true) →
    (t.stream sid.toNat).cfg = some m →
    ((t.stream sid.toNat).state = .live ∨ (t.stream sid.toNat).state = .retaining) →
    (t.stream sid.toNat).gen = gen →
    m.releaser = true →
    ((t.stream sid.toNat).chunk chunk.toNat).freed = false →
    ((t.stream sid.toNat).chunk chunk.toNat).retained.any (fun p => p.elemOff == elemOff.toNat && p.seg == seg.toNat) = true →
    u = t.raiseWith m.home 36 (accessDetail (m.home.num * 2 ^ 33 + addr.toNat)) →
    exec (.resendReq c sid gen chunk elemOff seg (some addr)) s = .next ((if c.src ∈ u.poisonDests m then u else u.sendCtrl c.src m.job (.poison sid gen chunk)).askAbort sid.toNat ⟨2, chunk, 0xFF, false, none⟩))

/-- The events of a RESHARD round take effect (06 R165, 06 R166, 07 R172). The next states are those of the model, whose choices
here are log entries 26, 71, 88. -/
def Obligations.ReshardEventsComplete : Prop :=
  (∀ (h : Half) (pid : Nat) (p : Pkt) (cid : Nat) (j : CollSt) (r : ReshardSt) (s : State), s.readyPkt h pid 5 = some p →
    s.reshardOf p.hdr.job = some (cid, j, r) →
    r.writing = false →
    exec (.reshardPacket h pid) s = .next (((s.stage cid (bitsOf p.hdr.param 0 41) ((p.payload.drop 64).take p.hdr.elems)).modReshard cid (fun r => { r with sources := insertNew (addrSwitch p.hdr.src) r.sources })).consume h pid)) ∧
  (∀ (c : Ctrl) (round : U32) (t : State) (cid : Nat) (j : CollSt) (r : ReshardSt) (s : State), s.ctrlIn c (.reshardEnd round) = (t, true) →
    t.reshardOf c.job.toNat = some (cid, j, r) →
    r.round = round →
    exec (.reshardEnd c round) s = .next (t.modReshard cid (fun r => { r with ends := insertNew (addrSwitch c.src.toNat) r.ends }))) ∧
  (∀ (cid : BitVec 12) (entry : Nat) (r : ReshardSt) (e : ReshardEntry) (t : State) (s : State), (s.coll cid.toNat).reshard = some r →
    r.entries[entry]? = some e →
    e.sent = false →
    r.writing = false →
    (s.coll cid.toNat).state = 3 →
    t = ((if (s.job (s.coll cid.toNat).job).inHold e.srcAddr e.length then (List.range (e.length / 4096)).map (fun i => 4096 * i) else []).foldl (fun (u : State) o => if addrSwitch e.dstSwitch.toNat == addrSwitch s.own then u.stage cid.toNat (e.dstAddr + o) (u.holdRead (s.coll cid.toNat).job (e.srcAddr + o) 4096) else u.inject (holdHalf e.srcAddr) ((u.half (holdHalf e.srcAddr)).stackPort (holdStack e.srcAddr)) (u.reshardHdr (s.coll cid.toNat) e.dstSwitch (e.dstAddr + o) 4096) (u.holdRead (s.coll cid.toNat).job (e.srcAddr + o) 4096) false) s).modReshard cid.toNat (fun r => { r with entries := setAt r.entries entry { e with sent := true } }) →
    exec (.reshardReadDone cid entry) s = .next (if addrSwitch e.dstSwitch.toNat == addrSwitch s.own || r.entries.zipIdx.any (fun x => x.2 != entry && x.1.dstSwitch == e.dstSwitch && !x.1.sent) then t else t.sendCtrlAt (holdHalf e.srcAddr) e.dstSwitch (s.coll cid.toNat).job (.reshardEnd r.round))) ∧
  (∀ (cid : BitVec 12) (r : ReshardSt) (s : State), (s.coll cid.toNat).reshard = some r →
    (s.coll cid.toNat).state = 3 →
    r.ready = true →
    r.writing = false →
    exec (.reshardWritePhase cid) s = .next (s.modReshard cid.toNat (fun r => { r with writing := true }))) ∧
  (∀ (cid : BitVec 12) (r : ReshardSt) (s : State), (s.coll cid.toNat).reshard = some r →
    (s.coll cid.toNat).state = 3 →
    r.writing = true →
    exec (.reshardWriteDone cid) s = .next ((r.staging.foldl (fun (u : State) e => if (u.job (s.coll cid.toNat).job).inHold e.1 e.2.length && !u.halfSafe (holdHalf e.1) then u.holdWrite (s.coll cid.toNat).job e.1 e.2 else u) s).endReshard cid.toNat 4)) ∧
  (∀ (cid : BitVec 12) (r : ReshardSt) (s : State), (s.coll cid.toNat).reshard = some r →
    r.writing = false →
    tideReached s.now r.deadline = true →
    exec (.reshardTimeout cid) s = .next (s.endReshard cid.toNat 5))

/-- The events of gathers, prefetches and the patrol scrub take effect (07 R202, 07 R203, 07 R204, 13 R359). The next states are
those of the model, whose choices here are log entries 2, 12, 62, 73, 90. -/
def Obligations.GatherEventsComplete : Prop :=
  (∀ (c : Ctrl) (tensor first : BitVec 20) (count : U16) (version : TideNo) (dest : U32) (mcast : Bool) (t : State) (k : Nat) (x : ShardSt) (s : State), s.ctrlIn c (.gatherReq tensor first count version dest mcast) = (t, true) →
    t.fresh.2.gatherReason c.job.toNat tensor.toNat first.toNat count.toNat version = none →
    t.fresh.2.shardOf c.job.toNat tensor.toNat first.toNat count.toNat = some (k, x) →
    exec (.gatherReq c tensor first count version dest mcast) s = .next ({ t.fresh.2.gatherUp c.job.toNat version with gathers := (t.fresh.2.gatherUp c.job.toNat version).gathers ++ [{ id := t.nextId, job := c.job.toNat, shard := k, tensor := tensor.toNat, first := first.toNat, count := count.toNat, version := version, dest := dest, mcast := mcast, asked := t.now, waiting := decide (x.verOf version.toNat ≠ version), requester := some c.src, via := berthHalf c.berth.val }] })) ∧
  (∀ (gid : Nat) (g : Gather) (x : ShardSt) (s : State), s.gathers.find? (fun g => g.id == gid && !g.waiting) = some g →
    s.shard? g.shard = some x →
    exec (.gatherReadDone gid none) s = .next (({ s with gathers := s.gathers.filter (fun y => y.id != gid) }.serveRange x g.first g.count g.version g.dest.toNat g.mcast).gatherDown g.job g.version)) ∧
  (∀ (gid : Nat) (g : Gather) (x : ShardSt) (a : BitVec 41) (s : State), s.gathers.find? (fun g => g.id == gid && !g.waiting) = some g →
    s.shard? g.shard = some x →
    exec (.gatherReadDone gid (some a)) s = .next (((s.holdError a.toNat (accessDetail a.toNat)).dropGather g 5).modShard g.shard (fun y => { y with pPoison := true }))) ∧
  (∀ (gid : Nat) (g : Gather) (s : State), s.gathers.find? (fun g => g.id == gid && g.waiting) = some g →
    tideReached s.now (g.asked + 65536) = true →
    exec (.gatherTimeout gid) s = .next (s.dropGather g 6)) ∧
  (∀ (id : Nat) (p : Prefetch) (s : State), s.prefetches.find? (fun p => p.id == id) = some p →
    exec (.prefetchReadDone ⟨id, none⟩) s = .next (p.ranges.foldl (fun s r => s.servePrefetch p [] r) { s with prefetches := s.prefetches.filter (fun q => q.id != id) })) ∧
  (∀ (site : ScrubSite) (s : State), exec (.patrolScrub site .corrected) s = .next (s.raisePkg 28)) ∧
  (∀ (h : Half) (off : BitVec 33) (area : QuayArea) (s : State), exec (.patrolScrub (.quay h off area) .uncorrectable) s = .next ((s.raiseWith h 36 (scrubDetail (h.num * 2 ^ 33 + off.toNat))).quayError h off.toNat area)) ∧
  (∀ (id : Nat) (p : Prefetch) (a : BitVec 41) (t : State) (s : State), s.prefetches.find? (fun p => p.id == id) = some p →
    t = { s with prefetches := s.prefetches.filter (fun q => q.id != id) } →
    exec (.prefetchReadDone ⟨id, some a⟩) s = .next (p.ranges.foldl (fun s r => s.servePrefetch p (t.shardsAt a.toNat) r) ((t.holdError a.toNat (accessDetail a.toNat)).poisonAt a.toNat))) ∧
  (∀ (addr : BitVec 41) (s : State), exec (.patrolScrub (.hold addr) .uncorrectable) s = .next ((s.holdError addr.toNat (scrubDetail addr.toNat)).poisonAt addr.toNat)) ∧
  (∀ (addr : BitVec 41) (s : State), exec (.patrolScrub (.hold addr) .worn) s = .next ((s.raisePkg 28).logHoldRow addr.toNat))

/-- The events of the switch and its free stores take effect (09 R242, 09 R249, 09 R257, 09 R259, 09 R260). The next states are
those of the model, whose choices here are log entries 21, 23, 65, 97, 98. -/
def Obligations.SwitchEventsComplete : Prop :=
  (∀ (h : Half) (sub : Fin 384) (cw : U32) (head : List Byte) (b : Nat) (s : State), sub.val < 288 →
    inputBerth h sub.val = some b →
    cwType cw ≠ 3 →
    exec (.packetArrival h sub cw head) s = .next (s.berthArrive h sub.val b cw head)) ∧
  (∀ (h : Half) (sub : Fin 384) (cw : U32) (head : List Byte) (b : Nat) (s : State), sub.val < 288 →
    inputBerth h sub.val = some b →
    cwType cw = 3 →
    exec (.packetArrival h sub cw head) s = .next (s.ctrlArrive b cw (padTo 64 (head.take 64)))) ∧
  (∀ (h : Half) (sub : Fin 384) (cw : U32) (head : List Byte) (s : State), 288 ≤ sub.val →
    (s.half h).started = true →
    exec (.packetArrival h sub cw head) s = .next (s.bridgeArrive h (sub.val - 288))) ∧
  (∀ (h : Half) (pid : Nat) (p : Pkt) (t : State) (s : State), (s.half h).pkt? pid = some p →
    p.waiting = true →
    t = (s.allocatePkt h pid).launch h pid →
    exec (.palletAllocation h pid) s = .next (match inputBerth h p.input with | some b => if (t.berth b).eth then t.storeCheck b else t | none => t)) ∧
  (∀ (h : Half) (pid : Nat) (rest : List Byte) (crc : U32) (p : Pkt) (s : State), (s.half h).pkt? pid = some p →
    p.whole = false →
    p.feeder.isSome = false →
    exec (.packetReceivedWhole h pid rest crc) s = .next (s.receiveWhole h p rest crc)) ∧
  (∀ (h : Half) (pid : Nat) (rest : List Byte) (crc : U32) (p : Pkt) (s : State), (s.half h).pkt? pid = some p →
    p.whole = false →
    p.feeder.isSome = true →
    exec (.packetReceivedWhole h pid rest crc) s = .next (s.bridgeWhole h p)) ∧
  (∀ (h : Half) (s : State), (s.half h).started = true →
    exec (.schedulerGrain h) s = .next ((((s.modHalf h (fun x => HalfSt.admitCtrl x.ctrlWait.length x)).transfer h).dropAgedHost h).matching h)) ∧
  (∀ (h : Half) (p : PalletSt) (good : List Nat) (s : State), p = (s.half h).pool →
    p.built = true →
    p.p6 = false →
    p.cache.length < 1024 →
    1024 ≤ p.count →
    p.spanOk p.head = true →
    good = ((rangeFrom p.head 1024).map (fun i => leNat ((s.quay h).readBytes (p.entryAt i) 4))).filter (fun e => decide (e < 184320)) →
    exec (.freeRingFetch h) s = .next ((s.palletFault h .palletRange (1024 - good.length)).modHalf h (fun x => { x with pool := { x.pool with cache := x.pool.cache ++ good, head := (p.head + 1024) % 184320, count := p.count - 1024 } }))) ∧
  (∀ (h : Half) (p : PalletSt) (s : State), p = (s.half h).pool →
    p.built = true →
    p.p6 = false →
    p.cache.length < 1024 →
    1024 ≤ p.count →
    p.spanOk p.head = false →
    exec (.freeRingFetch h) s = .next (s.palletFault h .pageAlign 1)) ∧
  (∀ (h : Half) (s : State), exec (.freeMapAudit h) s = .next (s.audit h))

/-- The events of routing and discovery take effect (08 R229, 08 R230, 08 R232, 08 R233, 08 R234, 09 R238). The next states are
those of the model, whose choices here are log entries 28, 100. -/
def Obligations.FabricEventsComplete : Prop :=
  (∀ (bundle : Fin 16) (e : BundleE) (s : State), Tab.get? s.active.bundles bundle.val = some e →
    s.tide.running = true →
    s.active.bypass.getLsbD bundle.val = true →
    1 ≤ e.role →
    e.role ≤ 6 →
    e.berths.all (fun b => s.downFour b) = true →
    exec (.bypassEngage bundle) s = .next (s.modChart (fun c => { c with pBypass := c.pBypass ||| BitVec.ofNat 16 (2 ^ bundle.val) }))) ∧
  (∀ (s : State), s.chart.draining = true →
    tideReached s.now s.chart.drainEnd = true →
    s.holdsEpoch (!s.chart.epoch) = false →
    exec (.epochGateOpen) s = .next (s.modChart (fun c => { c with draining := false }))) ∧
  (∀ (t : TideNo) (s : State), s.chart.armT = some t →
    tideReached (s.now + 1) t = true →
    exec (.chartShadowArm) s = .next (s.modChart (fun c => { c with armed := true }))) ∧
  (∀ (b : Berth) (s : State), (s.berth b.val).up = true →
    (s.berth b.val).eth = false →
    s.berthSafe b.val = false →
    (∀ p, (s.berth b.val).discoverAt = some p → p + 256 ≤ s.tide.periods) →
    exec (.discoverTx b) s = .next ((s.sendLocal b.val 0 (.discover ⟨(match s.partOf b.val with | some e => e.2.addr | none => s.active.own), BitVec.ofNat 8 b.val, if (s.partOf b.val).isSome then 3 else 1, Config.serial, s.chart.epoch, s.quarantined b.val⟩)).modBerth b.val (fun y => { y with discoverAt := some s.tide.periods }))) ∧
  (∀ (b : Berth) (c : DiscoverCell) (s : State), (s.berth b.val).up = true →
    (s.berth b.val).eth = false →
    s.berthSafe b.val = false →
    exec (.discover b c) s = .next ((s.modBerth b.val (fun y => { y with seen := some c })).setOutcome b.val (match Tab.get? s.chart.plan b.val with | none => 1 | some p => if p.unused then 1 else if p.addr = c.addr ∧ p.berth.toNat = c.berth.toNat then 0 else 2))) ∧
  (∀ (b : Berth) (p : PlanE) (s : State), (s.berth b.val).up = true →
    (s.berth b.val).eth = false →
    (s.berth b.val).seen = none →
    Tab.get? s.chart.plan b.val = some p →
    p.unused = false →
    (s.berth b.val).outcome ≠ 3 →
    (s.berth b.val).upTide.toNat + 64 ≤ s.tide.periods →
    exec (.discoveryTimeout b) s = .next (s.setOutcome b.val 3)) ∧
  (∀ (h : Half) (j : Fin 96) (s : State), exec (.bridgeSubportRemoved h j false) s = .next ((s.raiseLine h 42).modHalves (fun _ x => { x with pBridgeDown := insertNew j.val x.pBridgeDown }))) ∧
  (∀ (h : Half) (j : Fin 96) (t : State) (s : State), t = (s.raiseLine h 42).modHalves (fun _ x => { x with pBridgeDown := insertNew j.val x.pBridgeDown }) →
    exec (.bridgeSubportRemoved h j true) s = .next ([Half.east, Half.west].foldl (fun s h => s.bridgeGone h (fun o => o == 288 + j.val)) t))

/-- CREDIT and THROTTLE take effect (10 R267, 10 R277). The next states are those of the model, whose choices here are log entries
24, 108. -/
def Obligations.CreditAndThrottleComplete : Prop :=
  (∀ (b : Berth) (job : Byte) (grants : List U16) (tide : TideNo) (s : State), (s.berth b.val).up = true →
    s.berthSafe b.val = false →
    exec (.credit b job grants tide) s = .next (s.modBerth b.val (fun y => { y with credit := (List.range 8).foldl (fun t vc => Tab.upd 0 t ((s.half (berthHalf b.val)).sendKey b.val vc job.toNat) (fun v => v + (grants.getD vc 0).toNat)) y.credit }))) ∧
  (∀ (c : Ctrl) (mask level : Byte) (dur : U16) (t : State) (s : State), s.ctrlIn c (.throttle mask level dur) = (t, true) →
    exec (.throttle c mask level dur) s = .next (t.modHalves (fun _ x => x.limit ⟨c.src, c.job, mask, level.toNat, t.now + 1 + dur.setWidth 48⟩)))

/-- The events of lanes and rounds take effect (11 R284, 11 R287, 11 R288, 11 R292, 11 R296, 11 R297, 11 R299, 11 R302). The next
states are those of the model, whose choices here are log entries 9, 27, 74. -/
def Obligations.LinkEventsComplete : Prop :=
  (∀ (b : Berth) (s : State), exec (.roundTx b) s = .next (s.txRound b.val)) ∧
  (∀ (b : Berth) (r : Round) (s : State), exec (.roundRx b r) s = .next (s.rxRound b.val r)) ∧
  (∀ (b : Berth) (point : BitVec 10) (s : State), (s.berth b.val).up = true →
    s.berthSafe b.val = false →
    exec (.linkAck b point) s = .next (s.linkNak b.val point)) ∧
  (∀ (b : Berth) (s : State), (s.berth b.val).up = true →
    (s.berth b.val).inRetry = true →
    exec (.nakRepeat b) s = .next (((s.sendLocal b.val 0 (.linkAck (s.berth b.val).ackRx)).bump .nakSent b.val).modBerth b.val (fun y => { y with retrySeen := true }))) ∧
  (∀ (b : Berth) (s : State), (s.berth b.val).up = true →
    (s.berth b.val).eth = false →
    (s.berth b.val).lstate ≠ 1 →
    (s.berth b.val).quiet + 2 ≤ s.tide.periods →
    exec (.roundTimeout b) s = .next (if s.tide.running then s.modBerth b.val (fun y => { y with pDown := true }) else s.berthDown b.val)) ∧
  (∀ (b : Berth) (serial : U64) (state : Byte) (s : State), exec (.train b serial state) s = .next ((s.notBreakwater b.val).rxTrain b.val state)) ∧
  (∀ (b : Berth) (s : State), (s.berth b.val).eth = false →
    (s.berth b.val).lstate ≠ 2 →
    s.lanesOn b.val = true →
    exec (.breakwater b) s = .next (s.rxBreakwater b.val)) ∧
  (∀ (b : Berth) (t : State) (s : State), t = s.notBreakwater b.val →
    (t.berth b.val).up = true →
    (t.berth b.val).lstate = 0 →
    t.isParent b.val = false →
    (t.berth b.val).dozeAsked = true →
    exec (.doze b true) s = .next (t.modBerth b.val (fun y => { y with lstate := 1, dozeAsked := false }))) ∧
  (∀ (b : Berth) (t : State) (s : State), t = s.notBreakwater b.val →
    (t.berth b.val).up = true →
    (t.berth b.val).lstate = 0 →
    t.isParent b.val = false →
    (t.berth b.val).isIdle = true →
    t.wanted b.val = false →
    exec (.doze b false) s = .next (t.modBerth b.val (fun y => { y with orderedSet := osDozeAck }))) ∧
  (∀ (b : Berth) (t : State) (s : State), t = s.notBreakwater b.val →
    (t.berth b.val).up = true →
    (t.berth b.val).lstate = 1 →
    exec (.wake b) s = .next (t.modBerth b.val (fun y => { y with lstate := 0 }))) ∧
  (∀ (b : Berth) (enter : Bool) (t : State) (s : State), t = s.notBreakwater b.val →
    (t.berth b.val).up = true →
    exec (.loop b enter) s = .next (t.modBerth b.val (fun y => { y with farLoop := enter }))) ∧
  (∀ (b : Berth) (lane : Fin 4) (spare : Fin 8) (cwcnt : BitVec 7) (r : SpareReq) (s : State), (s.berth b.val).spareReq = some r →
    r.lane = lane.val →
    r.spare = spare.val →
    r.at_ = cwcnt →
    exec (.spareOrderedSet b lane spare cwcnt true) s = .next (s.modBerth b.val (fun y => { y with spareReq := some { r with acked := true } }))) ∧
  (∀ (b : Berth) (lane : Fin 4) (spare : Fin 8) (cwcnt : BitVec 7) (s : State), (s.berth b.val).up = true →
    s.spareFree b.val = true →
    spare.val = spareOf b.val →
    (s.berth b.val).spareReq = none →
    exec (.spareOrderedSet b lane spare cwcnt false) s = .next (s.modBerth b.val (fun y => { y with spareReq := some ⟨lane.val, spare.val, cwcnt, 0, true⟩, orderedSet := osSpareAck }))) ∧
  (∀ (b : Berth) (lane : Fin 4) (s : State), (s.berth b.val).up = true →
    (((s.berth b.val).lane lane.val).failed = true → (s.berth b.val).spareReq.isSome = true) →
    exec (.laneLockLoss b lane) s = .next (s.failLane b.val lane.val)) ∧
  (∀ (b : Berth) (lane : Fin 4) (s : State), (s.berth b.val).up = true →
    ((s.berth b.val).lane lane.val).failed = true →
    (s.berth b.val).spareReq.isNone = true →
    exec (.laneLockLoss b lane) s = .next ((s.raiseBerth b.val 2 (laneCircuit b.val lane.val)).downEvent b.val)) ∧
  (∀ (b : Berth) (r : SpareReq) (s : State), (s.berth b.val).spareReq = some r →
    r.acked = true →
    (s.berth b.val).cwTx = r.at_ →
    exec (.spareSwitch b) s = .next (s.switchLane b.val r)) ∧
  (∀ (b : Berth) (r : SpareReq) (s : State), (s.berth b.val).spareReq = some r →
    r.acked = false →
    64 ≤ r.rounds →
    exec (.spareTimeout b) s = .next (s.modBerth b.val (fun y => { y with spareReq := none })))

/-- LASER_FAILOVER, DOZE_DELAY and LS2_EXIT_DONE take effect (11 R298, 11 R299, 11 R300). The next states are those of the model,
whose choices here are log entry 27. -/
def Obligations.LaserAndDozeComplete : Prop :=
  (∀ (oe : Fin 16) (s : State), (s.oe oe.val).feed = false →
    exec (.laserFailover oe true) s = .next ((((s.modOe oe.val (fun o => { o with primaryOk := false, standbyOk := true })).modOe oe.val (fun o => { o with feed := true, failoverSeen := true })).raisePkg 22).logRepair 8 oe.val 0 0 (BitVec.ofNat 16 (srcHalf (berthHalf (16 * oe.val)) (20 + oe.val % 8))))) ∧
  (∀ (oe : Fin 16) (s : State), exec (.laserFailover oe false) s = .next ((oeBerths oe.val).foldl (fun s b => s.downEvent b) (((s.modOe oe.val (fun o => { o with primaryOk := false, standbyOk := false })).raiseWith (berthHalf (16 * oe.val)) (20 + oe.val % 8) (BitVec.ofNat 64 (0xFFFF + 3 * 2 ^ 16))).logRepair 8 oe.val 0 0 (BitVec.ofNat 16 (srcHalf (berthHalf (16 * oe.val)) (20 + oe.val % 8)))))) ∧
  (∀ (b : Berth) (s : State), (s.berth b.val).up = true →
    (s.berth b.val).eth = false →
    (s.berth b.val).lstate = 0 →
    ((s.berth b.val).dozeAllowed = true ∨ s.sec.power = 1) →
    s.isParent b.val = false →
    (s.berth b.val).isIdle = true →
    s.wanted b.val = false →
    s.berthSafe b.val = false →
    (s.berth b.val).orderedSet = 0 →
    exec (.dozeDelay b) s = .next (s.modBerth b.val (fun y => { y with orderedSet := osDozeReq, dozeAsked := true }))) ∧
  (∀ (target : U16) (s : State), target.toNat < 16 →
    (s.oe target.toNat).relocking = true →
    exec (.ls2ExitDone target) s = .next ((oeBerths target.toNat).foldl (fun (s : State) b => s.modBerth b (fun y => { y with lstate := 3, trainTx := 0, readyRun := 0 })) (s.modOe target.toNat (fun o => { o with deep := false, relocking := false })))) ∧
  (∀ (target : U16) (s : State), 256 ≤ target.toNat →
    target.toNat < 260 →
    (s.berth target.toNat).lstate = 2 →
    (s.berth target.toNat).dozeAsked = true →
    exec (.ls2ExitDone target) s = .next ((s.modBerth target.toNat (fun y => { y with dozeAsked := false })).modBerth target.toNat (fun y => { y with lstate := 3, trainTx := 0, readyRun := 0 })))

/-- The events of Ethernet-mode berths take effect (11 R306, 11 R307). The next states are those of the model, whose choices here
are log entry 36. -/
def Obligations.EthernetEventsComplete : Prop :=
  (∀ (lsx : Fin 4) (f : EthFrame) (s : State), s.ethOn (lsxBerth lsx) = true →
    s.berthSafe (lsxBerth lsx) = false →
    s.tide.running = true →
    f.dstMac = (s.berth (lsxBerth lsx)).ownMac →
    f.etherType = (s.berth (lsxBerth lsx)).etherType →
    f.fcsOk = true →
    s.storeFill (lsxBerth lsx) + frameBytes f.payload.length ≤ 262144 →
    (Hdr.ofBytes (f.payload.take 64)).kind = 6 →
    f.payload.length = 64 * (1 + (Hdr.ofBytes (f.payload.take 64)).body) →
    exec (.ethernetFrame lsx f) s = .next (s.ethArrive (lsxBerth lsx) f.payload)) ∧
  (∀ (lsx : Fin 4) (f : EthFrame) (s : State), s.ethOn (lsxBerth lsx) = true →
    s.berthSafe (lsxBerth lsx) = false →
    s.tide.running = true →
    (f.dstMac ≠ (s.berth (lsxBerth lsx)).ownMac ∨ f.etherType ≠ (s.berth (lsxBerth lsx)).etherType) →
    exec (.ethernetFrame lsx f) s = .next (s.bump .ethDrop (lsxBerth lsx))) ∧
  (∀ (lsx : Fin 4) (quanta : U16) (s : State), s.ethOn (lsxBerth lsx) = true →
    s.berthSafe (lsxBerth lsx) = false →
    exec (.pauseFrame lsx quanta) s = .next (s.modBerth (lsxBerth lsx) (fun y => { y with paused := quanta != 0 }))) ∧
  (∀ (lsx : Fin 4) (t : TideNo) (s : State), (s.berth (lsxBerth lsx)).xoffAt = some t →
    s.ethOn (lsxBerth lsx) = true →
    tideReached s.now (t + 8) = true →
    65536 < s.storeFill (lsxBerth lsx) →
    exec (.pauseRepeat lsx) s = .next (s.modBerth (lsxBerth lsx) (fun y => { y with xoffAt := some s.now, pauseTx := y.pauseTx ++ [0xFFFF] }))) ∧
  (∀ (lsx : Fin 4) (s : State), exec (.pauseExpiry lsx) s = .next (s.modBerth (lsxBerth lsx) (fun y => { y with paused := false })))

/-- The events of the host port take effect (11 R308, 11 R310, 11 R311, 15 R388, 15 R390). The next states are those of the model,
whose choices here are log entries 6, 104. -/
def Obligations.HostEventsComplete : Prop :=
  (∀ (f : Fin 8) (producer rxConsumer : U32) (r : RingSt) (s : State), Tab.get? s.port.rings f.val = some r →
    r.running = true →
    s.tide.running = true →
    s.portOk (BitVec.ofNat 4 f.val) = true →
    (producer - r.txCons).toNat ≤ 2 ^ r.log2 →
    exec (.hostRingPoll f producer rxConsumer) s = .next (s.modPort (fun p => { p with rings := Tab.set p.rings f.val { r with txProd := producer, rxCons := if (r.rxProd - rxConsumer).toNat ≤ 2 ^ r.log2 then rxConsumer else r.rxCons } }))) ∧
  (∀ (f : Fin 8) (slot : List Byte) (cells : U16) (r : RingSt) (hd : Hdr) (t : State) (s : State), hd = Hdr.ofBytes (padTo 64 (slot.take 64)) →
    Tab.get? s.port.rings f.val = some r →
    r.running = true →
    r.waiting ≠ 0 →
    s.tide.running = true →
    s.west.inUse = true →
    s.halfSafe .west = false →
    s.portOk (BitVec.ofNat 4 f.val) = true →
    s.hostFault f.val hd cells.toNat = none →
    r.allows (2 * hd.tc 6) hd.cells = true →
    t = s.injectAs .west (128 + 8 * 17 + 4 + spreadIndex hd.spreadKey s.active.salt 4) true none hd ((slot.drop 64).take (64 * (hd.cells - 1))) false →
    (t.west.pkt? s.nextId).all (fun p => !p.waiting) = true →
    exec (.hostSlotFetch f slot cells) s = .next (t.slotDone f.val (2 * hd.tc 6) hd.cells)) ∧
  (∀ (f : Fin 8) (slot : List Byte) (cells : U16) (r : RingSt) (k : Ctr) (s : State), Tab.get? s.port.rings f.val = some r →
    r.running = true →
    r.waiting ≠ 0 →
    s.tide.running = true →
    s.west.inUse = true →
    s.halfSafe .west = false →
    s.portOk (BitVec.ofNat 4 f.val) = true →
    s.hostFault f.val (Hdr.ofBytes (padTo 64 (slot.take 64))) cells.toNat = some k →
    exec (.hostSlotFetch f slot cells) s = .next ((s.bump k (hostUnit f.val)).slotDone f.val 0 0)) ∧
  (∀ (f : Fin 8) (s : State), s.portOk (BitVec.ofNat 4 f.val) = true →
    exec (.functionLevelReset f) s = .next (((s.dropHostWrites (fun g => g == f.val)).receiverReset (BitVec.ofNat 4 f.val)).modPort (fun p => { p with rings := p.rings.map (fun e => if e.1 = f.val then (e.1, { e.2 with running := false, limits := [] }) else e) }))) ∧
  (∀ (s : State), exec (.perstN true) s = .next (s.hostPortDown.modBoot (fun b => { b with perstN := false }))) ∧
  (∀ (s : State), s.boot.resetN = true →
    exec (.perstN false) s = .next (s.modBoot (fun b => { b with perstN := true, hostPort := decide (4 ≤ b.stage.toNat) && s.west.restart == 0 })))

/-- The events of I3C and RGMII take effect (11 R308, 12 R318, 12 R319). The next states are those of the model, whose choices here
are log entry 31. -/
def Obligations.ManagementPortEventsComplete : Prop :=
  (∀ (bytes : List Byte) (off : Nat) (ws : List (List Byte)) (s : State), s.port.i3cAddr.isSome = true →
    s.portOk 8 = true →
    4 ≤ bytes.length →
    off = leNat (bytes.take 4) →
    ws = (if off % 4 = 0 then wholeWords (bytes.drop 4) else []) →
    exec (.i3cPrivateWrite bytes) s = .next ((s.writeWords 8 off ws).1.modPort (fun p => { p with i3cPtr := BitVec.ofNat 32 (off + 4 * ws.length) }))) ∧
  (∀ (words : Nat) (off : Nat) (s : State), s.port.i3cAddr.isSome = true →
    s.portOk 8 = true →
    off = s.port.i3cPtr.toNat →
    off % 4 = 0 →
    exec (.i3cPrivateRead words) s = .next (((s.readWords 8 off words).1.modPort (fun p => { p with i3cPtr := BitVec.ofNat 32 (off + 4 * words) })).answer 8 (s.readWords 8 off words).2.1)) ∧
  (∀ (words : Nat) (off : Nat) (s : State), s.port.i3cAddr.isSome = true →
    s.portOk 8 = true →
    off = s.port.i3cPtr.toNat →
    off % 4 ≠ 0 →
    exec (.i3cPrivateRead words) s = .next ((s.modPort (fun p => { p with i3cPtr := BitVec.ofNat 32 (off + 4 * words) })).answer 8 (List.replicate words 0))) ∧
  (∀ (addr : BitVec 7) (s : State), s.portOk 8 = true →
    exec (.entdaa addr) s = .next (s.modPort (fun p => { p with i3cAddr := match p.i3cAddr with | some a => some a | none => some addr }))) ∧
  (∀ (s : State), s.portOk 8 = true →
    exec (.rstdaa) s = .next ((s.modPort (fun p => { p with i3cAddr := none })).receiverReset 8)) ∧
  (∀ (tag : Byte) (offset : U32) (length : U16) (s : State), s.portOk 9 = true →
    rgmiiOk offset length = true →
    exec (.rgmiiRead tag offset length) s = .next ((s.readWords 9 offset.toNat (length.toNat / 4)).1.rgmii (if (s.readWords 9 offset.toNat (length.toNat / 4)).2.2 then .rgmiiError tag 2 else .rgmiiReply 0x81 tag (s.readWords 9 offset.toNat (length.toNat / 4)).2.1))) ∧
  (∀ (tag : Byte) (offset : U32) (length : U16) (s : State), s.portOk 9 = true →
    rgmiiOk offset length = false →
    exec (.rgmiiRead tag offset length) s = .next (s.rgmii (.rgmiiError tag 1))) ∧
  (∀ (tag : Byte) (offset : U32) (length : U16) (data : List Byte) (s : State), s.portOk 9 = true →
    rgmiiOk offset length = true →
    data.length = length.toNat →
    exec (.rgmiiWrite tag offset length data) s = .next ((s.writeWords 9 offset.toNat (wholeWords data)).1.rgmii (if (s.writeWords 9 offset.toNat (wholeWords data)).2 then .rgmiiError tag 2 else .rgmiiReply 0x82 tag []))) ∧
  (∀ (tag : Byte) (offset : U32) (length : U16) (data : List Byte) (s : State), s.portOk 9 = true →
    rgmiiOk offset length = false →
    exec (.rgmiiWrite tag offset length data) s = .next (s.rgmii (.rgmiiError tag 1))) ∧
  (∀ (ms : Nat) (s : State), 1 ≤ ms →
    exec (.rgmiiLinkDown ms) s = .next (s.receiverReset 9))

/-- The SPDM requests are answered (14 R373). The next states are those of the model, whose choices here are log entries 11, 14, 32. -/
def Obligations.AttestationComplete : Prop :=
  (∀ (p : SpdmPort) (s : State), s.spdmPort p = true →
    exec (.getVersion p) s = .next (s.rgmii (.spdm p spdmVersion [0x00, 0x13]))) ∧
  (∀ (p : SpdmPort) (s : State), s.spdmPort p = true →
    exec (.getCapabilities p) s = .next (s.rgmii (.spdm p spdmCapabilities (leBytes 4 0x16)))) ∧
  (∀ (p : SpdmPort) (asym hash : U32) (s : State), s.spdmPort p = true →
    exec (.negotiateAlgorithms p asym hash) s = .next (s.rgmii (.spdm p spdmAlgorithms (leBytes 4 (asym &&& 0x80).toNat ++ leBytes 4 (hash &&& 2).toNat)))) ∧
  (∀ (p : SpdmPort) (s : State), s.spdmPort p = true →
    exec (.getDigests p) s = .next (s.rgmii (.spdm p spdmDigests (bvBytes 48 (Config.sha384 Config.certChain))))) ∧
  (∀ (p : SpdmPort) (offset length : U16) (part : List Byte) (s : State), s.spdmPort p = true →
    part = (Config.certChain.drop offset.toNat).take length.toNat →
    exec (.getCertificate p 0 offset length) s = .next (s.rgmii (if Config.certChain.length ≤ offset.toNat then .spdmError p spdmInvalid else .spdm p spdmCertificate (leBytes 2 part.length ++ leBytes 2 (Config.certChain.length - offset.toNat - part.length) ++ part)))) ∧
  (∀ (p : SpdmPort) (slot : Byte) (offset length : U16) (s : State), s.spdmPort p = true →
    slot ≠ 0 →
    exec (.getCertificate p slot offset length) s = .next (s.rgmii (.spdmError p spdmInvalid))) ∧
  (∀ (p : SpdmPort) (nonce : BitVec 256) (s : State), s.spdmPort p = true →
    s.sec.identity = true →
    exec (.challenge p 0 nonce) s = .next (s.freeIx.2.rgmii (.dataObject p [] (some (Config.ecdsaSign keyIdentity (bvBytes 32 nonce) s.freeCtr))))) ∧
  (∀ (p : SpdmPort) (slot : Byte) (nonce : BitVec 256) (s : State), s.spdmPort p = true →
    s.sec.identity = false →
    exec (.challenge p slot nonce) s = .next (s.rgmii (.spdmError p spdmUnsupported))) ∧
  (∀ (p : SpdmPort) (index : Byte) (nonce : BitVec 256) (s : State), s.spdmPort p = true →
    1 ≤ index →
    index ≤ 6 →
    exec (.getMeasurements p index false nonce) s = .next (s.rgmii (.dataObject p [(index, s.measurement index.toNat)] none))) ∧
  (∀ (p : SpdmPort) (nonce : BitVec 256) (s : State), s.spdmPort p = true →
    exec (.getMeasurements p 0xFF false nonce) s = .next (s.rgmii (.dataObject p ([1, 2, 3, 4, 5, 6].map (fun i => (BitVec.ofNat 8 i, s.measurement i))) none))) ∧
  (∀ (p : SpdmPort) (index : Byte) (nonce : BitVec 256) (s : State), s.spdmPort p = true →
    s.sec.identity = true →
    1 ≤ index →
    index ≤ 6 →
    exec (.getMeasurements p index true nonce) s = .next (s.freeIx.2.rgmii (.dataObject p [(index, s.measurement index.toNat)] (some (Config.ecdsaSign keyIdentity (bvBytes 32 nonce ++ index :: s.measurement index.toNat) s.freeCtr)))))

/-- The instructions of the TAP take effect (11 R312, 11 R313, 13 R364, 14 R370, 16 R417). The next states are those of the model,
whose choices here are log entries 13, 33, 87. -/
def Obligations.TapInstructionsComplete : Prop :=
  (∀ (s : State), s.tapOn = true →
    exec (.bypass) s = .next (s.tapShift 0 [false])) ∧
  (∀ (s : State), s.tapOn = true →
    exec (.idcode) s = .next (s.tapShift 1 (bitsLsb 32 0x195099CB))) ∧
  (∀ (scanIn : List Bool) (s : State), s.tapOn = true →
    exec (.samplePreload scanIn) s = .next ((s.freeIx.2.tapShift 2 ((List.range scanIn.length).map (fun k => Config.scanBit s.freeCtr k))).modTap (fun t => { t with boundary := scanIn }))) ∧
  (∀ (scanIn : List Bool) (s : State), s.tapOn = true →
    exec (.extest scanIn) s = .next ((s.freeIx.2.tapShift 3 ((List.range scanIn.length).map (fun k => Config.scanBit s.freeCtr k))).modTap (fun t => { t with boundary := scanIn }))) ∧
  (∀ (s : State), s.tapOn = true →
    exec (.highz) s = .next (s.tapShift 4 [false])) ∧
  (∀ (s : State), s.tapOn = true →
    exec (.clamp) s = .next (s.tapShift 5 [false])) ∧
  (∀ (p : Fin 2) (halt : Bool) (s : State), s.debugAt 1 = true →
    exec (.debugHm p halt) s = .next ((s.haltCore p.val halt).freeIx.2.tapShift 0x10 (Config.scanData (s.haltCore p.val halt).freeCtr))) ∧
  (∀ (h : Half) (halt : Bool) (s : State), s.debugAt 1 = true →
    s.sec.power ≠ 2 →
    exec (.debugDep h halt) s = .next ((s.haltCore (2 + h.num) halt).freeIx.2.tapShift 0x11 (Config.scanData (s.haltCore (2 + h.num) halt).freeCtr))) ∧
  (∀ (h : Half) (s : State), s.debugAt 1 = true →
    s.sec.power ≠ 2 →
    exec (.scanHalf h) s = .next (s.freeIx.2.tapShift 0x12 (Config.scanData s.freeCtr))) ∧
  (∀ (h : Half) (offset : BitVec 33) (s : State), s.debugAt 1 = true →
    s.sec.power ≠ 2 →
    exec (.memPeek h offset) s = .next ((s.peekWord h offset.toNat).2.tapShift 0x13 (bitsLsb 32 (s.peekWord h offset.toNat).1))) ∧
  (∀ (source : U16) (t : State) (s : State), s.factoryOpen = true →
    (srcInfo source.toNat).isSome = true →
    source.toNat < 0x80 →
    t = s.modTap (fun x => { x with ir := 0x20, tdo := [], injected := x.injected ++ [source.toNat] }) →
    exec (.faultInj source) s = .next (t.raiseLine (Half.ofNum (source.toNat / 64)) (source.toNat % 64))) ∧
  (∀ (source : U16) (t : State) (s : State), s.factoryOpen = true →
    (srcInfo source.toNat).isSome = true →
    0x80 ≤ source.toNat →
    source.toNat < 0xC0 →
    t = s.modTap (fun x => { x with ir := 0x20, tdo := [], injected := x.injected ++ [source.toNat] }) →
    exec (.faultInj source) s = .next (t.raisePkg (source.toNat - 0x80))) ∧
  (∀ (source : U16) (t : State) (s : State), s.factoryOpen = true →
    (srcInfo source.toNat).isSome = true →
    0xC0 ≤ source.toNat →
    t = s.modTap (fun x => { x with ir := 0x20, tdo := [], injected := x.injected ++ [source.toNat] }) →
    exec (.faultInj source) s = .next (t.modFault (fun f => { f with mgmt := f.mgmt ||| BitVec.ofNat 9 (2 ^ (source.toNat - 0x100)), pMgmt := f.pMgmt ||| BitVec.ofNat 9 (2 ^ (source.toNat - 0x100)) }))) ∧
  (∀ (addr : U16) (value : U32) (s : State), s.factoryOpen = true →
    exec (.otpProg addr value) s = .next ((s.tapShift 0x21 []).modSec (fun x => { x with otp := Tab.upd 0 x.otp addr.toNat (fun w => w ||| value) }))) ∧
  (∀ (s : State), s.factoryOpen = true →
    exec (.secDebug) s = .next (s.freeIx.2.tapShift 0x22 (Config.scanData s.freeCtr))) ∧
  (∀ (s : State), exec (.trstN) s = .next ({ s with tap := {} }))

/-- The events of the mailbox take effect (12 R314, 12 R315, 12 R316, 12 R317, 12 R318, 12 R319, 12 R325, 12 R331). The next states
are those of the model, whose choices here are log entries 3, 110. -/
def Obligations.MailboxEventsComplete : Prop :=
  (∀ (who : BitVec 4) (ch : Fin 64) (len : BitVec 13) (s : State), s.portOk who = true →
    s.isSender ch.val who = true →
    (s.chan ch.val).full = false →
    1 ≤ len.toNat →
    len.toNat ≤ 4096 →
    exec (.doorbell who ch len) s = .next ((s.modChan ch.val (fun _ => { s.chan ch.val with full := true, len := len })).busError who false)) ∧
  (∀ (who : BitVec 4) (ch : Fin 64) (s : State), s.portOk who = true →
    s.isSender ch.val who = false →
    s.isReceiver ch.val who = true →
    exec (.mbCtrlRelease who ch) s = .next ((s.modChan ch.val (fun c => { c with full := false })).busError who false)) ∧
  (∀ (who : BitVec 4) (ch : Fin 64) (offset : BitVec 12) (data : List Byte) (s : State), s.portOk who = true →
    slotAccessOk who offset.toNat data.length = true →
    s.isSender ch.val who = true →
    (s.chan ch.val).full = false →
    exec (.mailboxSlotWrite who ch offset data) s = .next ((s.modMbox (fun m => { m with slots := m.slots.writeBytes (4096 * ch.val + offset.toNat) data })).busError who false)) ∧
  (∀ (who : BitVec 4) (ch : Fin 64) (offset : BitVec 12) (data : List Byte) (s : State), s.portOk who = true →
    slotAccessOk who offset.toNat data.length = true →
    s.isSender ch.val who = true →
    (s.chan ch.val).full = true →
    exec (.mailboxSlotWrite who ch offset data) s = .next ((s.modChan ch.val (fun c => { c with rejected := true })).busError who true)) ∧
  (∀ (who : BitVec 4) (s : State), s.portOk who = true →
    exec (.selfReset who) s = .next (s.receiverReset who)) ∧
  (∀ (who : BitVec 4) (offset : BitVec 20) (value : U32) (s : State), s.portOk who = true →
    offset.toNat % 4 = 0 →
    exec (.registerWrite who offset value) s = .next ((s.writeReg who offset.toNat value).1.busError who (s.writeReg who offset.toNat value).2)) ∧
  (∀ (ch : Fin 64) (s : State), exec (.replyPart ch) s = .next (s.postPart ch.val)) ∧
  (∀ (id : Nat) (job addr : Nat) (data : List Byte) (s : State), s.xferStarted id = true →
    Tab.get? s.mbox.xfers id = some (.holdWrite job addr data) →
    s.halfSafe (holdHalfOf addr) = false →
    exec (.moverTransferDone id) s = .next (((s.landWrite (.holdWrite job addr data)).modMbox (fun m => { m with xfers := Tab.erase m.xfers id })).finishWait (.transfer id) [])) ∧
  (∀ (id : Nat) (job addr len : Nat) (s : State), s.xferStarted id = true →
    Tab.get? s.mbox.xfers id = some (.holdRead job addr len) →
    exec (.moverTransferDone id) s = .next ((s.modMbox (fun m => { m with xfers := Tab.erase m.xfers id })).finishWait (.transfer id) (s.holdRead job addr len))) ∧
  (∀ (id : Nat) (h : Half) (addr : Nat) (data : List Byte) (s : State), s.xferStarted id = true →
    Tab.get? s.mbox.xfers id = some (.quayWrite h addr data) →
    exec (.moverTransferDone id) s = .next (((s.landWrite (.quayWrite h addr data)).modMbox (fun m => { m with xfers := Tab.erase m.xfers id })).finishWait (.transfer id) [])) ∧
  (∀ (id : Nat) (h : Half) (addr len : Nat) (s : State), s.xferStarted id = true →
    Tab.get? s.mbox.xfers id = some (.quayRead h addr len) →
    exec (.moverTransferDone id) s = .next ((s.modMbox (fun m => { m with xfers := Tab.erase m.xfers id })).finishWait (.transfer id) ((s.quay h).readBytes addr len))) ∧
  (∀ (id : Nat) (k first : Nat) (images : List (BitVec 128)) (s : State), s.xferStarted id = true →
    Tab.get? s.mbox.xfers id = some (.tileWrite k first images) →
    exec (.moverTransferDone id) s = .next (s.modMbox (fun m => { m with xferDone := insertNew id m.xferDone })))

/-- The events of faults, forces and fences take effect (13 R344, 13 R350, 13 R352, 13 R355, 13 R356, 13 R357, 14 R380, 14 R386, 16
R427). The next states are those of the model, whose choices here are log entries 29, 68, 106, 112. -/
def Obligations.FaultEventsComplete : Prop :=
  (∀ (block : Fin 9) (s : State), exec (.mgmtInterrupt block) s = .next (s.modFault (fun f => { f with mgmt := f.mgmt ||| BitVec.ofNat 9 (2 ^ block.val), pMgmt := f.pMgmt ||| BitVec.ofNat 9 (2 ^ block.val) }))) ∧
  (∀ (who : BitVec 4) (s : State), exec (.forcePkg who) s = .next (s.forceSafe who 0)) ∧
  (∀ (who : BitVec 4) (s : State), exec (.forceE who) s = .next (s.forceSafe who 1)) ∧
  (∀ (who : BitVec 4) (s : State), exec (.forceW who) s = .next (s.forceSafe who 2)) ∧
  (∀ (who : BitVec 4) (s : State), privileged who = true →
    exec (.ack who) s = .next (s.modFault (fun f => { f with faultN := false }))) ∧
  (∀ (p : Proc) (s : State), exec (.watchdog p) s = .next (s.procFails p)) ∧
  (∀ (p : Proc) (s : State), exec (.lockstepMismatch p) s = .next (s.procFails p)) ∧
  (∀ (h : Half) (s : State), exec (.latchLost h) s = .next ((s.modHalf h (fun x => { x with latchLost := true, latchSeen := 0 })).raiseLine h 47)) ∧
  (∀ (h : Half) (s : State), exec (.clock h) s = .next (s.raiseLine h 48)) ∧
  (∀ (h : Half) (s : State), exec (.pll h) s = .next (s.raisePkg 1)) ∧
  (∀ (rail : Fin 26) (s : State), exec (.voltage rail) s = .next (s.raisePkg 26)) ∧
  (∀ (sensor : Fin 18) (celsius : Nat) (s : State), s.watched sensor.val = true →
    exec (.tempHigh sensor celsius) s = .next (if 105 < celsius then (s.noteTemp sensor.val celsius).raisePkg 25 else s.noteTemp sensor.val celsius)) ∧
  (∀ (sensor : Fin 18) (celsius : Nat) (s : State), s.watched sensor.val = true →
    125 ≤ celsius →
    exec (.thermTrip sensor celsius) s = .next (((((s.noteTemp sensor.val celsius).raisePkg 25).raisePkg 2).modFault (fun f => { f with therm := true, thermtripN := true })).modSec (fun x => if x.power = 1 then { x with power := 0 } else x))) ∧
  (∀ (s : State), exec (.thermtripNDeassert) s = .next (s.modFault (fun f => { f with therm := false, thermtripN := false, hot := [] }))) ∧
  (∀ (o : FenceObj) (s : State), s.fault.fences.any (fun f => f.obj == o && f.active && !f.empty) = true →
    s.objEmpty o = true →
    exec (.fenceEmpty o) s = .next (s.modFault (fun f => { f with fences := f.fences.map (fun x => if x.obj = o then { x with empty := true } else x) }))) ∧
  (∀ (o : FenceObj) (f : FenceSt) (t : State) (s : State), s.fault.fences.find? (fun f => f.obj == o && f.active && !f.empty) = some f →
    tideReached s.now (f.boundary + 64) = true →
    t = [Half.east, Half.west].foldl (fun s h => ((s.half h).pkts.filter (fun p => pktOn h p o)).foldl (fun s p => (s.jobDrop p.hdr.job).dropPkt h p.id) s) ((s.liveOn o).foldl (fun s n => s.askAbort n ⟨7, 0xFFFF, 0xFF, false, none⟩) s) →
    exec (.fenceDeadline o) s = .next (match o with | .job j => { t with gathers := t.gathers.filter (fun g => g.job != j.toNat), prefetches := t.prefetches.filter (fun p => p.job != j.toNat) }.modJob j.toNat (fun x => { x with outstanding := [] }) | .berth b => (t.dropQueued b.val).modBerth b.val (fun y => { y with queue := [] }) | .engine _ _ => t))

/-- The events of security and of the supplies take effect (14 R367, 14 R375, 15 R388, 15 R402, 16 R411). The next states are those
of the model, whose choices here are log entries 1, 8, 72. -/
def Obligations.SecurityAndPowerEventsComplete : Prop :=
  (∀ (s : State), exec (.nonceExpiry) s = .next (s.modSec (fun x => { x with nonce := none }))) ∧
  (∀ (z : ZeroSt) (s : State), s.sec.zero = some z →
    z.keysGone = true →
    z.debugOpen = false →
    z.lifecycle = none →
    exec (.zeroizeDone) s = .next ((((s.zeroFill z).zeroUnfence z).modSec (fun x => { x with zero := none })).finishAt .zeroize)) ∧
  (∀ (z : ZeroSt) (t : State) (s : State), s.sec.zero = some z →
    z.keysGone = true →
    (z.debugOpen = true ∨ z.lifecycle.isSome = true) →
    t = ((((s.zeroFill z).zeroUnfence z).modSec (fun x => { x with zero := none })).modSec (fun x => { x with pDebug := if z.debugOpen then some 1 else x.pDebug, pLifecycle := match z.lifecycle with | some l => some l | none => x.pLifecycle })) →
    exec (.zeroizeDone) s = .next (if t.tide.running then t else t.securityAt)) ∧
  (∀ (group : Fin 5) (s : State), s.sec.power = 3 →
    s.boot.rails = group.val →
    group.val < 4 →
    exec (.powerOn group) s = .next (s.modBoot (fun b => { b with rails := group.val + 1, pwrEn := true, pgQuay := b.pgQuay || decide (4 ≤ group.val + 1), pgHold := b.pgHold || decide (5 ≤ group.val + 1), pgOe := b.pgOe || decide (5 ≤ group.val + 1) }))) ∧
  (∀ (s : State), s.sec.power = 3 →
    s.boot.rails = 4 →
    exec (.powerOn 4) s = .next ((s.modBoot (fun b => { b with rails := 5, pwrEn := true, pgQuay := true, pgHold := true, pgOe := true })).modSec (fun x => { x with power := 0 }))) ∧
  (∀ (s : State), s.boot.rails ≠ 0 →
    exec (.powerOff) s = .next ({ s.packageReset with tap := {}, quayE := [], quayW := [], fault := { log := s.fault.log, boots := s.fault.boots }, sec := { s.packageReset.sec with power := 3 }, boot := { s.packageReset.boot with rails := 0, pwrEn := false, pgHold := false, pgQuay := false, pgOe := false, perstN := false } })) ∧
  (∀ (level : Bool) (s : State), exec (.powerGood .hold level) s = .next (if s.boot.pgHold && !level && s.boot.pwrEn then (s.modBoot (fun b => { b with pgHold := level })).raisePkg 26 else s.modBoot (fun b => { b with pgHold := level }))) ∧
  (∀ (level : Bool) (s : State), exec (.powerGood .quay level) s = .next (if s.boot.pgQuay && !level && s.boot.pwrEn then (s.modBoot (fun b => { b with pgQuay := level })).raisePkg 26 else s.modBoot (fun b => { b with pgQuay := level }))) ∧
  (∀ (level : Bool) (s : State), exec (.powerGood .oe level) s = .next (if s.boot.pgOe && !level && s.boot.pwrEn then (s.modBoot (fun b => { b with pgOe := level })).raisePkg 26 else s.modBoot (fun b => { b with pgOe := level }))) ∧
  (∀ (lowNs : Nat) (s : State), 1000 ≤ lowNs →
    s.boot.rails = 5 →
    exec (.warmReset lowNs) s = .next s.packageReset)

/-- The events of start-up take effect (15 R388, 15 R389, 15 R391, 15 R392, 15 R393, 15 R394, 15 R395, 15 R397, 15 R398, 15 R403).
The next states are those of the model, whose choices here are log entries 7, 36, 46, 47, 48, 52, 55, 100, 101, 113. -/
def Obligations.StartupEventsComplete : Prop :=
  (∀ (t : State) (s : State), s.boot.resetN = false →
    s.boot.rails = 5 →
    t = (((s.modBoot (fun b => { b with resetN := true })).modFault (fun f => { f with boots := f.boots + 1 })).toStage 4).modTide (fun t => { t with counting := true }) →
    exec (.bootRom true true true true true) s = .next ((((t.modSec (fun x => { x with primaryB := false, dbg := if x.lifecycle = 1 then 2 else 0, halted := [] })).modMbox (fun m => { m with opened := true, chans := defaultBindings.map (fun e => (e.1, { bind := some e.2 })) })).modBoot (fun b => { b with hostPort := b.perstN })).toStage 5)) ∧
  (∀ (f : FlashView) (i : ImageInfo) (t : State) (s : State), s.boot.stage = 5 →
    s.mbox.uciReady = false →
    s.boot.waitHost = false →
    s.boot.failed = false →
    t = s.modBoot (fun b => { b with bank0 := s.bankSeen s.boot.bank0 f.bank0, bank1 := s.bankSeen s.boot.bank1 f.bank1, block := f.block }) →
    (if s.boot.committed then s.bankSeen s.boot.bank1 f.bank1 else s.bankSeen s.boot.bank0 f.bank0).good = some i →
    exec (.firmwareAuthentication f) s = .next ((if f.block.isSome then t else t.bootFail 0x32).startImage i s.boot.committed false)) ∧
  (∀ (h : Half) (s : State), s.atStage h 6 = true →
    s.boot.powerGood = true →
    (s.half h).started = false →
    (s.half h).stageDone < 6 →
    exec (.bist h true) s = .next ((((s.modHalf h (fun x => { x with started := true, stageDone := 6, restart := if x.restart = 0 then 0 else 7, badTiles := (s.repairedTiles h).foldl (fun l t => insertNew t l) [], badEngines := (s.repairedEngines h).foldl (fun l t => insertNew t l) [] })).mapHalf h).repairLanes h).stageEnds 6)) ∧
  (∀ (h : Half) (s : State), s.atStage h 6 = true →
    s.boot.powerGood = true →
    (s.half h).started = false →
    (s.half h).stageDone < 6 →
    exec (.bist h false) s = .next ((s.stayReset h 6 0x20).stageEnds 6)) ∧
  (∀ (h : Half) (stacksOk : Byte) (t : State) (s : State), s.atStage h 7 = true →
    (s.half h).started = true →
    (s.half h).trained = false →
    t = ((s.modQuay h (fun _ => [])).modHalf h (fun x => { x with trained := true, stageDone := 7, restart := if x.restart = 0 then 0 else 8 })).modBoot (fun b => match h with | .east => { b with eastUp := true } | .west => { b with westUp := true }) →
    exec (.memoryTraining h true stacksOk) s = .next (((List.range 8).foldl (fun (s : State) i => if stacksOk.getLsbD i then s.repairRows (8 * h.num + i) else s.losesStack h i) t).stageEnds 7)) ∧
  (∀ (feeds : List (Bool × Bool)) (due : List Half) (t : State) (s : State), due = s.lanesDue 8 →
    due ≠ [] →
    t = [256, 257, 258, 259].foldl (fun (s : State) b => s.ethUp b) ((((List.range 260).foldl (fun (s : State) b => if berthHalf b ∈ due then s.modBerth b (fun y => if y.up then y else { y with lstate := 3 }) else s) ((List.range 16).foldl (fun (s : State) k => if berthHalf (16 * k) ∈ due then s.bringUpOe k (feeds.getD k (false, false)) else s) s)).modBoot (fun b => { b with lanesUp := true, stagePeriod := ((List.range 260).foldl (fun (s : State) b => if berthHalf b ∈ due then s.modBerth b (fun y => if y.up then y else { y with lstate := 3 }) else s) ((List.range 16).foldl (fun (s : State) k => if berthHalf (16 * k) ∈ due then s.bringUpOe k (feeds.getD k (false, false)) else s) s)).tide.periods })).modHalves (fun _ x => if x.restart = 8 then { x with restart := 9 } else x)) →
    exec (.laneBringUp feeds) s = .next (if t.boot.stage = 8 then t.toStage 9 else t)) ∧
  (∀ (due : List Half) (bs : List Nat) (t : State) (s : State), due = [Half.east, Half.west].filter (fun h => s.atStage h 9) →
    bs = (List.range 260).filter (fun b => decide (berthHalf b ∈ due) && s.planned b) →
    due ≠ [] →
    bs.all (fun b => s.berthSettled b) = true →
    t = (bs.filter (fun b => (s.berth b).outcome == 4)).foldl (fun (s : State) b => s.setOutcome b 3) s →
    exec (.discovery) s = .next (let v := t.noteDegraded.modHalves (fun _ x => if x.restart = 9 then { x with restart := 10 } else x); if v.boot.stage = 9 then v.toStage 10 else v)) ∧
  (∀ (s : State), s.boot.stage = 10 →
    s.chartReady = true →
    s.boot.failed = false →
    s.dateLineClash s.chart.slot0 = false →
    exec (.chartLoad) s = .next (s.toStage 11)) ∧
  (∀ (t : State) (s : State), s.boot.stage = 11 →
    s.boot.failed = false →
    s.mbox.locked = false →
    t = ((s.modMbox (fun m => { m with locked := true, chans := (((s.boot.block.map (fun (c : ConfigBlock) => c.bindings)).getD []).filter (fun e => decide (32 ≤ e.1.val))).foldl (fun (t : Tab ChanSt) e => Tab.upd {} t e.1.val (fun c => { c with bind := some e.2 })) m.chans })).buildPool .east).buildPool .west →
    exec (.bindingTableLock) s = .next (if t.boot.failed then t else t.toStage 12)) ∧
  (∀ (now : Nat) (n : TideNo) (s : State), s.boot.stage = 12 →
    s.tideReady = true →
    s.boot.failed = false →
    s.tide.running = false →
    s.dateLineClash s.chart.slot0 = false →
    s.firstTideAt now = some n →
    exec (.firstTide now) s = .next (s.beginTides now n)) ∧
  (∀ (h : Half) (t : State) (s : State), (s.half h).restart = 10 →
    t = (({ (s.modHalf h (fun x => { x with restart := 0, tm := (s.half h.other).tm, tmShadow := (s.half h.other).tmShadow, tmArmed := (s.half h.other).tmArmed })) with streams := Tab.mapV (s.modHalf h (fun x => { x with restart := 0, tm := (s.half h.other).tm, tmShadow := (s.half h.other).tmShadow, tmArmed := (s.half h.other).tmArmed })).streams (fun _ x => match h with | .east => { x with statE := {} } | .west => { x with statW := {} }) } : State).buildPool h).modBoot (fun b => { b with stage := 0xD }) →
    exec (.halfRejoin h) s = .next (match h with | .east => t | .west => t.modBoot (fun b => { b with hostPort := b.perstN })))

/-- The events of Sampler mode take effect (17 R434, 17 R438, 17 R440, 17 R441). The next states are those of the model, whose
choices here are log entries 13, 50, 96, 99. -/
def Obligations.SamplerEventsComplete : Prop :=
  (∀ (part : Fin 4) (gen : Fin 16) (slot : Nat) (p : PartSt) (x : GenSt) (t : TideNo) (s : State), Tab.get? s.parts part.val = some p →
    Tab.get? p.gens gen.val = some x →
    p.startT = some t →
    p.running = true →
    x.over = false →
    tideReached s.now (x.due t).1 = true →
    (s.now = (x.due t).1 → (x.due t).2 ≤ slot) →
    exec (.generatorPacket part gen slot) s = .next (s.genSend part.val gen.val p x slot (s.now != (x.due t).1 || (x.due t).2 != slot))) ∧
  (∀ (b : Berth) (genId : Byte) (seq : U32) (departure : U64) (cyc : Nat) (frac : BitVec 4) (n : Nat) (p : PartSt) (t : State) (s : State), (s.berth b.val).up = true →
    s.berthSafe b.val = false →
    t = s.freeCredit (berthHalf b.val) (some (creditKey (berthPort b.val) 0)) 1 →
    t.partOf b.val = some (n, p) →
    exec (.mark b genId seq departure cyc frac) s = .next (t.modCheck n b.val (fun c => { c with markMin := some (match c.markMin with | some v => min v (stampSixteenths (mkStamp t.now.toNat cyc frac.toNat) - stampSixteenths departure) | none => stampSixteenths (mkStamp t.now.toNat cyc frac.toNat) - stampSixteenths departure), markMax := some (match c.markMax with | some v => max v (stampSixteenths (mkStamp t.now.toNat cyc frac.toNat) - stampSixteenths departure) | none => stampSixteenths (mkStamp t.now.toNat cyc frac.toNat) - stampSixteenths departure) }))) ∧
  (∀ (part : Fin 4) (g : GoldSt) (ps : List OutPkt) (t : State) (s : State), (Tab.get? s.parts part.val).bind (fun p => p.gold) = some g →
    g.ready = false →
    tideReached s.now g.begins = true →
    ps = s.goldResult g →
    t = ps.zipIdx.foldl (fun (s : State) e => s.quayWriteAt (g.out + storedBytes * e.2) (goldStored e.1)) s →
    exec (.goldenEvaluation part) s = .next (({ t with freeCtr := t.freeCtr + 4096 * g.cfg.chunkCount } : State).modPart part.val (fun p => { p with gold := p.gold.map (fun g => { g with ready := true, expected := ps }) }))) ∧
  (∀ (part : Fin 4) (b : Berth) (payload : List Byte) (p : PartSt) (g : GoldSt) (e : OutPkt) (same : Bool) (s : State), Tab.get? s.parts part.val = some p →
    p.gold = some g →
    g.counterpart payload = some e →
    g.ready = true →
    (b.val, payload) ∈ g.waiting →
    same = (goldPart e.payload == goldPart payload) →
    (g.ack = false ∨ p.switchPersona = true ∨ same = false) →
    exec (.goldenCompare part b payload) s = .next ((s.modPart part.val (fun p => { p with gold := some { g with waiting := g.waiting.erase (b.val, payload), got := g.got ++ [((goldKey payload).1, (goldKey payload).2.1, (goldKey payload).2.2, same)], matched := satAdd 32 g.matched (bitNat same) } })).checkCount part.val b.val (if same then 0 else 0xA) 1))

/-- Each SPDM request completes and its answer is on the port (14 R373). Log entries 11, 14, 32. -/
def Obligations.AttestationRequestsAnswer : Prop :=
  (∀ (p : SpdmPort) (s : State), s.spdmPort p = true →
    ∃ t : State, exec (.getVersion p) s = .next t ∧ t.mbox.resp = some (.spdm p 0x04 [0x00, 0x13])) ∧
  (∀ (p : SpdmPort) (s : State), s.spdmPort p = true →
    ∃ t : State, exec (.getCapabilities p) s = .next t ∧ t.mbox.resp = some (.spdm p 0x61 [0x16, 0x00, 0x00, 0x00])) ∧
  (∀ (p : SpdmPort) (asym hash : U32) (s : State), s.spdmPort p = true →
    ∃ t : State, exec (.negotiateAlgorithms p asym hash) s = .next t ∧
      t.mbox.resp = some (.spdm p 0x63 (leBytes 4 (asym &&& 0x80).toNat ++ leBytes 4 (hash &&& 2).toNat))) ∧
  (∀ (p : SpdmPort) (s : State), s.spdmPort p = true →
    ∃ t : State, exec (.getDigests p) s = .next t ∧ t.mbox.resp = some (.spdm p 0x01 (bvBytes 48 (Config.sha384 Config.certChain)))) ∧
  (∀ (p : SpdmPort) (offset length : U16) (s : State), s.spdmPort p = true →
    ∃ (t : State) (part : List Byte), exec (.getCertificate p 0 offset length) s = .next t ∧
      part = (Config.certChain.drop offset.toNat).take length.toNat ∧
      t.mbox.resp = some (if Config.certChain.length ≤ offset.toNat then .spdmError p 0x01
        else .spdm p 0x02 (leBytes 2 part.length ++ leBytes 2 (Config.certChain.length - offset.toNat - part.length) ++ part))) ∧
  (∀ (p : SpdmPort) (nonce : BitVec 256) (s : State), s.spdmPort p = true → s.sec.identity = true →
    ∃ t : State, exec (.challenge p 0 nonce) s = .next t ∧
      t.mbox.resp = some (.dataObject p [] (some (Config.ecdsaSign keyIdentity (bvBytes 32 nonce) s.freeCtr)))) ∧
  (∀ (p : SpdmPort) (index : Byte) (nonce : BitVec 256) (s : State), s.spdmPort p = true → 1 ≤ index → index ≤ 6 →
    ∃ t : State, exec (.getMeasurements p index false nonce) s = .next t ∧
      t.mbox.resp = some (.dataObject p [(index, s.measurement index.toNat)] none))

/-- Each instruction of the TAP completes and is the one loaded (11 R312, 11 R313, 13 R364, 14 R370, 16 R417). Log entries 13, 33,
87. -/
def Obligations.TapInstructionsLoad : Prop :=
  (∀ s : State, s.sec.power ≠ 3 → ∃ t : State, exec .bypass s = .next t ∧ t.tap.ir = 0 ∧ t.tap.tdo = [false]) ∧
  (∀ s : State, s.sec.power ≠ 3 → ∃ t : State, exec .idcode s = .next t ∧ t.tap.ir = 1 ∧ t.tap.tdo = bitsLsb 32 0x195099CB) ∧
  (∀ (scanIn : List Bool) (s : State), s.sec.power ≠ 3 → ∃ t : State, exec (.samplePreload scanIn) s = .next t ∧ t.tap.ir = 2 ∧
    t.tap.boundary = scanIn ∧ t.tap.tdo.length = scanIn.length) ∧
  (∀ (scanIn : List Bool) (s : State), s.sec.power ≠ 3 → ∃ t : State, exec (.extest scanIn) s = .next t ∧ t.tap.ir = 3 ∧
    t.tap.boundary = scanIn ∧ t.tap.tdo.length = scanIn.length) ∧
  (∀ s : State, s.sec.power ≠ 3 → ∃ t : State, exec .highz s = .next t ∧ t.tap.ir = 4 ∧ t.tap.tdo = [false]) ∧
  (∀ s : State, s.sec.power ≠ 3 → ∃ t : State, exec .clamp s = .next t ∧ t.tap.ir = 5 ∧ t.tap.tdo = [false]) ∧
  (∀ (p : Fin 2) (halt : Bool) (s : State), s.sec.power ≠ 3 → 1 ≤ s.sec.dbg →
    ∃ t : State, exec (.debugHm p halt) s = .next t ∧ t.tap.ir = 0x10 ∧ (p.val ∈ t.sec.halted ↔ halt = true)) ∧
  (∀ (h : Half) (halt : Bool) (s : State), s.sec.power ≠ 3 → s.sec.power ≠ 2 → 1 ≤ s.sec.dbg →
    ∃ t : State, exec (.debugDep h halt) s = .next t ∧ t.tap.ir = 0x11 ∧ (2 + h.num ∈ t.sec.halted ↔ halt = true)) ∧
  (∀ (h : Half) (s : State), s.sec.power ≠ 3 → s.sec.power ≠ 2 → 1 ≤ s.sec.dbg →
    ∃ t : State, exec (.scanHalf h) s = .next t ∧ t.tap.ir = 0x12) ∧
  (∀ (h : Half) (offset : BitVec 33) (s : State), s.sec.power ≠ 3 → s.sec.power ≠ 2 → 1 ≤ s.sec.dbg →
    ∃ t : State, exec (.memPeek h offset) s = .next t ∧ t.tap.ir = 0x13 ∧ t.tap.tdo = bitsLsb 32 (s.peekWord h offset.toNat).1) ∧
  (∀ (source : U16) (s : State), s.sec.power ≠ 3 → 2 ≤ s.sec.dbg → s.sec.lifecycle = 1 → (srcInfo source.toNat).isSome = true →
    ∃ t : State, exec (.faultInj source) s = .next t ∧ t.tap.ir = 0x20 ∧ t.tap.injected = s.tap.injected ++ [source.toNat]) ∧
  (∀ (addr : U16) (value : U32) (s : State), s.sec.power ≠ 3 → 2 ≤ s.sec.dbg → s.sec.lifecycle = 1 →
    ∃ t : State, exec (.otpProg addr value) s = .next t ∧ t.tap.ir = 0x21 ∧
      Tab.get 0 t.sec.otp addr.toNat = Tab.get 0 s.sec.otp addr.toNat ||| value) ∧
  (∀ s : State, s.sec.power ≠ 3 → 2 ≤ s.sec.dbg → s.sec.lifecycle = 1 → ∃ t : State, exec .secDebug s = .next t ∧ t.tap.ir = 0x22) ∧
  (∀ s : State, ∃ t : State, exec .trstN s = .next t ∧ t.tap = {})

/-- NONCE_EXPIRY, ZEROIZE_DONE, the supplies and RESET_N complete (14 R366, 14 R367, 14 R375, 15 R388, 15 R402, 16 R411). Log
entries 1, 8. -/
def Obligations.SecurityAndSupplyEventsComplete : Prop :=
  (∀ s : State, ∃ t : State, exec .nonceExpiry s = .next t ∧ t.sec.nonce = none) ∧
  (∀ (z : ZeroSt) (s : State), s.sec.zero = some z → z.keysGone = true → z.debugOpen = false → z.lifecycle = none →
    ∃ t : State, exec .zeroizeDone s = .next t ∧ t.sec.zero = none) ∧
  (∀ (group : Fin 5) (s : State), s.sec.power = 3 → s.boot.rails = group.val →
    ∃ t : State, exec (.powerOn group) s = .next t ∧ t.boot.rails = group.val + 1 ∧ t.boot.pwrEn = true ∧
      t.sec.power = if group.val = 4 then 0 else 3) ∧
  (∀ s : State, s.boot.rails ≠ 0 → ∃ t : State, exec .powerOff s = .next t ∧ t.sec.power = 3 ∧ t.boot.rails = 0 ∧ t.boot.pwrEn = false ∧
    t.sec.lifecycle = s.sec.lifecycle) ∧
  (∀ (level : Bool) (s : State), ∃ t : State, exec (.powerGood .hold level) s = .next t ∧ t.boot.pgHold = level) ∧
  (∀ (level : Bool) (s : State), ∃ t : State, exec (.powerGood .quay level) s = .next t ∧ t.boot.pgQuay = level) ∧
  (∀ (level : Bool) (s : State), ∃ t : State, exec (.powerGood .oe level) s = .next t ∧ t.boot.pgOe = level) ∧
  (∀ (lowNs : Nat) (s : State), 1000 ≤ lowNs → s.boot.rails = 5 →
    ∃ t : State, exec (.warmReset lowNs) s = .next t ∧ t.boot.resetN = false ∧ t.boot.stage = 0 ∧ t.tide.running = false ∧
      t.sec.lifecycle = s.sec.lifecycle)

/-- A well-formed UCI command's bytes spell its header (12 R323, 00 R5). Log entry 3. -/
def Obligations.WellFormedMessagesSpellTheirHeader : Prop :=
  ∀ (i : Instr) (u : Uci) (c : CmdInfo), i.uciLaw = some (u, c) → i.wf = true → 32 ≤ u.len.toNat →
    u.bytes.length = u.len.toNat ∧ field u.bytes 0 2 = c.code % 2 ^ 16 ∧ field u.bytes 2 1 = u.hdrVer.toNat ∧
    field u.bytes 3 1 = u.flags.toNat ∧ field u.bytes 4 4 = u.tag.toNat ∧ field u.bytes 8 2 = u.bodyLen.toNat ∧
    field u.bytes 0xC 1 = u.job.toNat
end

