-- ==== Sys2Proof/Laws/Mem.lean ====
section
/-! SUPPORT. Tables and memories: a read after a write, and the canonical form. -/

namespace Sys2Proof.Machine

/-! ## Tables -/

theorem Tab.get?_set_same {α : Type} (t : Tab α) (k : Nat) (x : α) : Tab.get? (Tab.set t k x) k = some x := by
  induction t with
  | nil => simp [Tab.set, Tab.get?]
  | cons e t ih =>
    obtain ⟨j, v⟩ := e
    simp only [Tab.set]
    split
    · simp [Tab.get?]
    · split
      · simp [Tab.get?]
      · rename_i h1 h2
        simp [Tab.get?, ih, Ne.symm h2]

theorem Tab.get?_set_other {α : Type} (t : Tab α) (k a : Nat) (x : α) (h : a ≠ k) : Tab.get? (Tab.set t k x) a = Tab.get? t a := by
  induction t with
  | nil => simp [Tab.set, Tab.get?, Ne.symm h]
  | cons e t ih =>
    obtain ⟨j, v⟩ := e
    simp only [Tab.set]
    split
    · simp [Tab.get?, Ne.symm h]
    · split
      · rename_i h1 h2
        subst h2
        simp [Tab.get?, Ne.symm h]
      · simp [Tab.get?, ih]

@[simp] theorem Tab.get_set_same {α : Type} (d : α) (t : Tab α) (k : Nat) (x : α) : Tab.get d (Tab.set t k x) k = x := by
  simp [Tab.get, Tab.get?_set_same]

theorem Tab.get_set_other {α : Type} (d : α) (t : Tab α) (k a : Nat) (x : α) (h : a ≠ k) : Tab.get d (Tab.set t k x) a = Tab.get d t a := by
  simp [Tab.get, Tab.get?_set_other t k a x h]

@[simp] theorem Tab.get_upd_same {α : Type} (d : α) (t : Tab α) (k : Nat) (f : α → α) : Tab.get d (Tab.upd d t k f) k = f (Tab.get d t k) := by
  simp [Tab.upd]

theorem Tab.get_upd_other {α : Type} (d : α) (t : Tab α) (k a : Nat) (f : α → α) (h : a ≠ k) : Tab.get d (Tab.upd d t k f) a = Tab.get d t a := by
  simp [Tab.upd, Tab.get_set_other d t k a _ h]

/-! ## Accessors after their own update -/

@[simp] theorem State.stream_modStream (s : State) (n : Nat) (f : StreamSt → StreamSt) : (s.modStream n f).stream n = f (s.stream n) := by
  simp [State.stream, State.modStream]

@[simp] theorem State.berth_modBerth (s : State) (n : Nat) (f : BerthSt → BerthSt) : (s.modBerth n f).berth n = f (s.berth n) := by
  simp [State.berth, State.modBerth]

@[simp] theorem State.oe_modOe (s : State) (n : Nat) (f : OeSt → OeSt) : (s.modOe n f).oe n = f (s.oe n) := by
  simp [State.oe, State.modOe]

@[simp] theorem State.coll_modColl (s : State) (n : Nat) (f : CollSt → CollSt) : (s.modColl n f).coll n = f (s.coll n) := by
  simp [State.coll, State.modColl]

@[simp] theorem State.job_modJob (s : State) (n : Nat) (f : JobSt → JobSt) : (s.modJob n f).job n = f (s.job n) := by
  simp [State.job, State.modJob]

@[simp] theorem State.chan_modChan (s : State) (n : Nat) (f : ChanSt → ChanSt) : (s.modChan n f).chan n = f (s.chan n) := by
  simp [State.chan, State.modChan, State.modMbox]

@[simp] theorem State.tile_modTile (s : State) (n : Nat) (f : TileSt → TileSt) : (s.modTile n f).tile n = f (s.tile n) := by
  simp [State.tile, State.modTile]

theorem State.stream_modStream_other (s : State) (n a : Nat) (f : StreamSt → StreamSt) (h : a ≠ n) : (s.modStream n f).stream a = s.stream a := by
  simp [State.stream, State.modStream, Tab.get_upd_other _ _ _ _ _ h]

theorem State.berth_modBerth_other (s : State) (n a : Nat) (f : BerthSt → BerthSt) (h : a ≠ n) : (s.modBerth n f).berth a = s.berth a := by
  simp [State.berth, State.modBerth, Tab.get_upd_other _ _ _ _ _ h]

theorem State.job_modJob_other (s : State) (n a : Nat) (f : JobSt → JobSt) (h : a ≠ n) : (s.modJob n f).job a = s.job a := by
  simp [State.job, State.modJob, Tab.get_upd_other _ _ _ _ _ h]

theorem State.tile_modTile_other (s : State) (n a : Nat) (f : TileSt → TileSt) (h : a ≠ n) : (s.modTile n f).tile a = s.tile a := by
  have := Tab.get_set_other (α := TileSt) { phys := a % 8 } s.tiles n a (f (Tab.get { phys := n % 8 } s.tiles n)) h
  simpa [State.tile, State.modTile, Tab.upd] using this

/-! ## Memories -/

theorem Mem.wfFrom_mono {lo hi : Nat} (m : Mem) (h : lo ≤ hi) (w : Mem.wfFrom hi m = true) : Mem.wfFrom lo m = true := by
  cases m with
  | nil => rfl
  | cons e m =>
    obtain ⟨k, v⟩ := e
    simp only [Mem.wfFrom, Bool.and_eq_true, decide_eq_true_eq, bne_iff_ne, ne_eq, BitVec.ofNat_eq_ofNat] at w ⊢
    exact ⟨⟨by omega, w.1.2⟩, w.2⟩

/-- Below the first address of a memory in canonical form every byte reads 0. -/
theorem Mem.read_below {lo a : Nat} (m : Mem) (w : Mem.wfFrom lo m = true) (h : a < lo) : Mem.read m a = 0 := by
  induction m generalizing lo with
  | nil => rfl
  | cons e m ih =>
    obtain ⟨k, v⟩ := e
    simp only [Mem.wfFrom, Bool.and_eq_true, decide_eq_true_eq, bne_iff_ne, ne_eq, BitVec.ofNat_eq_ofNat] at w
    have hk : k ≠ a := by omega
    simp only [Mem.read, hk, if_false]
    exact ih w.2 (by omega)

theorem Mem.wfFrom_write {lo : Nat} (m : Mem) (a : Nat) (b : Byte) (w : Mem.wfFrom lo m = true) (h : lo ≤ a) :
    Mem.wfFrom lo (Mem.write m a b) = true := by
  induction m generalizing lo with
  | nil =>
    by_cases hb : b = 0#8 <;> simp [Mem.write, Mem.wfFrom, hb, h]
  | cons e m ih =>
    obtain ⟨k, v⟩ := e
    simp only [Mem.wfFrom, Bool.and_eq_true, decide_eq_true_eq, bne_iff_ne, ne_eq, BitVec.ofNat_eq_ofNat] at w
    obtain ⟨⟨h1, h2⟩, h3⟩ := w
    by_cases hak : a < k
    · by_cases hb : b = 0#8
      · simp [Mem.write, Mem.wfFrom, hak, hb, h1, h2, h3]
      · simp [Mem.write, Mem.wfFrom, hak, hb, h, h2, h3, Nat.succ_le_of_lt hak]
    · by_cases hk : a = k
      · by_cases hb : b = 0#8
        · simpa [Mem.write, hk, hb] using Mem.wfFrom_mono m (by omega) h3
        · subst hk
          simp [Mem.write, Mem.wfFrom, hb, h1, h3]
      · have := ih h3 (show k + 1 ≤ a by omega)
        simp [Mem.write, Mem.wfFrom, hak, hk, h1, h2, this]

/-- A write keeps the canonical form. -/
theorem Mem.wf_write (m : Mem) (a : Nat) (b : Byte) (w : m.wf = true) : (Mem.write m a b).wf = true :=
  Mem.wfFrom_write m a b w (Nat.zero_le a)

theorem Mem.wf_writeBytes (m : Mem) (a : Nat) (bs : List Byte) (w : m.wf = true) : (Mem.writeBytes m a bs).wf = true := by
  induction bs generalizing m a with
  | nil => exact w
  | cons b bs ih => exact ih _ _ (Mem.wf_write m a b w)

/-- Memories at reset are in canonical form. -/
theorem Mem.wf_nil : Mem.wf [] = true := rfl

theorem Mem.wfFrom_filter {lo : Nat} (m : Mem) (p : Host.Cell → Bool) (w : Mem.wfFrom lo m = true) : Mem.wfFrom lo (m.filter p) = true := by
  induction m generalizing lo with
  | nil => rfl
  | cons e m ih =>
    obtain ⟨k, v⟩ := e
    simp only [Mem.wfFrom, Bool.and_eq_true, decide_eq_true_eq, bne_iff_ne, ne_eq, BitVec.ofNat_eq_ofNat] at w
    obtain ⟨⟨h1, h2⟩, h3⟩ := w
    by_cases hp : p (k, v) = true
    · simp [hp, Mem.wfFrom, h1, h2, ih h3]
    · simpa [List.filter_cons, hp] using Mem.wfFrom_mono _ (by omega) (ih h3)

theorem Mem.wf_zeroRange (m : Mem) (a n : Nat) (w : m.wf = true) : (m.zeroRange a n).wf = true := Mem.wfFrom_filter m _ w

/-- A read after a write gives the value written. -/
@[simp] theorem Mem.read_write_same (m : Mem) (a : Nat) (b : Byte) (w : m.wf = true) : Mem.read (Mem.write m a b) a = b := by
  suffices h : ∀ lo, Mem.wfFrom lo m = true → Mem.read (Mem.write m a b) a = b from h 0 w
  intro lo
  induction m generalizing lo with
  | nil => by_cases hb : b = 0#8 <;> simp [Mem.write, Mem.read, hb]
  | cons e m ih =>
    obtain ⟨k, v⟩ := e
    intro w
    simp only [Mem.wfFrom, Bool.and_eq_true, decide_eq_true_eq, bne_iff_ne, ne_eq, BitVec.ofNat_eq_ofNat] at w
    obtain ⟨⟨h1, h2⟩, h3⟩ := w
    by_cases hak : a < k
    · by_cases hb : b = 0#8
      · have : Mem.read m a = 0 := Mem.read_below m h3 (by omega)
        simp [Mem.write, Mem.read, hak, hb, this, Nat.ne_of_gt hak]
      · simp [Mem.write, Mem.read, hak, hb]
    · by_cases hk : a = k
      · by_cases hb : b = 0#8
        · subst hk
          simpa [Mem.write, hb] using Mem.read_below m h3 (by omega)
        · simp [Mem.write, Mem.read, hk, hb]
      · simpa [Mem.write, Mem.read, hak, hk, Ne.symm hk] using ih (w := Mem.wfFrom_mono m (Nat.zero_le _) h3) _ h3

/-- A write leaves every other byte alone. -/
theorem Mem.read_write_other (m : Mem) (a c : Nat) (b : Byte) (h : c ≠ a) : Mem.read (Mem.write m a b) c = Mem.read m c := by
  induction m with
  | nil => by_cases hb : b = 0#8 <;> simp [Mem.write, Mem.read, hb, Ne.symm h]
  | cons e m ih =>
    obtain ⟨k, v⟩ := e
    by_cases hak : a < k
    · by_cases hb : b = 0#8 <;> simp [Mem.write, Mem.read, hak, hb, Ne.symm h]
    · by_cases hk : a = k
      · subst hk
        by_cases hb : b = 0#8 <;> simp [Mem.write, Mem.read, hb, Ne.symm h]
      · simp [Mem.write, Mem.read, hak, hk, ih]

end Sys2Proof.Machine
end

