-- ==== Sys2Proof/Laws/State.lean ====
section
/-! SUPPORT. What each update of the state leaves of each field: one lemma per field per update. -/

namespace Sys2Proof.Machine

variable (s : State)

/-! ## State.modTide -/

@[simp] theorem State.modTide_pending (f : TideSt → TideSt) : (s.modTide f).pending = s.pending := rfl
@[simp] theorem State.modTide_freeCtr (f : TideSt → TideSt) : (s.modTide f).freeCtr = s.freeCtr := rfl
@[simp] theorem State.modTide_nextId (f : TideSt → TideSt) : (s.modTide f).nextId = s.nextId := rfl
@[simp] theorem State.modTide_tide (f : TideSt → TideSt) : (s.modTide f).tide = f s.tide := rfl
@[simp] theorem State.modTide_east (f : TideSt → TideSt) : (s.modTide f).east = s.east := rfl
@[simp] theorem State.modTide_west (f : TideSt → TideSt) : (s.modTide f).west = s.west := rfl
@[simp] theorem State.modTide_tiles (f : TideSt → TideSt) : (s.modTide f).tiles = s.tiles := rfl
@[simp] theorem State.modTide_streams (f : TideSt → TideSt) : (s.modTide f).streams = s.streams := rfl
@[simp] theorem State.modTide_snapStreams (f : TideSt → TideSt) : (s.modTide f).snapStreams = s.snapStreams := rfl
@[simp] theorem State.modTide_snapColls (f : TideSt → TideSt) : (s.modTide f).snapColls = s.snapColls := rfl
@[simp] theorem State.modTide_colls (f : TideSt → TideSt) : (s.modTide f).colls = s.colls := rfl
@[simp] theorem State.modTide_jobs (f : TideSt → TideSt) : (s.modTide f).jobs = s.jobs := rfl
@[simp] theorem State.modTide_shards (f : TideSt → TideSt) : (s.modTide f).shards = s.shards := rfl
@[simp] theorem State.modTide_snapShards (f : TideSt → TideSt) : (s.modTide f).snapShards = s.snapShards := rfl
@[simp] theorem State.modTide_gathers (f : TideSt → TideSt) : (s.modTide f).gathers = s.gathers := rfl
@[simp] theorem State.modTide_prefetches (f : TideSt → TideSt) : (s.modTide f).prefetches = s.prefetches := rfl
@[simp] theorem State.modTide_lost (f : TideSt → TideSt) : (s.modTide f).lost = s.lost := rfl
@[simp] theorem State.modTide_chart (f : TideSt → TideSt) : (s.modTide f).chart = s.chart := rfl
@[simp] theorem State.modTide_berths (f : TideSt → TideSt) : (s.modTide f).berths = s.berths := rfl
@[simp] theorem State.modTide_oes (f : TideSt → TideSt) : (s.modTide f).oes = s.oes := rfl
@[simp] theorem State.modTide_mbox (f : TideSt → TideSt) : (s.modTide f).mbox = s.mbox := rfl
@[simp] theorem State.modTide_fault (f : TideSt → TideSt) : (s.modTide f).fault = s.fault := rfl
@[simp] theorem State.modTide_sec (f : TideSt → TideSt) : (s.modTide f).sec = s.sec := rfl
@[simp] theorem State.modTide_boot (f : TideSt → TideSt) : (s.modTide f).boot = s.boot := rfl
@[simp] theorem State.modTide_tap (f : TideSt → TideSt) : (s.modTide f).tap = s.tap := rfl
@[simp] theorem State.modTide_port (f : TideSt → TideSt) : (s.modTide f).port = s.port := rfl
@[simp] theorem State.modTide_parts (f : TideSt → TideSt) : (s.modTide f).parts = s.parts := rfl
@[simp] theorem State.modTide_snapParts (f : TideSt → TideSt) : (s.modTide f).snapParts = s.snapParts := rfl
@[simp] theorem State.modTide_counters (f : TideSt → TideSt) : (s.modTide f).counters = s.counters := rfl
@[simp] theorem State.modTide_snap (f : TideSt → TideSt) : (s.modTide f).snap = s.snap := rfl
@[simp] theorem State.modTide_quayE (f : TideSt → TideSt) : (s.modTide f).quayE = s.quayE := rfl
@[simp] theorem State.modTide_quayW (f : TideSt → TideSt) : (s.modTide f).quayW = s.quayW := rfl
@[simp] theorem State.modTide_hold (f : TideSt → TideSt) : (s.modTide f).hold = s.hold := rfl
@[simp] theorem State.modTide_holdEpoch (f : TideSt → TideSt) : (s.modTide f).holdEpoch = s.holdEpoch := rfl

/-! ## State.modFault -/

@[simp] theorem State.modFault_pending (f : FaultSt → FaultSt) : (s.modFault f).pending = s.pending := rfl
@[simp] theorem State.modFault_freeCtr (f : FaultSt → FaultSt) : (s.modFault f).freeCtr = s.freeCtr := rfl
@[simp] theorem State.modFault_nextId (f : FaultSt → FaultSt) : (s.modFault f).nextId = s.nextId := rfl
@[simp] theorem State.modFault_tide (f : FaultSt → FaultSt) : (s.modFault f).tide = s.tide := rfl
@[simp] theorem State.modFault_east (f : FaultSt → FaultSt) : (s.modFault f).east = s.east := rfl
@[simp] theorem State.modFault_west (f : FaultSt → FaultSt) : (s.modFault f).west = s.west := rfl
@[simp] theorem State.modFault_tiles (f : FaultSt → FaultSt) : (s.modFault f).tiles = s.tiles := rfl
@[simp] theorem State.modFault_streams (f : FaultSt → FaultSt) : (s.modFault f).streams = s.streams := rfl
@[simp] theorem State.modFault_snapStreams (f : FaultSt → FaultSt) : (s.modFault f).snapStreams = s.snapStreams := rfl
@[simp] theorem State.modFault_snapColls (f : FaultSt → FaultSt) : (s.modFault f).snapColls = s.snapColls := rfl
@[simp] theorem State.modFault_colls (f : FaultSt → FaultSt) : (s.modFault f).colls = s.colls := rfl
@[simp] theorem State.modFault_jobs (f : FaultSt → FaultSt) : (s.modFault f).jobs = s.jobs := rfl
@[simp] theorem State.modFault_shards (f : FaultSt → FaultSt) : (s.modFault f).shards = s.shards := rfl
@[simp] theorem State.modFault_snapShards (f : FaultSt → FaultSt) : (s.modFault f).snapShards = s.snapShards := rfl
@[simp] theorem State.modFault_gathers (f : FaultSt → FaultSt) : (s.modFault f).gathers = s.gathers := rfl
@[simp] theorem State.modFault_prefetches (f : FaultSt → FaultSt) : (s.modFault f).prefetches = s.prefetches := rfl
@[simp] theorem State.modFault_lost (f : FaultSt → FaultSt) : (s.modFault f).lost = s.lost := rfl
@[simp] theorem State.modFault_chart (f : FaultSt → FaultSt) : (s.modFault f).chart = s.chart := rfl
@[simp] theorem State.modFault_berths (f : FaultSt → FaultSt) : (s.modFault f).berths = s.berths := rfl
@[simp] theorem State.modFault_oes (f : FaultSt → FaultSt) : (s.modFault f).oes = s.oes := rfl
@[simp] theorem State.modFault_mbox (f : FaultSt → FaultSt) : (s.modFault f).mbox = s.mbox := rfl
@[simp] theorem State.modFault_fault (f : FaultSt → FaultSt) : (s.modFault f).fault = f s.fault := rfl
@[simp] theorem State.modFault_sec (f : FaultSt → FaultSt) : (s.modFault f).sec = s.sec := rfl
@[simp] theorem State.modFault_boot (f : FaultSt → FaultSt) : (s.modFault f).boot = s.boot := rfl
@[simp] theorem State.modFault_tap (f : FaultSt → FaultSt) : (s.modFault f).tap = s.tap := rfl
@[simp] theorem State.modFault_port (f : FaultSt → FaultSt) : (s.modFault f).port = s.port := rfl
@[simp] theorem State.modFault_parts (f : FaultSt → FaultSt) : (s.modFault f).parts = s.parts := rfl
@[simp] theorem State.modFault_snapParts (f : FaultSt → FaultSt) : (s.modFault f).snapParts = s.snapParts := rfl
@[simp] theorem State.modFault_counters (f : FaultSt → FaultSt) : (s.modFault f).counters = s.counters := rfl
@[simp] theorem State.modFault_snap (f : FaultSt → FaultSt) : (s.modFault f).snap = s.snap := rfl
@[simp] theorem State.modFault_quayE (f : FaultSt → FaultSt) : (s.modFault f).quayE = s.quayE := rfl
@[simp] theorem State.modFault_quayW (f : FaultSt → FaultSt) : (s.modFault f).quayW = s.quayW := rfl
@[simp] theorem State.modFault_hold (f : FaultSt → FaultSt) : (s.modFault f).hold = s.hold := rfl
@[simp] theorem State.modFault_holdEpoch (f : FaultSt → FaultSt) : (s.modFault f).holdEpoch = s.holdEpoch := rfl

/-! ## State.modSec -/

@[simp] theorem State.modSec_pending (f : SecSt → SecSt) : (s.modSec f).pending = s.pending := rfl
@[simp] theorem State.modSec_freeCtr (f : SecSt → SecSt) : (s.modSec f).freeCtr = s.freeCtr := rfl
@[simp] theorem State.modSec_nextId (f : SecSt → SecSt) : (s.modSec f).nextId = s.nextId := rfl
@[simp] theorem State.modSec_tide (f : SecSt → SecSt) : (s.modSec f).tide = s.tide := rfl
@[simp] theorem State.modSec_east (f : SecSt → SecSt) : (s.modSec f).east = s.east := rfl
@[simp] theorem State.modSec_west (f : SecSt → SecSt) : (s.modSec f).west = s.west := rfl
@[simp] theorem State.modSec_tiles (f : SecSt → SecSt) : (s.modSec f).tiles = s.tiles := rfl
@[simp] theorem State.modSec_streams (f : SecSt → SecSt) : (s.modSec f).streams = s.streams := rfl
@[simp] theorem State.modSec_snapStreams (f : SecSt → SecSt) : (s.modSec f).snapStreams = s.snapStreams := rfl
@[simp] theorem State.modSec_snapColls (f : SecSt → SecSt) : (s.modSec f).snapColls = s.snapColls := rfl
@[simp] theorem State.modSec_colls (f : SecSt → SecSt) : (s.modSec f).colls = s.colls := rfl
@[simp] theorem State.modSec_jobs (f : SecSt → SecSt) : (s.modSec f).jobs = s.jobs := rfl
@[simp] theorem State.modSec_shards (f : SecSt → SecSt) : (s.modSec f).shards = s.shards := rfl
@[simp] theorem State.modSec_snapShards (f : SecSt → SecSt) : (s.modSec f).snapShards = s.snapShards := rfl
@[simp] theorem State.modSec_gathers (f : SecSt → SecSt) : (s.modSec f).gathers = s.gathers := rfl
@[simp] theorem State.modSec_prefetches (f : SecSt → SecSt) : (s.modSec f).prefetches = s.prefetches := rfl
@[simp] theorem State.modSec_lost (f : SecSt → SecSt) : (s.modSec f).lost = s.lost := rfl
@[simp] theorem State.modSec_chart (f : SecSt → SecSt) : (s.modSec f).chart = s.chart := rfl
@[simp] theorem State.modSec_berths (f : SecSt → SecSt) : (s.modSec f).berths = s.berths := rfl
@[simp] theorem State.modSec_oes (f : SecSt → SecSt) : (s.modSec f).oes = s.oes := rfl
@[simp] theorem State.modSec_mbox (f : SecSt → SecSt) : (s.modSec f).mbox = s.mbox := rfl
@[simp] theorem State.modSec_fault (f : SecSt → SecSt) : (s.modSec f).fault = s.fault := rfl
@[simp] theorem State.modSec_sec (f : SecSt → SecSt) : (s.modSec f).sec = f s.sec := rfl
@[simp] theorem State.modSec_boot (f : SecSt → SecSt) : (s.modSec f).boot = s.boot := rfl
@[simp] theorem State.modSec_tap (f : SecSt → SecSt) : (s.modSec f).tap = s.tap := rfl
@[simp] theorem State.modSec_port (f : SecSt → SecSt) : (s.modSec f).port = s.port := rfl
@[simp] theorem State.modSec_parts (f : SecSt → SecSt) : (s.modSec f).parts = s.parts := rfl
@[simp] theorem State.modSec_snapParts (f : SecSt → SecSt) : (s.modSec f).snapParts = s.snapParts := rfl
@[simp] theorem State.modSec_counters (f : SecSt → SecSt) : (s.modSec f).counters = s.counters := rfl
@[simp] theorem State.modSec_snap (f : SecSt → SecSt) : (s.modSec f).snap = s.snap := rfl
@[simp] theorem State.modSec_quayE (f : SecSt → SecSt) : (s.modSec f).quayE = s.quayE := rfl
@[simp] theorem State.modSec_quayW (f : SecSt → SecSt) : (s.modSec f).quayW = s.quayW := rfl
@[simp] theorem State.modSec_hold (f : SecSt → SecSt) : (s.modSec f).hold = s.hold := rfl
@[simp] theorem State.modSec_holdEpoch (f : SecSt → SecSt) : (s.modSec f).holdEpoch = s.holdEpoch := rfl

/-! ## State.modBoot -/

@[simp] theorem State.modBoot_pending (f : BootSt → BootSt) : (s.modBoot f).pending = s.pending := rfl
@[simp] theorem State.modBoot_freeCtr (f : BootSt → BootSt) : (s.modBoot f).freeCtr = s.freeCtr := rfl
@[simp] theorem State.modBoot_nextId (f : BootSt → BootSt) : (s.modBoot f).nextId = s.nextId := rfl
@[simp] theorem State.modBoot_tide (f : BootSt → BootSt) : (s.modBoot f).tide = s.tide := rfl
@[simp] theorem State.modBoot_east (f : BootSt → BootSt) : (s.modBoot f).east = s.east := rfl
@[simp] theorem State.modBoot_west (f : BootSt → BootSt) : (s.modBoot f).west = s.west := rfl
@[simp] theorem State.modBoot_tiles (f : BootSt → BootSt) : (s.modBoot f).tiles = s.tiles := rfl
@[simp] theorem State.modBoot_streams (f : BootSt → BootSt) : (s.modBoot f).streams = s.streams := rfl
@[simp] theorem State.modBoot_snapStreams (f : BootSt → BootSt) : (s.modBoot f).snapStreams = s.snapStreams := rfl
@[simp] theorem State.modBoot_snapColls (f : BootSt → BootSt) : (s.modBoot f).snapColls = s.snapColls := rfl
@[simp] theorem State.modBoot_colls (f : BootSt → BootSt) : (s.modBoot f).colls = s.colls := rfl
@[simp] theorem State.modBoot_jobs (f : BootSt → BootSt) : (s.modBoot f).jobs = s.jobs := rfl
@[simp] theorem State.modBoot_shards (f : BootSt → BootSt) : (s.modBoot f).shards = s.shards := rfl
@[simp] theorem State.modBoot_snapShards (f : BootSt → BootSt) : (s.modBoot f).snapShards = s.snapShards := rfl
@[simp] theorem State.modBoot_gathers (f : BootSt → BootSt) : (s.modBoot f).gathers = s.gathers := rfl
@[simp] theorem State.modBoot_prefetches (f : BootSt → BootSt) : (s.modBoot f).prefetches = s.prefetches := rfl
@[simp] theorem State.modBoot_lost (f : BootSt → BootSt) : (s.modBoot f).lost = s.lost := rfl
@[simp] theorem State.modBoot_chart (f : BootSt → BootSt) : (s.modBoot f).chart = s.chart := rfl
@[simp] theorem State.modBoot_berths (f : BootSt → BootSt) : (s.modBoot f).berths = s.berths := rfl
@[simp] theorem State.modBoot_oes (f : BootSt → BootSt) : (s.modBoot f).oes = s.oes := rfl
@[simp] theorem State.modBoot_mbox (f : BootSt → BootSt) : (s.modBoot f).mbox = s.mbox := rfl
@[simp] theorem State.modBoot_fault (f : BootSt → BootSt) : (s.modBoot f).fault = s.fault := rfl
@[simp] theorem State.modBoot_sec (f : BootSt → BootSt) : (s.modBoot f).sec = s.sec := rfl
@[simp] theorem State.modBoot_boot (f : BootSt → BootSt) : (s.modBoot f).boot = f s.boot := rfl
@[simp] theorem State.modBoot_tap (f : BootSt → BootSt) : (s.modBoot f).tap = s.tap := rfl
@[simp] theorem State.modBoot_port (f : BootSt → BootSt) : (s.modBoot f).port = s.port := rfl
@[simp] theorem State.modBoot_parts (f : BootSt → BootSt) : (s.modBoot f).parts = s.parts := rfl
@[simp] theorem State.modBoot_snapParts (f : BootSt → BootSt) : (s.modBoot f).snapParts = s.snapParts := rfl
@[simp] theorem State.modBoot_counters (f : BootSt → BootSt) : (s.modBoot f).counters = s.counters := rfl
@[simp] theorem State.modBoot_snap (f : BootSt → BootSt) : (s.modBoot f).snap = s.snap := rfl
@[simp] theorem State.modBoot_quayE (f : BootSt → BootSt) : (s.modBoot f).quayE = s.quayE := rfl
@[simp] theorem State.modBoot_quayW (f : BootSt → BootSt) : (s.modBoot f).quayW = s.quayW := rfl
@[simp] theorem State.modBoot_hold (f : BootSt → BootSt) : (s.modBoot f).hold = s.hold := rfl
@[simp] theorem State.modBoot_holdEpoch (f : BootSt → BootSt) : (s.modBoot f).holdEpoch = s.holdEpoch := rfl

/-! ## State.modTap -/

@[simp] theorem State.modTap_pending (f : TapSt → TapSt) : (s.modTap f).pending = s.pending := rfl
@[simp] theorem State.modTap_freeCtr (f : TapSt → TapSt) : (s.modTap f).freeCtr = s.freeCtr := rfl
@[simp] theorem State.modTap_nextId (f : TapSt → TapSt) : (s.modTap f).nextId = s.nextId := rfl
@[simp] theorem State.modTap_tide (f : TapSt → TapSt) : (s.modTap f).tide = s.tide := rfl
@[simp] theorem State.modTap_east (f : TapSt → TapSt) : (s.modTap f).east = s.east := rfl
@[simp] theorem State.modTap_west (f : TapSt → TapSt) : (s.modTap f).west = s.west := rfl
@[simp] theorem State.modTap_tiles (f : TapSt → TapSt) : (s.modTap f).tiles = s.tiles := rfl
@[simp] theorem State.modTap_streams (f : TapSt → TapSt) : (s.modTap f).streams = s.streams := rfl
@[simp] theorem State.modTap_snapStreams (f : TapSt → TapSt) : (s.modTap f).snapStreams = s.snapStreams := rfl
@[simp] theorem State.modTap_snapColls (f : TapSt → TapSt) : (s.modTap f).snapColls = s.snapColls := rfl
@[simp] theorem State.modTap_colls (f : TapSt → TapSt) : (s.modTap f).colls = s.colls := rfl
@[simp] theorem State.modTap_jobs (f : TapSt → TapSt) : (s.modTap f).jobs = s.jobs := rfl
@[simp] theorem State.modTap_shards (f : TapSt → TapSt) : (s.modTap f).shards = s.shards := rfl
@[simp] theorem State.modTap_snapShards (f : TapSt → TapSt) : (s.modTap f).snapShards = s.snapShards := rfl
@[simp] theorem State.modTap_gathers (f : TapSt → TapSt) : (s.modTap f).gathers = s.gathers := rfl
@[simp] theorem State.modTap_prefetches (f : TapSt → TapSt) : (s.modTap f).prefetches = s.prefetches := rfl
@[simp] theorem State.modTap_lost (f : TapSt → TapSt) : (s.modTap f).lost = s.lost := rfl
@[simp] theorem State.modTap_chart (f : TapSt → TapSt) : (s.modTap f).chart = s.chart := rfl
@[simp] theorem State.modTap_berths (f : TapSt → TapSt) : (s.modTap f).berths = s.berths := rfl
@[simp] theorem State.modTap_oes (f : TapSt → TapSt) : (s.modTap f).oes = s.oes := rfl
@[simp] theorem State.modTap_mbox (f : TapSt → TapSt) : (s.modTap f).mbox = s.mbox := rfl
@[simp] theorem State.modTap_fault (f : TapSt → TapSt) : (s.modTap f).fault = s.fault := rfl
@[simp] theorem State.modTap_sec (f : TapSt → TapSt) : (s.modTap f).sec = s.sec := rfl
@[simp] theorem State.modTap_boot (f : TapSt → TapSt) : (s.modTap f).boot = s.boot := rfl
@[simp] theorem State.modTap_tap (f : TapSt → TapSt) : (s.modTap f).tap = f s.tap := rfl
@[simp] theorem State.modTap_port (f : TapSt → TapSt) : (s.modTap f).port = s.port := rfl
@[simp] theorem State.modTap_parts (f : TapSt → TapSt) : (s.modTap f).parts = s.parts := rfl
@[simp] theorem State.modTap_snapParts (f : TapSt → TapSt) : (s.modTap f).snapParts = s.snapParts := rfl
@[simp] theorem State.modTap_counters (f : TapSt → TapSt) : (s.modTap f).counters = s.counters := rfl
@[simp] theorem State.modTap_snap (f : TapSt → TapSt) : (s.modTap f).snap = s.snap := rfl
@[simp] theorem State.modTap_quayE (f : TapSt → TapSt) : (s.modTap f).quayE = s.quayE := rfl
@[simp] theorem State.modTap_quayW (f : TapSt → TapSt) : (s.modTap f).quayW = s.quayW := rfl
@[simp] theorem State.modTap_hold (f : TapSt → TapSt) : (s.modTap f).hold = s.hold := rfl
@[simp] theorem State.modTap_holdEpoch (f : TapSt → TapSt) : (s.modTap f).holdEpoch = s.holdEpoch := rfl

/-! ## State.modPort -/

@[simp] theorem State.modPort_pending (f : PortSt → PortSt) : (s.modPort f).pending = s.pending := rfl
@[simp] theorem State.modPort_freeCtr (f : PortSt → PortSt) : (s.modPort f).freeCtr = s.freeCtr := rfl
@[simp] theorem State.modPort_nextId (f : PortSt → PortSt) : (s.modPort f).nextId = s.nextId := rfl
@[simp] theorem State.modPort_tide (f : PortSt → PortSt) : (s.modPort f).tide = s.tide := rfl
@[simp] theorem State.modPort_east (f : PortSt → PortSt) : (s.modPort f).east = s.east := rfl
@[simp] theorem State.modPort_west (f : PortSt → PortSt) : (s.modPort f).west = s.west := rfl
@[simp] theorem State.modPort_tiles (f : PortSt → PortSt) : (s.modPort f).tiles = s.tiles := rfl
@[simp] theorem State.modPort_streams (f : PortSt → PortSt) : (s.modPort f).streams = s.streams := rfl
@[simp] theorem State.modPort_snapStreams (f : PortSt → PortSt) : (s.modPort f).snapStreams = s.snapStreams := rfl
@[simp] theorem State.modPort_snapColls (f : PortSt → PortSt) : (s.modPort f).snapColls = s.snapColls := rfl
@[simp] theorem State.modPort_colls (f : PortSt → PortSt) : (s.modPort f).colls = s.colls := rfl
@[simp] theorem State.modPort_jobs (f : PortSt → PortSt) : (s.modPort f).jobs = s.jobs := rfl
@[simp] theorem State.modPort_shards (f : PortSt → PortSt) : (s.modPort f).shards = s.shards := rfl
@[simp] theorem State.modPort_snapShards (f : PortSt → PortSt) : (s.modPort f).snapShards = s.snapShards := rfl
@[simp] theorem State.modPort_gathers (f : PortSt → PortSt) : (s.modPort f).gathers = s.gathers := rfl
@[simp] theorem State.modPort_prefetches (f : PortSt → PortSt) : (s.modPort f).prefetches = s.prefetches := rfl
@[simp] theorem State.modPort_lost (f : PortSt → PortSt) : (s.modPort f).lost = s.lost := rfl
@[simp] theorem State.modPort_chart (f : PortSt → PortSt) : (s.modPort f).chart = s.chart := rfl
@[simp] theorem State.modPort_berths (f : PortSt → PortSt) : (s.modPort f).berths = s.berths := rfl
@[simp] theorem State.modPort_oes (f : PortSt → PortSt) : (s.modPort f).oes = s.oes := rfl
@[simp] theorem State.modPort_mbox (f : PortSt → PortSt) : (s.modPort f).mbox = s.mbox := rfl
@[simp] theorem State.modPort_fault (f : PortSt → PortSt) : (s.modPort f).fault = s.fault := rfl
@[simp] theorem State.modPort_sec (f : PortSt → PortSt) : (s.modPort f).sec = s.sec := rfl
@[simp] theorem State.modPort_boot (f : PortSt → PortSt) : (s.modPort f).boot = s.boot := rfl
@[simp] theorem State.modPort_tap (f : PortSt → PortSt) : (s.modPort f).tap = s.tap := rfl
@[simp] theorem State.modPort_port (f : PortSt → PortSt) : (s.modPort f).port = f s.port := rfl
@[simp] theorem State.modPort_parts (f : PortSt → PortSt) : (s.modPort f).parts = s.parts := rfl
@[simp] theorem State.modPort_snapParts (f : PortSt → PortSt) : (s.modPort f).snapParts = s.snapParts := rfl
@[simp] theorem State.modPort_counters (f : PortSt → PortSt) : (s.modPort f).counters = s.counters := rfl
@[simp] theorem State.modPort_snap (f : PortSt → PortSt) : (s.modPort f).snap = s.snap := rfl
@[simp] theorem State.modPort_quayE (f : PortSt → PortSt) : (s.modPort f).quayE = s.quayE := rfl
@[simp] theorem State.modPort_quayW (f : PortSt → PortSt) : (s.modPort f).quayW = s.quayW := rfl
@[simp] theorem State.modPort_hold (f : PortSt → PortSt) : (s.modPort f).hold = s.hold := rfl
@[simp] theorem State.modPort_holdEpoch (f : PortSt → PortSt) : (s.modPort f).holdEpoch = s.holdEpoch := rfl

/-! ## State.modChart -/

@[simp] theorem State.modChart_pending (f : ChartSt → ChartSt) : (s.modChart f).pending = s.pending := rfl
@[simp] theorem State.modChart_freeCtr (f : ChartSt → ChartSt) : (s.modChart f).freeCtr = s.freeCtr := rfl
@[simp] theorem State.modChart_nextId (f : ChartSt → ChartSt) : (s.modChart f).nextId = s.nextId := rfl
@[simp] theorem State.modChart_tide (f : ChartSt → ChartSt) : (s.modChart f).tide = s.tide := rfl
@[simp] theorem State.modChart_east (f : ChartSt → ChartSt) : (s.modChart f).east = s.east := rfl
@[simp] theorem State.modChart_west (f : ChartSt → ChartSt) : (s.modChart f).west = s.west := rfl
@[simp] theorem State.modChart_tiles (f : ChartSt → ChartSt) : (s.modChart f).tiles = s.tiles := rfl
@[simp] theorem State.modChart_streams (f : ChartSt → ChartSt) : (s.modChart f).streams = s.streams := rfl
@[simp] theorem State.modChart_snapStreams (f : ChartSt → ChartSt) : (s.modChart f).snapStreams = s.snapStreams := rfl
@[simp] theorem State.modChart_snapColls (f : ChartSt → ChartSt) : (s.modChart f).snapColls = s.snapColls := rfl
@[simp] theorem State.modChart_colls (f : ChartSt → ChartSt) : (s.modChart f).colls = s.colls := rfl
@[simp] theorem State.modChart_jobs (f : ChartSt → ChartSt) : (s.modChart f).jobs = s.jobs := rfl
@[simp] theorem State.modChart_shards (f : ChartSt → ChartSt) : (s.modChart f).shards = s.shards := rfl
@[simp] theorem State.modChart_snapShards (f : ChartSt → ChartSt) : (s.modChart f).snapShards = s.snapShards := rfl
@[simp] theorem State.modChart_gathers (f : ChartSt → ChartSt) : (s.modChart f).gathers = s.gathers := rfl
@[simp] theorem State.modChart_prefetches (f : ChartSt → ChartSt) : (s.modChart f).prefetches = s.prefetches := rfl
@[simp] theorem State.modChart_lost (f : ChartSt → ChartSt) : (s.modChart f).lost = s.lost := rfl
@[simp] theorem State.modChart_chart (f : ChartSt → ChartSt) : (s.modChart f).chart = f s.chart := rfl
@[simp] theorem State.modChart_berths (f : ChartSt → ChartSt) : (s.modChart f).berths = s.berths := rfl
@[simp] theorem State.modChart_oes (f : ChartSt → ChartSt) : (s.modChart f).oes = s.oes := rfl
@[simp] theorem State.modChart_mbox (f : ChartSt → ChartSt) : (s.modChart f).mbox = s.mbox := rfl
@[simp] theorem State.modChart_fault (f : ChartSt → ChartSt) : (s.modChart f).fault = s.fault := rfl
@[simp] theorem State.modChart_sec (f : ChartSt → ChartSt) : (s.modChart f).sec = s.sec := rfl
@[simp] theorem State.modChart_boot (f : ChartSt → ChartSt) : (s.modChart f).boot = s.boot := rfl
@[simp] theorem State.modChart_tap (f : ChartSt → ChartSt) : (s.modChart f).tap = s.tap := rfl
@[simp] theorem State.modChart_port (f : ChartSt → ChartSt) : (s.modChart f).port = s.port := rfl
@[simp] theorem State.modChart_parts (f : ChartSt → ChartSt) : (s.modChart f).parts = s.parts := rfl
@[simp] theorem State.modChart_snapParts (f : ChartSt → ChartSt) : (s.modChart f).snapParts = s.snapParts := rfl
@[simp] theorem State.modChart_counters (f : ChartSt → ChartSt) : (s.modChart f).counters = s.counters := rfl
@[simp] theorem State.modChart_snap (f : ChartSt → ChartSt) : (s.modChart f).snap = s.snap := rfl
@[simp] theorem State.modChart_quayE (f : ChartSt → ChartSt) : (s.modChart f).quayE = s.quayE := rfl
@[simp] theorem State.modChart_quayW (f : ChartSt → ChartSt) : (s.modChart f).quayW = s.quayW := rfl
@[simp] theorem State.modChart_hold (f : ChartSt → ChartSt) : (s.modChart f).hold = s.hold := rfl
@[simp] theorem State.modChart_holdEpoch (f : ChartSt → ChartSt) : (s.modChart f).holdEpoch = s.holdEpoch := rfl

/-! ## State.modMbox -/

@[simp] theorem State.modMbox_pending (f : MboxSt → MboxSt) : (s.modMbox f).pending = s.pending := rfl
@[simp] theorem State.modMbox_freeCtr (f : MboxSt → MboxSt) : (s.modMbox f).freeCtr = s.freeCtr := rfl
@[simp] theorem State.modMbox_nextId (f : MboxSt → MboxSt) : (s.modMbox f).nextId = s.nextId := rfl
@[simp] theorem State.modMbox_tide (f : MboxSt → MboxSt) : (s.modMbox f).tide = s.tide := rfl
@[simp] theorem State.modMbox_east (f : MboxSt → MboxSt) : (s.modMbox f).east = s.east := rfl
@[simp] theorem State.modMbox_west (f : MboxSt → MboxSt) : (s.modMbox f).west = s.west := rfl
@[simp] theorem State.modMbox_tiles (f : MboxSt → MboxSt) : (s.modMbox f).tiles = s.tiles := rfl
@[simp] theorem State.modMbox_streams (f : MboxSt → MboxSt) : (s.modMbox f).streams = s.streams := rfl
@[simp] theorem State.modMbox_snapStreams (f : MboxSt → MboxSt) : (s.modMbox f).snapStreams = s.snapStreams := rfl
@[simp] theorem State.modMbox_snapColls (f : MboxSt → MboxSt) : (s.modMbox f).snapColls = s.snapColls := rfl
@[simp] theorem State.modMbox_colls (f : MboxSt → MboxSt) : (s.modMbox f).colls = s.colls := rfl
@[simp] theorem State.modMbox_jobs (f : MboxSt → MboxSt) : (s.modMbox f).jobs = s.jobs := rfl
@[simp] theorem State.modMbox_shards (f : MboxSt → MboxSt) : (s.modMbox f).shards = s.shards := rfl
@[simp] theorem State.modMbox_snapShards (f : MboxSt → MboxSt) : (s.modMbox f).snapShards = s.snapShards := rfl
@[simp] theorem State.modMbox_gathers (f : MboxSt → MboxSt) : (s.modMbox f).gathers = s.gathers := rfl
@[simp] theorem State.modMbox_prefetches (f : MboxSt → MboxSt) : (s.modMbox f).prefetches = s.prefetches := rfl
@[simp] theorem State.modMbox_lost (f : MboxSt → MboxSt) : (s.modMbox f).lost = s.lost := rfl
@[simp] theorem State.modMbox_chart (f : MboxSt → MboxSt) : (s.modMbox f).chart = s.chart := rfl
@[simp] theorem State.modMbox_berths (f : MboxSt → MboxSt) : (s.modMbox f).berths = s.berths := rfl
@[simp] theorem State.modMbox_oes (f : MboxSt → MboxSt) : (s.modMbox f).oes = s.oes := rfl
@[simp] theorem State.modMbox_mbox (f : MboxSt → MboxSt) : (s.modMbox f).mbox = f s.mbox := rfl
@[simp] theorem State.modMbox_fault (f : MboxSt → MboxSt) : (s.modMbox f).fault = s.fault := rfl
@[simp] theorem State.modMbox_sec (f : MboxSt → MboxSt) : (s.modMbox f).sec = s.sec := rfl
@[simp] theorem State.modMbox_boot (f : MboxSt → MboxSt) : (s.modMbox f).boot = s.boot := rfl
@[simp] theorem State.modMbox_tap (f : MboxSt → MboxSt) : (s.modMbox f).tap = s.tap := rfl
@[simp] theorem State.modMbox_port (f : MboxSt → MboxSt) : (s.modMbox f).port = s.port := rfl
@[simp] theorem State.modMbox_parts (f : MboxSt → MboxSt) : (s.modMbox f).parts = s.parts := rfl
@[simp] theorem State.modMbox_snapParts (f : MboxSt → MboxSt) : (s.modMbox f).snapParts = s.snapParts := rfl
@[simp] theorem State.modMbox_counters (f : MboxSt → MboxSt) : (s.modMbox f).counters = s.counters := rfl
@[simp] theorem State.modMbox_snap (f : MboxSt → MboxSt) : (s.modMbox f).snap = s.snap := rfl
@[simp] theorem State.modMbox_quayE (f : MboxSt → MboxSt) : (s.modMbox f).quayE = s.quayE := rfl
@[simp] theorem State.modMbox_quayW (f : MboxSt → MboxSt) : (s.modMbox f).quayW = s.quayW := rfl
@[simp] theorem State.modMbox_hold (f : MboxSt → MboxSt) : (s.modMbox f).hold = s.hold := rfl
@[simp] theorem State.modMbox_holdEpoch (f : MboxSt → MboxSt) : (s.modMbox f).holdEpoch = s.holdEpoch := rfl

/-! ## State.modChan -/

@[simp] theorem State.modChan_pending (n : Nat) (f : ChanSt → ChanSt) : (s.modChan n f).pending = s.pending := rfl
@[simp] theorem State.modChan_freeCtr (n : Nat) (f : ChanSt → ChanSt) : (s.modChan n f).freeCtr = s.freeCtr := rfl
@[simp] theorem State.modChan_nextId (n : Nat) (f : ChanSt → ChanSt) : (s.modChan n f).nextId = s.nextId := rfl
@[simp] theorem State.modChan_tide (n : Nat) (f : ChanSt → ChanSt) : (s.modChan n f).tide = s.tide := rfl
@[simp] theorem State.modChan_east (n : Nat) (f : ChanSt → ChanSt) : (s.modChan n f).east = s.east := rfl
@[simp] theorem State.modChan_west (n : Nat) (f : ChanSt → ChanSt) : (s.modChan n f).west = s.west := rfl
@[simp] theorem State.modChan_tiles (n : Nat) (f : ChanSt → ChanSt) : (s.modChan n f).tiles = s.tiles := rfl
@[simp] theorem State.modChan_streams (n : Nat) (f : ChanSt → ChanSt) : (s.modChan n f).streams = s.streams := rfl
@[simp] theorem State.modChan_snapStreams (n : Nat) (f : ChanSt → ChanSt) : (s.modChan n f).snapStreams = s.snapStreams := rfl
@[simp] theorem State.modChan_snapColls (n : Nat) (f : ChanSt → ChanSt) : (s.modChan n f).snapColls = s.snapColls := rfl
@[simp] theorem State.modChan_colls (n : Nat) (f : ChanSt → ChanSt) : (s.modChan n f).colls = s.colls := rfl
@[simp] theorem State.modChan_jobs (n : Nat) (f : ChanSt → ChanSt) : (s.modChan n f).jobs = s.jobs := rfl
@[simp] theorem State.modChan_shards (n : Nat) (f : ChanSt → ChanSt) : (s.modChan n f).shards = s.shards := rfl
@[simp] theorem State.modChan_snapShards (n : Nat) (f : ChanSt → ChanSt) : (s.modChan n f).snapShards = s.snapShards := rfl
@[simp] theorem State.modChan_gathers (n : Nat) (f : ChanSt → ChanSt) : (s.modChan n f).gathers = s.gathers := rfl
@[simp] theorem State.modChan_prefetches (n : Nat) (f : ChanSt → ChanSt) : (s.modChan n f).prefetches = s.prefetches := rfl
@[simp] theorem State.modChan_lost (n : Nat) (f : ChanSt → ChanSt) : (s.modChan n f).lost = s.lost := rfl
@[simp] theorem State.modChan_chart (n : Nat) (f : ChanSt → ChanSt) : (s.modChan n f).chart = s.chart := rfl
@[simp] theorem State.modChan_berths (n : Nat) (f : ChanSt → ChanSt) : (s.modChan n f).berths = s.berths := rfl
@[simp] theorem State.modChan_oes (n : Nat) (f : ChanSt → ChanSt) : (s.modChan n f).oes = s.oes := rfl
@[simp] theorem State.modChan_mbox (n : Nat) (f : ChanSt → ChanSt) : (s.modChan n f).mbox = { s.mbox with chans := Tab.upd {} s.mbox.chans n f } := rfl
@[simp] theorem State.modChan_fault (n : Nat) (f : ChanSt → ChanSt) : (s.modChan n f).fault = s.fault := rfl
@[simp] theorem State.modChan_sec (n : Nat) (f : ChanSt → ChanSt) : (s.modChan n f).sec = s.sec := rfl
@[simp] theorem State.modChan_boot (n : Nat) (f : ChanSt → ChanSt) : (s.modChan n f).boot = s.boot := rfl
@[simp] theorem State.modChan_tap (n : Nat) (f : ChanSt → ChanSt) : (s.modChan n f).tap = s.tap := rfl
@[simp] theorem State.modChan_port (n : Nat) (f : ChanSt → ChanSt) : (s.modChan n f).port = s.port := rfl
@[simp] theorem State.modChan_parts (n : Nat) (f : ChanSt → ChanSt) : (s.modChan n f).parts = s.parts := rfl
@[simp] theorem State.modChan_snapParts (n : Nat) (f : ChanSt → ChanSt) : (s.modChan n f).snapParts = s.snapParts := rfl
@[simp] theorem State.modChan_counters (n : Nat) (f : ChanSt → ChanSt) : (s.modChan n f).counters = s.counters := rfl
@[simp] theorem State.modChan_snap (n : Nat) (f : ChanSt → ChanSt) : (s.modChan n f).snap = s.snap := rfl
@[simp] theorem State.modChan_quayE (n : Nat) (f : ChanSt → ChanSt) : (s.modChan n f).quayE = s.quayE := rfl
@[simp] theorem State.modChan_quayW (n : Nat) (f : ChanSt → ChanSt) : (s.modChan n f).quayW = s.quayW := rfl
@[simp] theorem State.modChan_hold (n : Nat) (f : ChanSt → ChanSt) : (s.modChan n f).hold = s.hold := rfl
@[simp] theorem State.modChan_holdEpoch (n : Nat) (f : ChanSt → ChanSt) : (s.modChan n f).holdEpoch = s.holdEpoch := rfl

/-! ## State.modBerth -/

@[simp] theorem State.modBerth_pending (b : Nat) (f : BerthSt → BerthSt) : (s.modBerth b f).pending = s.pending := rfl
@[simp] theorem State.modBerth_freeCtr (b : Nat) (f : BerthSt → BerthSt) : (s.modBerth b f).freeCtr = s.freeCtr := rfl
@[simp] theorem State.modBerth_nextId (b : Nat) (f : BerthSt → BerthSt) : (s.modBerth b f).nextId = s.nextId := rfl
@[simp] theorem State.modBerth_tide (b : Nat) (f : BerthSt → BerthSt) : (s.modBerth b f).tide = s.tide := rfl
@[simp] theorem State.modBerth_east (b : Nat) (f : BerthSt → BerthSt) : (s.modBerth b f).east = s.east := rfl
@[simp] theorem State.modBerth_west (b : Nat) (f : BerthSt → BerthSt) : (s.modBerth b f).west = s.west := rfl
@[simp] theorem State.modBerth_tiles (b : Nat) (f : BerthSt → BerthSt) : (s.modBerth b f).tiles = s.tiles := rfl
@[simp] theorem State.modBerth_streams (b : Nat) (f : BerthSt → BerthSt) : (s.modBerth b f).streams = s.streams := rfl
@[simp] theorem State.modBerth_snapStreams (b : Nat) (f : BerthSt → BerthSt) : (s.modBerth b f).snapStreams = s.snapStreams := rfl
@[simp] theorem State.modBerth_snapColls (b : Nat) (f : BerthSt → BerthSt) : (s.modBerth b f).snapColls = s.snapColls := rfl
@[simp] theorem State.modBerth_colls (b : Nat) (f : BerthSt → BerthSt) : (s.modBerth b f).colls = s.colls := rfl
@[simp] theorem State.modBerth_jobs (b : Nat) (f : BerthSt → BerthSt) : (s.modBerth b f).jobs = s.jobs := rfl
@[simp] theorem State.modBerth_shards (b : Nat) (f : BerthSt → BerthSt) : (s.modBerth b f).shards = s.shards := rfl
@[simp] theorem State.modBerth_snapShards (b : Nat) (f : BerthSt → BerthSt) : (s.modBerth b f).snapShards = s.snapShards := rfl
@[simp] theorem State.modBerth_gathers (b : Nat) (f : BerthSt → BerthSt) : (s.modBerth b f).gathers = s.gathers := rfl
@[simp] theorem State.modBerth_prefetches (b : Nat) (f : BerthSt → BerthSt) : (s.modBerth b f).prefetches = s.prefetches := rfl
@[simp] theorem State.modBerth_lost (b : Nat) (f : BerthSt → BerthSt) : (s.modBerth b f).lost = s.lost := rfl
@[simp] theorem State.modBerth_chart (b : Nat) (f : BerthSt → BerthSt) : (s.modBerth b f).chart = s.chart := rfl
@[simp] theorem State.modBerth_berths (b : Nat) (f : BerthSt → BerthSt) : (s.modBerth b f).berths = Tab.upd {} s.berths b f := rfl
@[simp] theorem State.modBerth_oes (b : Nat) (f : BerthSt → BerthSt) : (s.modBerth b f).oes = s.oes := rfl
@[simp] theorem State.modBerth_mbox (b : Nat) (f : BerthSt → BerthSt) : (s.modBerth b f).mbox = s.mbox := rfl
@[simp] theorem State.modBerth_fault (b : Nat) (f : BerthSt → BerthSt) : (s.modBerth b f).fault = s.fault := rfl
@[simp] theorem State.modBerth_sec (b : Nat) (f : BerthSt → BerthSt) : (s.modBerth b f).sec = s.sec := rfl
@[simp] theorem State.modBerth_boot (b : Nat) (f : BerthSt → BerthSt) : (s.modBerth b f).boot = s.boot := rfl
@[simp] theorem State.modBerth_tap (b : Nat) (f : BerthSt → BerthSt) : (s.modBerth b f).tap = s.tap := rfl
@[simp] theorem State.modBerth_port (b : Nat) (f : BerthSt → BerthSt) : (s.modBerth b f).port = s.port := rfl
@[simp] theorem State.modBerth_parts (b : Nat) (f : BerthSt → BerthSt) : (s.modBerth b f).parts = s.parts := rfl
@[simp] theorem State.modBerth_snapParts (b : Nat) (f : BerthSt → BerthSt) : (s.modBerth b f).snapParts = s.snapParts := rfl
@[simp] theorem State.modBerth_counters (b : Nat) (f : BerthSt → BerthSt) : (s.modBerth b f).counters = s.counters := rfl
@[simp] theorem State.modBerth_snap (b : Nat) (f : BerthSt → BerthSt) : (s.modBerth b f).snap = s.snap := rfl
@[simp] theorem State.modBerth_quayE (b : Nat) (f : BerthSt → BerthSt) : (s.modBerth b f).quayE = s.quayE := rfl
@[simp] theorem State.modBerth_quayW (b : Nat) (f : BerthSt → BerthSt) : (s.modBerth b f).quayW = s.quayW := rfl
@[simp] theorem State.modBerth_hold (b : Nat) (f : BerthSt → BerthSt) : (s.modBerth b f).hold = s.hold := rfl
@[simp] theorem State.modBerth_holdEpoch (b : Nat) (f : BerthSt → BerthSt) : (s.modBerth b f).holdEpoch = s.holdEpoch := rfl

/-! ## State.modOe -/

@[simp] theorem State.modOe_pending (k : Nat) (f : OeSt → OeSt) : (s.modOe k f).pending = s.pending := rfl
@[simp] theorem State.modOe_freeCtr (k : Nat) (f : OeSt → OeSt) : (s.modOe k f).freeCtr = s.freeCtr := rfl
@[simp] theorem State.modOe_nextId (k : Nat) (f : OeSt → OeSt) : (s.modOe k f).nextId = s.nextId := rfl
@[simp] theorem State.modOe_tide (k : Nat) (f : OeSt → OeSt) : (s.modOe k f).tide = s.tide := rfl
@[simp] theorem State.modOe_east (k : Nat) (f : OeSt → OeSt) : (s.modOe k f).east = s.east := rfl
@[simp] theorem State.modOe_west (k : Nat) (f : OeSt → OeSt) : (s.modOe k f).west = s.west := rfl
@[simp] theorem State.modOe_tiles (k : Nat) (f : OeSt → OeSt) : (s.modOe k f).tiles = s.tiles := rfl
@[simp] theorem State.modOe_streams (k : Nat) (f : OeSt → OeSt) : (s.modOe k f).streams = s.streams := rfl
@[simp] theorem State.modOe_snapStreams (k : Nat) (f : OeSt → OeSt) : (s.modOe k f).snapStreams = s.snapStreams := rfl
@[simp] theorem State.modOe_snapColls (k : Nat) (f : OeSt → OeSt) : (s.modOe k f).snapColls = s.snapColls := rfl
@[simp] theorem State.modOe_colls (k : Nat) (f : OeSt → OeSt) : (s.modOe k f).colls = s.colls := rfl
@[simp] theorem State.modOe_jobs (k : Nat) (f : OeSt → OeSt) : (s.modOe k f).jobs = s.jobs := rfl
@[simp] theorem State.modOe_shards (k : Nat) (f : OeSt → OeSt) : (s.modOe k f).shards = s.shards := rfl
@[simp] theorem State.modOe_snapShards (k : Nat) (f : OeSt → OeSt) : (s.modOe k f).snapShards = s.snapShards := rfl
@[simp] theorem State.modOe_gathers (k : Nat) (f : OeSt → OeSt) : (s.modOe k f).gathers = s.gathers := rfl
@[simp] theorem State.modOe_prefetches (k : Nat) (f : OeSt → OeSt) : (s.modOe k f).prefetches = s.prefetches := rfl
@[simp] theorem State.modOe_lost (k : Nat) (f : OeSt → OeSt) : (s.modOe k f).lost = s.lost := rfl
@[simp] theorem State.modOe_chart (k : Nat) (f : OeSt → OeSt) : (s.modOe k f).chart = s.chart := rfl
@[simp] theorem State.modOe_berths (k : Nat) (f : OeSt → OeSt) : (s.modOe k f).berths = s.berths := rfl
@[simp] theorem State.modOe_oes (k : Nat) (f : OeSt → OeSt) : (s.modOe k f).oes = Tab.upd {} s.oes k f := rfl
@[simp] theorem State.modOe_mbox (k : Nat) (f : OeSt → OeSt) : (s.modOe k f).mbox = s.mbox := rfl
@[simp] theorem State.modOe_fault (k : Nat) (f : OeSt → OeSt) : (s.modOe k f).fault = s.fault := rfl
@[simp] theorem State.modOe_sec (k : Nat) (f : OeSt → OeSt) : (s.modOe k f).sec = s.sec := rfl
@[simp] theorem State.modOe_boot (k : Nat) (f : OeSt → OeSt) : (s.modOe k f).boot = s.boot := rfl
@[simp] theorem State.modOe_tap (k : Nat) (f : OeSt → OeSt) : (s.modOe k f).tap = s.tap := rfl
@[simp] theorem State.modOe_port (k : Nat) (f : OeSt → OeSt) : (s.modOe k f).port = s.port := rfl
@[simp] theorem State.modOe_parts (k : Nat) (f : OeSt → OeSt) : (s.modOe k f).parts = s.parts := rfl
@[simp] theorem State.modOe_snapParts (k : Nat) (f : OeSt → OeSt) : (s.modOe k f).snapParts = s.snapParts := rfl
@[simp] theorem State.modOe_counters (k : Nat) (f : OeSt → OeSt) : (s.modOe k f).counters = s.counters := rfl
@[simp] theorem State.modOe_snap (k : Nat) (f : OeSt → OeSt) : (s.modOe k f).snap = s.snap := rfl
@[simp] theorem State.modOe_quayE (k : Nat) (f : OeSt → OeSt) : (s.modOe k f).quayE = s.quayE := rfl
@[simp] theorem State.modOe_quayW (k : Nat) (f : OeSt → OeSt) : (s.modOe k f).quayW = s.quayW := rfl
@[simp] theorem State.modOe_hold (k : Nat) (f : OeSt → OeSt) : (s.modOe k f).hold = s.hold := rfl
@[simp] theorem State.modOe_holdEpoch (k : Nat) (f : OeSt → OeSt) : (s.modOe k f).holdEpoch = s.holdEpoch := rfl

/-! ## State.modStream -/

@[simp] theorem State.modStream_pending (n : Nat) (f : StreamSt → StreamSt) : (s.modStream n f).pending = s.pending := rfl
@[simp] theorem State.modStream_freeCtr (n : Nat) (f : StreamSt → StreamSt) : (s.modStream n f).freeCtr = s.freeCtr := rfl
@[simp] theorem State.modStream_nextId (n : Nat) (f : StreamSt → StreamSt) : (s.modStream n f).nextId = s.nextId := rfl
@[simp] theorem State.modStream_tide (n : Nat) (f : StreamSt → StreamSt) : (s.modStream n f).tide = s.tide := rfl
@[simp] theorem State.modStream_east (n : Nat) (f : StreamSt → StreamSt) : (s.modStream n f).east = s.east := rfl
@[simp] theorem State.modStream_west (n : Nat) (f : StreamSt → StreamSt) : (s.modStream n f).west = s.west := rfl
@[simp] theorem State.modStream_tiles (n : Nat) (f : StreamSt → StreamSt) : (s.modStream n f).tiles = s.tiles := rfl
@[simp] theorem State.modStream_streams (n : Nat) (f : StreamSt → StreamSt) : (s.modStream n f).streams = Tab.upd {} s.streams n f := rfl
@[simp] theorem State.modStream_snapStreams (n : Nat) (f : StreamSt → StreamSt) : (s.modStream n f).snapStreams = s.snapStreams := rfl
@[simp] theorem State.modStream_snapColls (n : Nat) (f : StreamSt → StreamSt) : (s.modStream n f).snapColls = s.snapColls := rfl
@[simp] theorem State.modStream_colls (n : Nat) (f : StreamSt → StreamSt) : (s.modStream n f).colls = s.colls := rfl
@[simp] theorem State.modStream_jobs (n : Nat) (f : StreamSt → StreamSt) : (s.modStream n f).jobs = s.jobs := rfl
@[simp] theorem State.modStream_shards (n : Nat) (f : StreamSt → StreamSt) : (s.modStream n f).shards = s.shards := rfl
@[simp] theorem State.modStream_snapShards (n : Nat) (f : StreamSt → StreamSt) : (s.modStream n f).snapShards = s.snapShards := rfl
@[simp] theorem State.modStream_gathers (n : Nat) (f : StreamSt → StreamSt) : (s.modStream n f).gathers = s.gathers := rfl
@[simp] theorem State.modStream_prefetches (n : Nat) (f : StreamSt → StreamSt) : (s.modStream n f).prefetches = s.prefetches := rfl
@[simp] theorem State.modStream_lost (n : Nat) (f : StreamSt → StreamSt) : (s.modStream n f).lost = s.lost := rfl
@[simp] theorem State.modStream_chart (n : Nat) (f : StreamSt → StreamSt) : (s.modStream n f).chart = s.chart := rfl
@[simp] theorem State.modStream_berths (n : Nat) (f : StreamSt → StreamSt) : (s.modStream n f).berths = s.berths := rfl
@[simp] theorem State.modStream_oes (n : Nat) (f : StreamSt → StreamSt) : (s.modStream n f).oes = s.oes := rfl
@[simp] theorem State.modStream_mbox (n : Nat) (f : StreamSt → StreamSt) : (s.modStream n f).mbox = s.mbox := rfl
@[simp] theorem State.modStream_fault (n : Nat) (f : StreamSt → StreamSt) : (s.modStream n f).fault = s.fault := rfl
@[simp] theorem State.modStream_sec (n : Nat) (f : StreamSt → StreamSt) : (s.modStream n f).sec = s.sec := rfl
@[simp] theorem State.modStream_boot (n : Nat) (f : StreamSt → StreamSt) : (s.modStream n f).boot = s.boot := rfl
@[simp] theorem State.modStream_tap (n : Nat) (f : StreamSt → StreamSt) : (s.modStream n f).tap = s.tap := rfl
@[simp] theorem State.modStream_port (n : Nat) (f : StreamSt → StreamSt) : (s.modStream n f).port = s.port := rfl
@[simp] theorem State.modStream_parts (n : Nat) (f : StreamSt → StreamSt) : (s.modStream n f).parts = s.parts := rfl
@[simp] theorem State.modStream_snapParts (n : Nat) (f : StreamSt → StreamSt) : (s.modStream n f).snapParts = s.snapParts := rfl
@[simp] theorem State.modStream_counters (n : Nat) (f : StreamSt → StreamSt) : (s.modStream n f).counters = s.counters := rfl
@[simp] theorem State.modStream_snap (n : Nat) (f : StreamSt → StreamSt) : (s.modStream n f).snap = s.snap := rfl
@[simp] theorem State.modStream_quayE (n : Nat) (f : StreamSt → StreamSt) : (s.modStream n f).quayE = s.quayE := rfl
@[simp] theorem State.modStream_quayW (n : Nat) (f : StreamSt → StreamSt) : (s.modStream n f).quayW = s.quayW := rfl
@[simp] theorem State.modStream_hold (n : Nat) (f : StreamSt → StreamSt) : (s.modStream n f).hold = s.hold := rfl
@[simp] theorem State.modStream_holdEpoch (n : Nat) (f : StreamSt → StreamSt) : (s.modStream n f).holdEpoch = s.holdEpoch := rfl

/-! ## State.modColl -/

@[simp] theorem State.modColl_pending (n : Nat) (f : CollSt → CollSt) : (s.modColl n f).pending = s.pending := rfl
@[simp] theorem State.modColl_freeCtr (n : Nat) (f : CollSt → CollSt) : (s.modColl n f).freeCtr = s.freeCtr := rfl
@[simp] theorem State.modColl_nextId (n : Nat) (f : CollSt → CollSt) : (s.modColl n f).nextId = s.nextId := rfl
@[simp] theorem State.modColl_tide (n : Nat) (f : CollSt → CollSt) : (s.modColl n f).tide = s.tide := rfl
@[simp] theorem State.modColl_east (n : Nat) (f : CollSt → CollSt) : (s.modColl n f).east = s.east := rfl
@[simp] theorem State.modColl_west (n : Nat) (f : CollSt → CollSt) : (s.modColl n f).west = s.west := rfl
@[simp] theorem State.modColl_tiles (n : Nat) (f : CollSt → CollSt) : (s.modColl n f).tiles = s.tiles := rfl
@[simp] theorem State.modColl_streams (n : Nat) (f : CollSt → CollSt) : (s.modColl n f).streams = s.streams := rfl
@[simp] theorem State.modColl_snapStreams (n : Nat) (f : CollSt → CollSt) : (s.modColl n f).snapStreams = s.snapStreams := rfl
@[simp] theorem State.modColl_snapColls (n : Nat) (f : CollSt → CollSt) : (s.modColl n f).snapColls = s.snapColls := rfl
@[simp] theorem State.modColl_colls (n : Nat) (f : CollSt → CollSt) : (s.modColl n f).colls = Tab.upd {} s.colls n f := rfl
@[simp] theorem State.modColl_jobs (n : Nat) (f : CollSt → CollSt) : (s.modColl n f).jobs = s.jobs := rfl
@[simp] theorem State.modColl_shards (n : Nat) (f : CollSt → CollSt) : (s.modColl n f).shards = s.shards := rfl
@[simp] theorem State.modColl_snapShards (n : Nat) (f : CollSt → CollSt) : (s.modColl n f).snapShards = s.snapShards := rfl
@[simp] theorem State.modColl_gathers (n : Nat) (f : CollSt → CollSt) : (s.modColl n f).gathers = s.gathers := rfl
@[simp] theorem State.modColl_prefetches (n : Nat) (f : CollSt → CollSt) : (s.modColl n f).prefetches = s.prefetches := rfl
@[simp] theorem State.modColl_lost (n : Nat) (f : CollSt → CollSt) : (s.modColl n f).lost = s.lost := rfl
@[simp] theorem State.modColl_chart (n : Nat) (f : CollSt → CollSt) : (s.modColl n f).chart = s.chart := rfl
@[simp] theorem State.modColl_berths (n : Nat) (f : CollSt → CollSt) : (s.modColl n f).berths = s.berths := rfl
@[simp] theorem State.modColl_oes (n : Nat) (f : CollSt → CollSt) : (s.modColl n f).oes = s.oes := rfl
@[simp] theorem State.modColl_mbox (n : Nat) (f : CollSt → CollSt) : (s.modColl n f).mbox = s.mbox := rfl
@[simp] theorem State.modColl_fault (n : Nat) (f : CollSt → CollSt) : (s.modColl n f).fault = s.fault := rfl
@[simp] theorem State.modColl_sec (n : Nat) (f : CollSt → CollSt) : (s.modColl n f).sec = s.sec := rfl
@[simp] theorem State.modColl_boot (n : Nat) (f : CollSt → CollSt) : (s.modColl n f).boot = s.boot := rfl
@[simp] theorem State.modColl_tap (n : Nat) (f : CollSt → CollSt) : (s.modColl n f).tap = s.tap := rfl
@[simp] theorem State.modColl_port (n : Nat) (f : CollSt → CollSt) : (s.modColl n f).port = s.port := rfl
@[simp] theorem State.modColl_parts (n : Nat) (f : CollSt → CollSt) : (s.modColl n f).parts = s.parts := rfl
@[simp] theorem State.modColl_snapParts (n : Nat) (f : CollSt → CollSt) : (s.modColl n f).snapParts = s.snapParts := rfl
@[simp] theorem State.modColl_counters (n : Nat) (f : CollSt → CollSt) : (s.modColl n f).counters = s.counters := rfl
@[simp] theorem State.modColl_snap (n : Nat) (f : CollSt → CollSt) : (s.modColl n f).snap = s.snap := rfl
@[simp] theorem State.modColl_quayE (n : Nat) (f : CollSt → CollSt) : (s.modColl n f).quayE = s.quayE := rfl
@[simp] theorem State.modColl_quayW (n : Nat) (f : CollSt → CollSt) : (s.modColl n f).quayW = s.quayW := rfl
@[simp] theorem State.modColl_hold (n : Nat) (f : CollSt → CollSt) : (s.modColl n f).hold = s.hold := rfl
@[simp] theorem State.modColl_holdEpoch (n : Nat) (f : CollSt → CollSt) : (s.modColl n f).holdEpoch = s.holdEpoch := rfl

/-! ## State.modJob -/

@[simp] theorem State.modJob_pending (n : Nat) (f : JobSt → JobSt) : (s.modJob n f).pending = s.pending := rfl
@[simp] theorem State.modJob_freeCtr (n : Nat) (f : JobSt → JobSt) : (s.modJob n f).freeCtr = s.freeCtr := rfl
@[simp] theorem State.modJob_nextId (n : Nat) (f : JobSt → JobSt) : (s.modJob n f).nextId = s.nextId := rfl
@[simp] theorem State.modJob_tide (n : Nat) (f : JobSt → JobSt) : (s.modJob n f).tide = s.tide := rfl
@[simp] theorem State.modJob_east (n : Nat) (f : JobSt → JobSt) : (s.modJob n f).east = s.east := rfl
@[simp] theorem State.modJob_west (n : Nat) (f : JobSt → JobSt) : (s.modJob n f).west = s.west := rfl
@[simp] theorem State.modJob_tiles (n : Nat) (f : JobSt → JobSt) : (s.modJob n f).tiles = s.tiles := rfl
@[simp] theorem State.modJob_streams (n : Nat) (f : JobSt → JobSt) : (s.modJob n f).streams = s.streams := rfl
@[simp] theorem State.modJob_snapStreams (n : Nat) (f : JobSt → JobSt) : (s.modJob n f).snapStreams = s.snapStreams := rfl
@[simp] theorem State.modJob_snapColls (n : Nat) (f : JobSt → JobSt) : (s.modJob n f).snapColls = s.snapColls := rfl
@[simp] theorem State.modJob_colls (n : Nat) (f : JobSt → JobSt) : (s.modJob n f).colls = s.colls := rfl
@[simp] theorem State.modJob_jobs (n : Nat) (f : JobSt → JobSt) : (s.modJob n f).jobs = Tab.upd {} s.jobs n f := rfl
@[simp] theorem State.modJob_shards (n : Nat) (f : JobSt → JobSt) : (s.modJob n f).shards = s.shards := rfl
@[simp] theorem State.modJob_snapShards (n : Nat) (f : JobSt → JobSt) : (s.modJob n f).snapShards = s.snapShards := rfl
@[simp] theorem State.modJob_gathers (n : Nat) (f : JobSt → JobSt) : (s.modJob n f).gathers = s.gathers := rfl
@[simp] theorem State.modJob_prefetches (n : Nat) (f : JobSt → JobSt) : (s.modJob n f).prefetches = s.prefetches := rfl
@[simp] theorem State.modJob_lost (n : Nat) (f : JobSt → JobSt) : (s.modJob n f).lost = s.lost := rfl
@[simp] theorem State.modJob_chart (n : Nat) (f : JobSt → JobSt) : (s.modJob n f).chart = s.chart := rfl
@[simp] theorem State.modJob_berths (n : Nat) (f : JobSt → JobSt) : (s.modJob n f).berths = s.berths := rfl
@[simp] theorem State.modJob_oes (n : Nat) (f : JobSt → JobSt) : (s.modJob n f).oes = s.oes := rfl
@[simp] theorem State.modJob_mbox (n : Nat) (f : JobSt → JobSt) : (s.modJob n f).mbox = s.mbox := rfl
@[simp] theorem State.modJob_fault (n : Nat) (f : JobSt → JobSt) : (s.modJob n f).fault = s.fault := rfl
@[simp] theorem State.modJob_sec (n : Nat) (f : JobSt → JobSt) : (s.modJob n f).sec = s.sec := rfl
@[simp] theorem State.modJob_boot (n : Nat) (f : JobSt → JobSt) : (s.modJob n f).boot = s.boot := rfl
@[simp] theorem State.modJob_tap (n : Nat) (f : JobSt → JobSt) : (s.modJob n f).tap = s.tap := rfl
@[simp] theorem State.modJob_port (n : Nat) (f : JobSt → JobSt) : (s.modJob n f).port = s.port := rfl
@[simp] theorem State.modJob_parts (n : Nat) (f : JobSt → JobSt) : (s.modJob n f).parts = s.parts := rfl
@[simp] theorem State.modJob_snapParts (n : Nat) (f : JobSt → JobSt) : (s.modJob n f).snapParts = s.snapParts := rfl
@[simp] theorem State.modJob_counters (n : Nat) (f : JobSt → JobSt) : (s.modJob n f).counters = s.counters := rfl
@[simp] theorem State.modJob_snap (n : Nat) (f : JobSt → JobSt) : (s.modJob n f).snap = s.snap := rfl
@[simp] theorem State.modJob_quayE (n : Nat) (f : JobSt → JobSt) : (s.modJob n f).quayE = s.quayE := rfl
@[simp] theorem State.modJob_quayW (n : Nat) (f : JobSt → JobSt) : (s.modJob n f).quayW = s.quayW := rfl
@[simp] theorem State.modJob_hold (n : Nat) (f : JobSt → JobSt) : (s.modJob n f).hold = s.hold := rfl
@[simp] theorem State.modJob_holdEpoch (n : Nat) (f : JobSt → JobSt) : (s.modJob n f).holdEpoch = s.holdEpoch := rfl

/-! ## State.modTile -/

@[simp] theorem State.modTile_pending (k : Nat) (f : TileSt → TileSt) : (s.modTile k f).pending = s.pending := rfl
@[simp] theorem State.modTile_freeCtr (k : Nat) (f : TileSt → TileSt) : (s.modTile k f).freeCtr = s.freeCtr := rfl
@[simp] theorem State.modTile_nextId (k : Nat) (f : TileSt → TileSt) : (s.modTile k f).nextId = s.nextId := rfl
@[simp] theorem State.modTile_tide (k : Nat) (f : TileSt → TileSt) : (s.modTile k f).tide = s.tide := rfl
@[simp] theorem State.modTile_east (k : Nat) (f : TileSt → TileSt) : (s.modTile k f).east = s.east := rfl
@[simp] theorem State.modTile_west (k : Nat) (f : TileSt → TileSt) : (s.modTile k f).west = s.west := rfl
@[simp] theorem State.modTile_tiles (k : Nat) (f : TileSt → TileSt) : (s.modTile k f).tiles = Tab.upd { phys := k % 8 } s.tiles k f := rfl
@[simp] theorem State.modTile_streams (k : Nat) (f : TileSt → TileSt) : (s.modTile k f).streams = s.streams := rfl
@[simp] theorem State.modTile_snapStreams (k : Nat) (f : TileSt → TileSt) : (s.modTile k f).snapStreams = s.snapStreams := rfl
@[simp] theorem State.modTile_snapColls (k : Nat) (f : TileSt → TileSt) : (s.modTile k f).snapColls = s.snapColls := rfl
@[simp] theorem State.modTile_colls (k : Nat) (f : TileSt → TileSt) : (s.modTile k f).colls = s.colls := rfl
@[simp] theorem State.modTile_jobs (k : Nat) (f : TileSt → TileSt) : (s.modTile k f).jobs = s.jobs := rfl
@[simp] theorem State.modTile_shards (k : Nat) (f : TileSt → TileSt) : (s.modTile k f).shards = s.shards := rfl
@[simp] theorem State.modTile_snapShards (k : Nat) (f : TileSt → TileSt) : (s.modTile k f).snapShards = s.snapShards := rfl
@[simp] theorem State.modTile_gathers (k : Nat) (f : TileSt → TileSt) : (s.modTile k f).gathers = s.gathers := rfl
@[simp] theorem State.modTile_prefetches (k : Nat) (f : TileSt → TileSt) : (s.modTile k f).prefetches = s.prefetches := rfl
@[simp] theorem State.modTile_lost (k : Nat) (f : TileSt → TileSt) : (s.modTile k f).lost = s.lost := rfl
@[simp] theorem State.modTile_chart (k : Nat) (f : TileSt → TileSt) : (s.modTile k f).chart = s.chart := rfl
@[simp] theorem State.modTile_berths (k : Nat) (f : TileSt → TileSt) : (s.modTile k f).berths = s.berths := rfl
@[simp] theorem State.modTile_oes (k : Nat) (f : TileSt → TileSt) : (s.modTile k f).oes = s.oes := rfl
@[simp] theorem State.modTile_mbox (k : Nat) (f : TileSt → TileSt) : (s.modTile k f).mbox = s.mbox := rfl
@[simp] theorem State.modTile_fault (k : Nat) (f : TileSt → TileSt) : (s.modTile k f).fault = s.fault := rfl
@[simp] theorem State.modTile_sec (k : Nat) (f : TileSt → TileSt) : (s.modTile k f).sec = s.sec := rfl
@[simp] theorem State.modTile_boot (k : Nat) (f : TileSt → TileSt) : (s.modTile k f).boot = s.boot := rfl
@[simp] theorem State.modTile_tap (k : Nat) (f : TileSt → TileSt) : (s.modTile k f).tap = s.tap := rfl
@[simp] theorem State.modTile_port (k : Nat) (f : TileSt → TileSt) : (s.modTile k f).port = s.port := rfl
@[simp] theorem State.modTile_parts (k : Nat) (f : TileSt → TileSt) : (s.modTile k f).parts = s.parts := rfl
@[simp] theorem State.modTile_snapParts (k : Nat) (f : TileSt → TileSt) : (s.modTile k f).snapParts = s.snapParts := rfl
@[simp] theorem State.modTile_counters (k : Nat) (f : TileSt → TileSt) : (s.modTile k f).counters = s.counters := rfl
@[simp] theorem State.modTile_snap (k : Nat) (f : TileSt → TileSt) : (s.modTile k f).snap = s.snap := rfl
@[simp] theorem State.modTile_quayE (k : Nat) (f : TileSt → TileSt) : (s.modTile k f).quayE = s.quayE := rfl
@[simp] theorem State.modTile_quayW (k : Nat) (f : TileSt → TileSt) : (s.modTile k f).quayW = s.quayW := rfl
@[simp] theorem State.modTile_hold (k : Nat) (f : TileSt → TileSt) : (s.modTile k f).hold = s.hold := rfl
@[simp] theorem State.modTile_holdEpoch (k : Nat) (f : TileSt → TileSt) : (s.modTile k f).holdEpoch = s.holdEpoch := rfl

/-! ## State.count -/

@[simp] theorem State.count_pending (c : Ctr) (i n : Nat) : (s.count c i n).pending = s.pending := rfl
@[simp] theorem State.count_freeCtr (c : Ctr) (i n : Nat) : (s.count c i n).freeCtr = s.freeCtr := rfl
@[simp] theorem State.count_nextId (c : Ctr) (i n : Nat) : (s.count c i n).nextId = s.nextId := rfl
@[simp] theorem State.count_tide (c : Ctr) (i n : Nat) : (s.count c i n).tide = s.tide := rfl
@[simp] theorem State.count_east (c : Ctr) (i n : Nat) : (s.count c i n).east = s.east := rfl
@[simp] theorem State.count_west (c : Ctr) (i n : Nat) : (s.count c i n).west = s.west := rfl
@[simp] theorem State.count_tiles (c : Ctr) (i n : Nat) : (s.count c i n).tiles = s.tiles := rfl
@[simp] theorem State.count_streams (c : Ctr) (i n : Nat) : (s.count c i n).streams = s.streams := rfl
@[simp] theorem State.count_snapStreams (c : Ctr) (i n : Nat) : (s.count c i n).snapStreams = s.snapStreams := rfl
@[simp] theorem State.count_snapColls (c : Ctr) (i n : Nat) : (s.count c i n).snapColls = s.snapColls := rfl
@[simp] theorem State.count_colls (c : Ctr) (i n : Nat) : (s.count c i n).colls = s.colls := rfl
@[simp] theorem State.count_jobs (c : Ctr) (i n : Nat) : (s.count c i n).jobs = s.jobs := rfl
@[simp] theorem State.count_shards (c : Ctr) (i n : Nat) : (s.count c i n).shards = s.shards := rfl
@[simp] theorem State.count_snapShards (c : Ctr) (i n : Nat) : (s.count c i n).snapShards = s.snapShards := rfl
@[simp] theorem State.count_gathers (c : Ctr) (i n : Nat) : (s.count c i n).gathers = s.gathers := rfl
@[simp] theorem State.count_prefetches (c : Ctr) (i n : Nat) : (s.count c i n).prefetches = s.prefetches := rfl
@[simp] theorem State.count_lost (c : Ctr) (i n : Nat) : (s.count c i n).lost = s.lost := rfl
@[simp] theorem State.count_chart (c : Ctr) (i n : Nat) : (s.count c i n).chart = s.chart := rfl
@[simp] theorem State.count_berths (c : Ctr) (i n : Nat) : (s.count c i n).berths = s.berths := rfl
@[simp] theorem State.count_oes (c : Ctr) (i n : Nat) : (s.count c i n).oes = s.oes := rfl
@[simp] theorem State.count_mbox (c : Ctr) (i n : Nat) : (s.count c i n).mbox = s.mbox := rfl
@[simp] theorem State.count_fault (c : Ctr) (i n : Nat) : (s.count c i n).fault = s.fault := rfl
@[simp] theorem State.count_sec (c : Ctr) (i n : Nat) : (s.count c i n).sec = s.sec := rfl
@[simp] theorem State.count_boot (c : Ctr) (i n : Nat) : (s.count c i n).boot = s.boot := rfl
@[simp] theorem State.count_tap (c : Ctr) (i n : Nat) : (s.count c i n).tap = s.tap := rfl
@[simp] theorem State.count_port (c : Ctr) (i n : Nat) : (s.count c i n).port = s.port := rfl
@[simp] theorem State.count_parts (c : Ctr) (i n : Nat) : (s.count c i n).parts = s.parts := rfl
@[simp] theorem State.count_snapParts (c : Ctr) (i n : Nat) : (s.count c i n).snapParts = s.snapParts := rfl
@[simp] theorem State.count_counters (c : Ctr) (i n : Nat) : (s.count c i n).counters = Tab.upd 0 s.counters (c.key i) (fun x => satAdd 32 x n) := rfl
@[simp] theorem State.count_snap (c : Ctr) (i n : Nat) : (s.count c i n).snap = s.snap := rfl
@[simp] theorem State.count_quayE (c : Ctr) (i n : Nat) : (s.count c i n).quayE = s.quayE := rfl
@[simp] theorem State.count_quayW (c : Ctr) (i n : Nat) : (s.count c i n).quayW = s.quayW := rfl
@[simp] theorem State.count_hold (c : Ctr) (i n : Nat) : (s.count c i n).hold = s.hold := rfl
@[simp] theorem State.count_holdEpoch (c : Ctr) (i n : Nat) : (s.count c i n).holdEpoch = s.holdEpoch := rfl

/-! ## State.modHalf -/

@[simp] theorem State.modHalf_pending (h : Half) (f : HalfSt → HalfSt) : (s.modHalf h f).pending = s.pending := by cases h <;> rfl
@[simp] theorem State.modHalf_freeCtr (h : Half) (f : HalfSt → HalfSt) : (s.modHalf h f).freeCtr = s.freeCtr := by cases h <;> rfl
@[simp] theorem State.modHalf_nextId (h : Half) (f : HalfSt → HalfSt) : (s.modHalf h f).nextId = s.nextId := by cases h <;> rfl
@[simp] theorem State.modHalf_tide (h : Half) (f : HalfSt → HalfSt) : (s.modHalf h f).tide = s.tide := by cases h <;> rfl
@[simp] theorem State.modHalf_tiles (h : Half) (f : HalfSt → HalfSt) : (s.modHalf h f).tiles = s.tiles := by cases h <;> rfl
@[simp] theorem State.modHalf_streams (h : Half) (f : HalfSt → HalfSt) : (s.modHalf h f).streams = s.streams := by cases h <;> rfl
@[simp] theorem State.modHalf_snapStreams (h : Half) (f : HalfSt → HalfSt) : (s.modHalf h f).snapStreams = s.snapStreams := by cases h <;> rfl
@[simp] theorem State.modHalf_snapColls (h : Half) (f : HalfSt → HalfSt) : (s.modHalf h f).snapColls = s.snapColls := by cases h <;> rfl
@[simp] theorem State.modHalf_colls (h : Half) (f : HalfSt → HalfSt) : (s.modHalf h f).colls = s.colls := by cases h <;> rfl
@[simp] theorem State.modHalf_jobs (h : Half) (f : HalfSt → HalfSt) : (s.modHalf h f).jobs = s.jobs := by cases h <;> rfl
@[simp] theorem State.modHalf_shards (h : Half) (f : HalfSt → HalfSt) : (s.modHalf h f).shards = s.shards := by cases h <;> rfl
@[simp] theorem State.modHalf_snapShards (h : Half) (f : HalfSt → HalfSt) : (s.modHalf h f).snapShards = s.snapShards := by cases h <;> rfl
@[simp] theorem State.modHalf_gathers (h : Half) (f : HalfSt → HalfSt) : (s.modHalf h f).gathers = s.gathers := by cases h <;> rfl
@[simp] theorem State.modHalf_prefetches (h : Half) (f : HalfSt → HalfSt) : (s.modHalf h f).prefetches = s.prefetches := by cases h <;> rfl
@[simp] theorem State.modHalf_lost (h : Half) (f : HalfSt → HalfSt) : (s.modHalf h f).lost = s.lost := by cases h <;> rfl
@[simp] theorem State.modHalf_chart (h : Half) (f : HalfSt → HalfSt) : (s.modHalf h f).chart = s.chart := by cases h <;> rfl
@[simp] theorem State.modHalf_berths (h : Half) (f : HalfSt → HalfSt) : (s.modHalf h f).berths = s.berths := by cases h <;> rfl
@[simp] theorem State.modHalf_oes (h : Half) (f : HalfSt → HalfSt) : (s.modHalf h f).oes = s.oes := by cases h <;> rfl
@[simp] theorem State.modHalf_mbox (h : Half) (f : HalfSt → HalfSt) : (s.modHalf h f).mbox = s.mbox := by cases h <;> rfl
@[simp] theorem State.modHalf_fault (h : Half) (f : HalfSt → HalfSt) : (s.modHalf h f).fault = s.fault := by cases h <;> rfl
@[simp] theorem State.modHalf_sec (h : Half) (f : HalfSt → HalfSt) : (s.modHalf h f).sec = s.sec := by cases h <;> rfl
@[simp] theorem State.modHalf_boot (h : Half) (f : HalfSt → HalfSt) : (s.modHalf h f).boot = s.boot := by cases h <;> rfl
@[simp] theorem State.modHalf_tap (h : Half) (f : HalfSt → HalfSt) : (s.modHalf h f).tap = s.tap := by cases h <;> rfl
@[simp] theorem State.modHalf_port (h : Half) (f : HalfSt → HalfSt) : (s.modHalf h f).port = s.port := by cases h <;> rfl
@[simp] theorem State.modHalf_parts (h : Half) (f : HalfSt → HalfSt) : (s.modHalf h f).parts = s.parts := by cases h <;> rfl
@[simp] theorem State.modHalf_snapParts (h : Half) (f : HalfSt → HalfSt) : (s.modHalf h f).snapParts = s.snapParts := by cases h <;> rfl
@[simp] theorem State.modHalf_counters (h : Half) (f : HalfSt → HalfSt) : (s.modHalf h f).counters = s.counters := by cases h <;> rfl
@[simp] theorem State.modHalf_snap (h : Half) (f : HalfSt → HalfSt) : (s.modHalf h f).snap = s.snap := by cases h <;> rfl
@[simp] theorem State.modHalf_quayE (h : Half) (f : HalfSt → HalfSt) : (s.modHalf h f).quayE = s.quayE := by cases h <;> rfl
@[simp] theorem State.modHalf_quayW (h : Half) (f : HalfSt → HalfSt) : (s.modHalf h f).quayW = s.quayW := by cases h <;> rfl
@[simp] theorem State.modHalf_hold (h : Half) (f : HalfSt → HalfSt) : (s.modHalf h f).hold = s.hold := by cases h <;> rfl
@[simp] theorem State.modHalf_holdEpoch (h : Half) (f : HalfSt → HalfSt) : (s.modHalf h f).holdEpoch = s.holdEpoch := by cases h <;> rfl

/-! ## State.modQuay -/

@[simp] theorem State.modQuay_pending (h : Half) (f : Mem → Mem) : (s.modQuay h f).pending = s.pending := by cases h <;> rfl
@[simp] theorem State.modQuay_freeCtr (h : Half) (f : Mem → Mem) : (s.modQuay h f).freeCtr = s.freeCtr := by cases h <;> rfl
@[simp] theorem State.modQuay_nextId (h : Half) (f : Mem → Mem) : (s.modQuay h f).nextId = s.nextId := by cases h <;> rfl
@[simp] theorem State.modQuay_tide (h : Half) (f : Mem → Mem) : (s.modQuay h f).tide = s.tide := by cases h <;> rfl
@[simp] theorem State.modQuay_east (h : Half) (f : Mem → Mem) : (s.modQuay h f).east = s.east := by cases h <;> rfl
@[simp] theorem State.modQuay_west (h : Half) (f : Mem → Mem) : (s.modQuay h f).west = s.west := by cases h <;> rfl
@[simp] theorem State.modQuay_tiles (h : Half) (f : Mem → Mem) : (s.modQuay h f).tiles = s.tiles := by cases h <;> rfl
@[simp] theorem State.modQuay_streams (h : Half) (f : Mem → Mem) : (s.modQuay h f).streams = s.streams := by cases h <;> rfl
@[simp] theorem State.modQuay_snapStreams (h : Half) (f : Mem → Mem) : (s.modQuay h f).snapStreams = s.snapStreams := by cases h <;> rfl
@[simp] theorem State.modQuay_snapColls (h : Half) (f : Mem → Mem) : (s.modQuay h f).snapColls = s.snapColls := by cases h <;> rfl
@[simp] theorem State.modQuay_colls (h : Half) (f : Mem → Mem) : (s.modQuay h f).colls = s.colls := by cases h <;> rfl
@[simp] theorem State.modQuay_jobs (h : Half) (f : Mem → Mem) : (s.modQuay h f).jobs = s.jobs := by cases h <;> rfl
@[simp] theorem State.modQuay_shards (h : Half) (f : Mem → Mem) : (s.modQuay h f).shards = s.shards := by cases h <;> rfl
@[simp] theorem State.modQuay_snapShards (h : Half) (f : Mem → Mem) : (s.modQuay h f).snapShards = s.snapShards := by cases h <;> rfl
@[simp] theorem State.modQuay_gathers (h : Half) (f : Mem → Mem) : (s.modQuay h f).gathers = s.gathers := by cases h <;> rfl
@[simp] theorem State.modQuay_prefetches (h : Half) (f : Mem → Mem) : (s.modQuay h f).prefetches = s.prefetches := by cases h <;> rfl
@[simp] theorem State.modQuay_lost (h : Half) (f : Mem → Mem) : (s.modQuay h f).lost = s.lost := by cases h <;> rfl
@[simp] theorem State.modQuay_chart (h : Half) (f : Mem → Mem) : (s.modQuay h f).chart = s.chart := by cases h <;> rfl
@[simp] theorem State.modQuay_berths (h : Half) (f : Mem → Mem) : (s.modQuay h f).berths = s.berths := by cases h <;> rfl
@[simp] theorem State.modQuay_oes (h : Half) (f : Mem → Mem) : (s.modQuay h f).oes = s.oes := by cases h <;> rfl
@[simp] theorem State.modQuay_mbox (h : Half) (f : Mem → Mem) : (s.modQuay h f).mbox = s.mbox := by cases h <;> rfl
@[simp] theorem State.modQuay_fault (h : Half) (f : Mem → Mem) : (s.modQuay h f).fault = s.fault := by cases h <;> rfl
@[simp] theorem State.modQuay_sec (h : Half) (f : Mem → Mem) : (s.modQuay h f).sec = s.sec := by cases h <;> rfl
@[simp] theorem State.modQuay_boot (h : Half) (f : Mem → Mem) : (s.modQuay h f).boot = s.boot := by cases h <;> rfl
@[simp] theorem State.modQuay_tap (h : Half) (f : Mem → Mem) : (s.modQuay h f).tap = s.tap := by cases h <;> rfl
@[simp] theorem State.modQuay_port (h : Half) (f : Mem → Mem) : (s.modQuay h f).port = s.port := by cases h <;> rfl
@[simp] theorem State.modQuay_parts (h : Half) (f : Mem → Mem) : (s.modQuay h f).parts = s.parts := by cases h <;> rfl
@[simp] theorem State.modQuay_snapParts (h : Half) (f : Mem → Mem) : (s.modQuay h f).snapParts = s.snapParts := by cases h <;> rfl
@[simp] theorem State.modQuay_counters (h : Half) (f : Mem → Mem) : (s.modQuay h f).counters = s.counters := by cases h <;> rfl
@[simp] theorem State.modQuay_snap (h : Half) (f : Mem → Mem) : (s.modQuay h f).snap = s.snap := by cases h <;> rfl
@[simp] theorem State.modQuay_hold (h : Half) (f : Mem → Mem) : (s.modQuay h f).hold = s.hold := by cases h <;> rfl
@[simp] theorem State.modQuay_holdEpoch (h : Half) (f : Mem → Mem) : (s.modQuay h f).holdEpoch = s.holdEpoch := by cases h <;> rfl

@[simp] theorem State.modHalf_half (h : Half) (f : HalfSt → HalfSt) : (s.modHalf h f).half h = f (s.half h) := by cases h <;> rfl
@[simp] theorem State.modHalf_half_other (h : Half) (f : HalfSt → HalfSt) : (s.modHalf h f).half h.other = s.half h.other := by cases h <;> rfl
@[simp] theorem State.modQuay_quay (h : Half) (f : Mem → Mem) : (s.modQuay h f).quay h = f (s.quay h) := by cases h <;> rfl
@[simp] theorem State.modQuay_quay_other (h : Half) (f : Mem → Mem) : (s.modQuay h f).quay h.other = s.quay h.other := by cases h <;> rfl

/-! ## State.modHalves -/

@[simp] theorem State.modHalves_pending (f : Half → HalfSt → HalfSt) : (s.modHalves f).pending = s.pending := rfl
@[simp] theorem State.modHalves_freeCtr (f : Half → HalfSt → HalfSt) : (s.modHalves f).freeCtr = s.freeCtr := rfl
@[simp] theorem State.modHalves_nextId (f : Half → HalfSt → HalfSt) : (s.modHalves f).nextId = s.nextId := rfl
@[simp] theorem State.modHalves_tide (f : Half → HalfSt → HalfSt) : (s.modHalves f).tide = s.tide := rfl
@[simp] theorem State.modHalves_east (f : Half → HalfSt → HalfSt) : (s.modHalves f).east = f .east s.east := rfl
@[simp] theorem State.modHalves_west (f : Half → HalfSt → HalfSt) : (s.modHalves f).west = f .west s.west := rfl
@[simp] theorem State.modHalves_tiles (f : Half → HalfSt → HalfSt) : (s.modHalves f).tiles = s.tiles := rfl
@[simp] theorem State.modHalves_streams (f : Half → HalfSt → HalfSt) : (s.modHalves f).streams = s.streams := rfl
@[simp] theorem State.modHalves_snapStreams (f : Half → HalfSt → HalfSt) : (s.modHalves f).snapStreams = s.snapStreams := rfl
@[simp] theorem State.modHalves_snapColls (f : Half → HalfSt → HalfSt) : (s.modHalves f).snapColls = s.snapColls := rfl
@[simp] theorem State.modHalves_colls (f : Half → HalfSt → HalfSt) : (s.modHalves f).colls = s.colls := rfl
@[simp] theorem State.modHalves_jobs (f : Half → HalfSt → HalfSt) : (s.modHalves f).jobs = s.jobs := rfl
@[simp] theorem State.modHalves_shards (f : Half → HalfSt → HalfSt) : (s.modHalves f).shards = s.shards := rfl
@[simp] theorem State.modHalves_snapShards (f : Half → HalfSt → HalfSt) : (s.modHalves f).snapShards = s.snapShards := rfl
@[simp] theorem State.modHalves_gathers (f : Half → HalfSt → HalfSt) : (s.modHalves f).gathers = s.gathers := rfl
@[simp] theorem State.modHalves_prefetches (f : Half → HalfSt → HalfSt) : (s.modHalves f).prefetches = s.prefetches := rfl
@[simp] theorem State.modHalves_lost (f : Half → HalfSt → HalfSt) : (s.modHalves f).lost = s.lost := rfl
@[simp] theorem State.modHalves_chart (f : Half → HalfSt → HalfSt) : (s.modHalves f).chart = s.chart := rfl
@[simp] theorem State.modHalves_berths (f : Half → HalfSt → HalfSt) : (s.modHalves f).berths = s.berths := rfl
@[simp] theorem State.modHalves_oes (f : Half → HalfSt → HalfSt) : (s.modHalves f).oes = s.oes := rfl
@[simp] theorem State.modHalves_mbox (f : Half → HalfSt → HalfSt) : (s.modHalves f).mbox = s.mbox := rfl
@[simp] theorem State.modHalves_fault (f : Half → HalfSt → HalfSt) : (s.modHalves f).fault = s.fault := rfl
@[simp] theorem State.modHalves_sec (f : Half → HalfSt → HalfSt) : (s.modHalves f).sec = s.sec := rfl
@[simp] theorem State.modHalves_boot (f : Half → HalfSt → HalfSt) : (s.modHalves f).boot = s.boot := rfl
@[simp] theorem State.modHalves_tap (f : Half → HalfSt → HalfSt) : (s.modHalves f).tap = s.tap := rfl
@[simp] theorem State.modHalves_port (f : Half → HalfSt → HalfSt) : (s.modHalves f).port = s.port := rfl
@[simp] theorem State.modHalves_parts (f : Half → HalfSt → HalfSt) : (s.modHalves f).parts = s.parts := rfl
@[simp] theorem State.modHalves_snapParts (f : Half → HalfSt → HalfSt) : (s.modHalves f).snapParts = s.snapParts := rfl
@[simp] theorem State.modHalves_counters (f : Half → HalfSt → HalfSt) : (s.modHalves f).counters = s.counters := rfl
@[simp] theorem State.modHalves_snap (f : Half → HalfSt → HalfSt) : (s.modHalves f).snap = s.snap := rfl
@[simp] theorem State.modHalves_quayE (f : Half → HalfSt → HalfSt) : (s.modHalves f).quayE = s.quayE := rfl
@[simp] theorem State.modHalves_quayW (f : Half → HalfSt → HalfSt) : (s.modHalves f).quayW = s.quayW := rfl
@[simp] theorem State.modHalves_hold (f : Half → HalfSt → HalfSt) : (s.modHalves f).hold = s.hold := rfl
@[simp] theorem State.modHalves_holdEpoch (f : Half → HalfSt → HalfSt) : (s.modHalves f).holdEpoch = s.holdEpoch := rfl

/-! ## State.modShard -/

@[simp] theorem State.modShard_pending (k : Nat) (f : ShardSt → ShardSt) : (s.modShard k f).pending = s.pending := by unfold State.modShard; split <;> rfl
@[simp] theorem State.modShard_freeCtr (k : Nat) (f : ShardSt → ShardSt) : (s.modShard k f).freeCtr = s.freeCtr := by unfold State.modShard; split <;> rfl
@[simp] theorem State.modShard_nextId (k : Nat) (f : ShardSt → ShardSt) : (s.modShard k f).nextId = s.nextId := by unfold State.modShard; split <;> rfl
@[simp] theorem State.modShard_tide (k : Nat) (f : ShardSt → ShardSt) : (s.modShard k f).tide = s.tide := by unfold State.modShard; split <;> rfl
@[simp] theorem State.modShard_east (k : Nat) (f : ShardSt → ShardSt) : (s.modShard k f).east = s.east := by unfold State.modShard; split <;> rfl
@[simp] theorem State.modShard_west (k : Nat) (f : ShardSt → ShardSt) : (s.modShard k f).west = s.west := by unfold State.modShard; split <;> rfl
@[simp] theorem State.modShard_tiles (k : Nat) (f : ShardSt → ShardSt) : (s.modShard k f).tiles = s.tiles := by unfold State.modShard; split <;> rfl
@[simp] theorem State.modShard_streams (k : Nat) (f : ShardSt → ShardSt) : (s.modShard k f).streams = s.streams := by unfold State.modShard; split <;> rfl
@[simp] theorem State.modShard_snapStreams (k : Nat) (f : ShardSt → ShardSt) : (s.modShard k f).snapStreams = s.snapStreams := by unfold State.modShard; split <;> rfl
@[simp] theorem State.modShard_snapColls (k : Nat) (f : ShardSt → ShardSt) : (s.modShard k f).snapColls = s.snapColls := by unfold State.modShard; split <;> rfl
@[simp] theorem State.modShard_colls (k : Nat) (f : ShardSt → ShardSt) : (s.modShard k f).colls = s.colls := by unfold State.modShard; split <;> rfl
@[simp] theorem State.modShard_jobs (k : Nat) (f : ShardSt → ShardSt) : (s.modShard k f).jobs = s.jobs := by unfold State.modShard; split <;> rfl
@[simp] theorem State.modShard_snapShards (k : Nat) (f : ShardSt → ShardSt) : (s.modShard k f).snapShards = s.snapShards := by unfold State.modShard; split <;> rfl
@[simp] theorem State.modShard_gathers (k : Nat) (f : ShardSt → ShardSt) : (s.modShard k f).gathers = s.gathers := by unfold State.modShard; split <;> rfl
@[simp] theorem State.modShard_prefetches (k : Nat) (f : ShardSt → ShardSt) : (s.modShard k f).prefetches = s.prefetches := by unfold State.modShard; split <;> rfl
@[simp] theorem State.modShard_lost (k : Nat) (f : ShardSt → ShardSt) : (s.modShard k f).lost = s.lost := by unfold State.modShard; split <;> rfl
@[simp] theorem State.modShard_chart (k : Nat) (f : ShardSt → ShardSt) : (s.modShard k f).chart = s.chart := by unfold State.modShard; split <;> rfl
@[simp] theorem State.modShard_berths (k : Nat) (f : ShardSt → ShardSt) : (s.modShard k f).berths = s.berths := by unfold State.modShard; split <;> rfl
@[simp] theorem State.modShard_oes (k : Nat) (f : ShardSt → ShardSt) : (s.modShard k f).oes = s.oes := by unfold State.modShard; split <;> rfl
@[simp] theorem State.modShard_mbox (k : Nat) (f : ShardSt → ShardSt) : (s.modShard k f).mbox = s.mbox := by unfold State.modShard; split <;> rfl
@[simp] theorem State.modShard_fault (k : Nat) (f : ShardSt → ShardSt) : (s.modShard k f).fault = s.fault := by unfold State.modShard; split <;> rfl
@[simp] theorem State.modShard_sec (k : Nat) (f : ShardSt → ShardSt) : (s.modShard k f).sec = s.sec := by unfold State.modShard; split <;> rfl
@[simp] theorem State.modShard_boot (k : Nat) (f : ShardSt → ShardSt) : (s.modShard k f).boot = s.boot := by unfold State.modShard; split <;> rfl
@[simp] theorem State.modShard_tap (k : Nat) (f : ShardSt → ShardSt) : (s.modShard k f).tap = s.tap := by unfold State.modShard; split <;> rfl
@[simp] theorem State.modShard_port (k : Nat) (f : ShardSt → ShardSt) : (s.modShard k f).port = s.port := by unfold State.modShard; split <;> rfl
@[simp] theorem State.modShard_parts (k : Nat) (f : ShardSt → ShardSt) : (s.modShard k f).parts = s.parts := by unfold State.modShard; split <;> rfl
@[simp] theorem State.modShard_snapParts (k : Nat) (f : ShardSt → ShardSt) : (s.modShard k f).snapParts = s.snapParts := by unfold State.modShard; split <;> rfl
@[simp] theorem State.modShard_counters (k : Nat) (f : ShardSt → ShardSt) : (s.modShard k f).counters = s.counters := by unfold State.modShard; split <;> rfl
@[simp] theorem State.modShard_snap (k : Nat) (f : ShardSt → ShardSt) : (s.modShard k f).snap = s.snap := by unfold State.modShard; split <;> rfl
@[simp] theorem State.modShard_quayE (k : Nat) (f : ShardSt → ShardSt) : (s.modShard k f).quayE = s.quayE := by unfold State.modShard; split <;> rfl
@[simp] theorem State.modShard_quayW (k : Nat) (f : ShardSt → ShardSt) : (s.modShard k f).quayW = s.quayW := by unfold State.modShard; split <;> rfl
@[simp] theorem State.modShard_hold (k : Nat) (f : ShardSt → ShardSt) : (s.modShard k f).hold = s.hold := by unfold State.modShard; split <;> rfl
@[simp] theorem State.modShard_holdEpoch (k : Nat) (f : ShardSt → ShardSt) : (s.modShard k f).holdEpoch = s.holdEpoch := by unfold State.modShard; split <;> rfl

/-! ## State.modPart -/

@[simp] theorem State.modPart_pending (k : Nat) (f : PartSt → PartSt) : (s.modPart k f).pending = s.pending := by unfold State.modPart; split <;> rfl
@[simp] theorem State.modPart_freeCtr (k : Nat) (f : PartSt → PartSt) : (s.modPart k f).freeCtr = s.freeCtr := by unfold State.modPart; split <;> rfl
@[simp] theorem State.modPart_nextId (k : Nat) (f : PartSt → PartSt) : (s.modPart k f).nextId = s.nextId := by unfold State.modPart; split <;> rfl
@[simp] theorem State.modPart_tide (k : Nat) (f : PartSt → PartSt) : (s.modPart k f).tide = s.tide := by unfold State.modPart; split <;> rfl
@[simp] theorem State.modPart_east (k : Nat) (f : PartSt → PartSt) : (s.modPart k f).east = s.east := by unfold State.modPart; split <;> rfl
@[simp] theorem State.modPart_west (k : Nat) (f : PartSt → PartSt) : (s.modPart k f).west = s.west := by unfold State.modPart; split <;> rfl
@[simp] theorem State.modPart_tiles (k : Nat) (f : PartSt → PartSt) : (s.modPart k f).tiles = s.tiles := by unfold State.modPart; split <;> rfl
@[simp] theorem State.modPart_streams (k : Nat) (f : PartSt → PartSt) : (s.modPart k f).streams = s.streams := by unfold State.modPart; split <;> rfl
@[simp] theorem State.modPart_snapStreams (k : Nat) (f : PartSt → PartSt) : (s.modPart k f).snapStreams = s.snapStreams := by unfold State.modPart; split <;> rfl
@[simp] theorem State.modPart_snapColls (k : Nat) (f : PartSt → PartSt) : (s.modPart k f).snapColls = s.snapColls := by unfold State.modPart; split <;> rfl
@[simp] theorem State.modPart_colls (k : Nat) (f : PartSt → PartSt) : (s.modPart k f).colls = s.colls := by unfold State.modPart; split <;> rfl
@[simp] theorem State.modPart_jobs (k : Nat) (f : PartSt → PartSt) : (s.modPart k f).jobs = s.jobs := by unfold State.modPart; split <;> rfl
@[simp] theorem State.modPart_shards (k : Nat) (f : PartSt → PartSt) : (s.modPart k f).shards = s.shards := by unfold State.modPart; split <;> rfl
@[simp] theorem State.modPart_snapShards (k : Nat) (f : PartSt → PartSt) : (s.modPart k f).snapShards = s.snapShards := by unfold State.modPart; split <;> rfl
@[simp] theorem State.modPart_gathers (k : Nat) (f : PartSt → PartSt) : (s.modPart k f).gathers = s.gathers := by unfold State.modPart; split <;> rfl
@[simp] theorem State.modPart_prefetches (k : Nat) (f : PartSt → PartSt) : (s.modPart k f).prefetches = s.prefetches := by unfold State.modPart; split <;> rfl
@[simp] theorem State.modPart_lost (k : Nat) (f : PartSt → PartSt) : (s.modPart k f).lost = s.lost := by unfold State.modPart; split <;> rfl
@[simp] theorem State.modPart_chart (k : Nat) (f : PartSt → PartSt) : (s.modPart k f).chart = s.chart := by unfold State.modPart; split <;> rfl
@[simp] theorem State.modPart_berths (k : Nat) (f : PartSt → PartSt) : (s.modPart k f).berths = s.berths := by unfold State.modPart; split <;> rfl
@[simp] theorem State.modPart_oes (k : Nat) (f : PartSt → PartSt) : (s.modPart k f).oes = s.oes := by unfold State.modPart; split <;> rfl
@[simp] theorem State.modPart_mbox (k : Nat) (f : PartSt → PartSt) : (s.modPart k f).mbox = s.mbox := by unfold State.modPart; split <;> rfl
@[simp] theorem State.modPart_fault (k : Nat) (f : PartSt → PartSt) : (s.modPart k f).fault = s.fault := by unfold State.modPart; split <;> rfl
@[simp] theorem State.modPart_sec (k : Nat) (f : PartSt → PartSt) : (s.modPart k f).sec = s.sec := by unfold State.modPart; split <;> rfl
@[simp] theorem State.modPart_boot (k : Nat) (f : PartSt → PartSt) : (s.modPart k f).boot = s.boot := by unfold State.modPart; split <;> rfl
@[simp] theorem State.modPart_tap (k : Nat) (f : PartSt → PartSt) : (s.modPart k f).tap = s.tap := by unfold State.modPart; split <;> rfl
@[simp] theorem State.modPart_port (k : Nat) (f : PartSt → PartSt) : (s.modPart k f).port = s.port := by unfold State.modPart; split <;> rfl
@[simp] theorem State.modPart_snapParts (k : Nat) (f : PartSt → PartSt) : (s.modPart k f).snapParts = s.snapParts := by unfold State.modPart; split <;> rfl
@[simp] theorem State.modPart_counters (k : Nat) (f : PartSt → PartSt) : (s.modPart k f).counters = s.counters := by unfold State.modPart; split <;> rfl
@[simp] theorem State.modPart_snap (k : Nat) (f : PartSt → PartSt) : (s.modPart k f).snap = s.snap := by unfold State.modPart; split <;> rfl
@[simp] theorem State.modPart_quayE (k : Nat) (f : PartSt → PartSt) : (s.modPart k f).quayE = s.quayE := by unfold State.modPart; split <;> rfl
@[simp] theorem State.modPart_quayW (k : Nat) (f : PartSt → PartSt) : (s.modPart k f).quayW = s.quayW := by unfold State.modPart; split <;> rfl
@[simp] theorem State.modPart_hold (k : Nat) (f : PartSt → PartSt) : (s.modPart k f).hold = s.hold := by unfold State.modPart; split <;> rfl
@[simp] theorem State.modPart_holdEpoch (k : Nat) (f : PartSt → PartSt) : (s.modPart k f).holdEpoch = s.holdEpoch := by unfold State.modPart; split <;> rfl

end Sys2Proof.Machine
end

