-- ==== Sys2Proof/Laws/Sec.lean ====
section
/-! SUPPORT. Every function of the model that leaves the security state alone, one frame lemma each: the lifecycle, the debug
state, the power states and what waits at a boundary change only in Security, PowerCmds, Startup and the boundary. -/

namespace Sys2Proof.Machine

set_option linter.unusedVariables false
set_option linter.unusedTactic false
set_option linter.unreachableTactic false
set_option linter.unusedSimpArgs false

/-- A fold of steps that leave the security state alone leaves it alone. -/
theorem foldl_sec {α : Type} (f : State → α → State) (l : List α) (s : State) (h : ∀ s a, (f s a).sec = s.sec) : (l.foldl f s).sec = s.sec := by
  induction l generalizing s with
  | nil => rfl
  | cons a l ih => rw [List.foldl_cons, ih, h]

@[simp] theorem State.fresh_sec (s : State) : (State.fresh s).2.sec = s.sec := by
  unfold State.fresh
  repeat' (first | with_reducible rfl | split | rw [foldl_sec] | intro _ _ | (fail) | dsimp only | grind [])

@[simp] theorem State.freeIx_sec (s : State) : (State.freeIx s).2.sec = s.sec := by
  unfold State.freeIx
  repeat' (first | with_reducible rfl | split | rw [foldl_sec] | intro _ _ | (fail) | dsimp only | grind [])

@[simp] theorem State.bump_sec (s : State) (c : Ctr) (i : Nat) : (State.bump s c i).sec = s.sec := by
  unfold State.bump
  repeat' (first | with_reducible rfl | split | rw [foldl_sec] | intro _ _ | (simp only [State.count_sec]) | dsimp only | grind [State.count_sec])

@[simp] theorem State.raiseLine_sec (s : State) (h : Half) (i : Nat) : (State.raiseLine s h i).sec = s.sec := by
  unfold State.raiseLine
  repeat' (first | with_reducible rfl | split | rw [foldl_sec] | intro _ _ | (simp only [State.modHalf_sec]) | dsimp only | grind [State.modHalf_sec])

@[simp] theorem State.raisePkg_sec (s : State) (i : Nat) : (State.raisePkg s i).sec = s.sec := by
  unfold State.raisePkg
  repeat' (first | with_reducible rfl | split | rw [foldl_sec] | intro _ _ | (simp only [State.modFault_sec]) | dsimp only | grind [State.modFault_sec])

@[simp] theorem State.noteDetail_sec (s : State) (src : Nat) (d : U64) : (State.noteDetail s src d).sec = s.sec := by
  unfold State.noteDetail
  repeat' (first | with_reducible rfl | split | rw [foldl_sec] | intro _ _ | (simp only [State.modFault_sec]) | dsimp only | grind [State.modFault_sec])

@[simp] theorem State.raiseWith_sec (s : State) (h : Half) (i : Nat) (d : U64) : (State.raiseWith s h i d).sec = s.sec := by
  unfold State.raiseWith
  repeat' (first | with_reducible rfl | split | rw [foldl_sec] | intro _ _ | (simp only [State.noteDetail_sec, State.raiseLine_sec]) | dsimp only | grind [State.noteDetail_sec, State.raiseLine_sec])

@[simp] theorem State.logRepair_sec (s : State) (kind : Nat) (unit : Nat) (index : Nat) (addr : Nat) (source : U16) : (State.logRepair s kind unit index addr source).sec = s.sec := by
  unfold State.logRepair
  repeat' (first | with_reducible rfl | split | rw [foldl_sec] | intro _ _ | (simp only [State.raisePkg_sec, State.modFault_sec]) | dsimp only | grind [State.raisePkg_sec, State.modFault_sec])

@[simp] theorem State.withdrawDone_sec (s : State) (src : Nat) : (State.withdrawDone s src).sec = s.sec := by
  unfold State.withdrawDone
  repeat' (first | with_reducible rfl | split | rw [foldl_sec] | intro _ _ | (simp only [State.modFault_sec]) | dsimp only | grind [State.modFault_sec])

@[simp] theorem State.bwDrop_sec (s : State) (b : Nat) (n : Nat) : (State.bwDrop s b n).sec = s.sec := by
  unfold State.bwDrop
  repeat' (first | with_reducible rfl | split | rw [foldl_sec] | intro _ _ | (simp only [State.modFault_sec]) | dsimp only | grind [State.modFault_sec])

@[simp] theorem State.quayWriteAt_sec (s : State) (addr : Nat) (bs : List Byte) : (State.quayWriteAt s addr bs).sec = s.sec := by
  unfold State.quayWriteAt
  repeat' (first | with_reducible rfl | split | rw [foldl_sec] | intro _ _ | (simp only [State.modQuay_sec]) | dsimp only | grind [State.modQuay_sec])

@[simp] theorem State.modCheck_sec (s : State) (n : Nat) (b : Nat) (f : CheckSt → CheckSt) : (State.modCheck s n b f).sec = s.sec := by
  unfold State.modCheck
  repeat' (first | with_reducible rfl | split | rw [foldl_sec] | intro _ _ | (simp only [State.modPart_sec]) | dsimp only | grind [State.modPart_sec])

@[simp] theorem State.checkCount_sec (s : State) (n : Nat) (b : Nat) (code : Nat) (k : Nat) : (State.checkCount s n b code k).sec = s.sec := by
  unfold State.checkCount
  repeat' (first | with_reducible rfl | split | rw [foldl_sec] | intro _ _ | (simp only [State.modCheck_sec]) | dsimp only | grind [State.modCheck_sec])

@[simp] theorem State.checkCell_sec (s : State) (b : Nat) (code : Nat) : (State.checkCell s b code).sec = s.sec := by
  unfold State.checkCell
  repeat' (first | with_reducible rfl | split | rw [foldl_sec] | intro _ _ | (simp only [State.checkCount_sec]) | dsimp only | grind [State.checkCount_sec])

@[simp] theorem State.partCtrl_sec (s : State) (n : Nat) (b : Nat) (body : CtrlBody) : (State.partCtrl s n b body).sec = s.sec := by
  unfold State.partCtrl
  repeat' (first | with_reducible rfl | split | rw [foldl_sec] | intro _ _ | (simp only [State.modPart_sec]) | dsimp only | grind [State.modPart_sec])

@[simp] theorem State.captureWrite_sec (s : State) (n : Nat) (b : Nat) (x3 : List (List Byte)) : (State.captureWrite s n b x3).sec = s.sec := by
  induction x3 generalizing s with
  | nil => rfl
  | cons e es ih =>
    unfold State.captureWrite
    split
    · rfl
    · dsimp only
      rw [ih]
      simp only [State.quayWriteAt_sec, State.modCheck_sec]

@[simp] theorem State.checkPacket_sec (s : State) (n : Nat) (b : Nat) (cw : U32) (hd : Hdr) (payload : List Byte) (crc : U32) (hdrBad : Bool) (crcOk : Bool) (stomped : Bool) (beyond : Nat) : (State.checkPacket s n b cw hd payload crc hdrBad crcOk stomped beyond).sec = s.sec := by
  unfold State.checkPacket
  repeat' (first | with_reducible rfl | split | rw [foldl_sec] | intro _ _ | (simp only [State.modPart_sec, State.checkCount_sec, State.freeIx_sec, State.captureWrite_sec, State.modCheck_sec]) | dsimp only | grind [State.modPart_sec, State.checkCount_sec, State.freeIx_sec, State.captureWrite_sec, State.modCheck_sec])

@[simp] theorem State.freeCredit_sec (s : State) (h : Half) (key : Option Nat) (n : Nat) : (State.freeCredit s h key n).sec = s.sec := by
  unfold State.freeCredit
  repeat' (first | with_reducible rfl | split | rw [foldl_sec] | intro _ _ | (simp only [State.modHalf_sec]) | dsimp only | grind [State.modHalf_sec])

@[simp] theorem State.storeCtrl_sec (s : State) (h : Half) (q : CtrlQ) : (State.storeCtrl s h q).sec = s.sec := by
  unfold State.storeCtrl
  repeat' (first | with_reducible rfl | split | rw [foldl_sec] | intro _ _ | (simp only [State.modHalf_sec, State.freeCredit_sec, State.bump_sec]) | dsimp only | grind [State.modHalf_sec, State.freeCredit_sec, State.bump_sec])

@[simp] theorem State.routeCtrl_sec (s : State) (h : Half) (input : Nat) (berth : Option Nat) (epoch : Bool) (vcIn : Nat) (byp : Bool) (cw : U32) (p : List Byte) : (State.routeCtrl s h input berth epoch vcIn byp cw p).sec = s.sec := by
  unfold State.routeCtrl
  repeat' (first | with_reducible rfl | split | rw [foldl_sec] | intro _ _ | (simp only [State.freeCredit_sec, State.bump_sec, State.storeCtrl_sec]) | dsimp only | grind [State.freeCredit_sec, State.bump_sec, State.storeCtrl_sec])

@[simp] theorem State.sendCtrlFrom_sec (s : State) (h : Half) (port : Nat) (dst : U32) (job : Nat) (body : CtrlBody) : (State.sendCtrlFrom s h port dst job body).sec = s.sec := by
  unfold State.sendCtrlFrom
  repeat' (first | with_reducible rfl | split | rw [foldl_sec] | intro _ _ | (simp only [State.routeCtrl_sec]) | dsimp only | grind [State.routeCtrl_sec])

@[simp] theorem State.sendCtrlAt_sec (s : State) (h : Half) (dst : U32) (job : Nat) (body : CtrlBody) : (State.sendCtrlAt s h dst job body).sec = s.sec := by
  unfold State.sendCtrlAt
  repeat' (first | with_reducible rfl | split | rw [foldl_sec] | intro _ _ | (simp only [State.sendCtrlFrom_sec]) | dsimp only | grind [State.sendCtrlFrom_sec])

@[simp] theorem State.sendCtrl_sec (s : State) (dst : U32) (job : Nat) (body : CtrlBody) : (State.sendCtrl s dst job body).sec = s.sec := by
  unfold State.sendCtrl
  repeat' (first | with_reducible rfl | split | rw [foldl_sec] | intro _ _ | (simp only [State.sendCtrlFrom_sec, State.sendCtrlAt_sec]) | dsimp only | grind [State.sendCtrlFrom_sec, State.sendCtrlAt_sec])

@[simp] theorem State.sendCtrls_sec (s : State) (dsts : List U32) (job : Nat) (body : CtrlBody) : (State.sendCtrls s dsts job body).sec = s.sec := by
  unfold State.sendCtrls
  repeat' (first | with_reducible rfl | split | rw [foldl_sec] | intro _ _ | (simp only [State.sendCtrl_sec]) | dsimp only | grind [State.sendCtrl_sec])

@[simp] theorem State.ctrlIn_sec (s : State) (c : Ctrl) (body : CtrlBody) : (State.ctrlIn s c body).1.sec = s.sec := by
  unfold State.ctrlIn
  simp only [apply_ite State.sec, apply_ite Prod.fst, State.freeCredit_sec, State.bump_sec, State.bwDrop_sec, State.checkCell_sec, State.partCtrl_sec, State.routeCtrl_sec, ite_self]
  repeat' (first | with_reducible rfl | split | rw [foldl_sec] | intro _ _ | (simp only [apply_ite State.sec, State.freeCredit_sec, State.bump_sec, State.bwDrop_sec, State.checkCell_sec, State.partCtrl_sec, State.routeCtrl_sec, ite_self]) | dsimp only)

@[simp] theorem State.ringWrite_sec (s : State) (h : Half) (i : Nat) (l : List Nat) : (State.ringWrite s h i l).sec = s.sec := by
  unfold State.ringWrite
  repeat' (first | with_reducible rfl | split | rw [foldl_sec] | intro _ _ | (simp only [State.modQuay_sec]) | dsimp only | grind [State.modQuay_sec])

@[simp] theorem State.palletFault_sec (s : State) (h : Half) (k : Ctr) (n : Nat) : (State.palletFault s h k n).sec = s.sec := by
  unfold State.palletFault
  repeat' (first | with_reducible rfl | split | rw [foldl_sec] | intro _ _ | (simp only [State.raiseLine_sec, State.count_sec]) | dsimp only | grind [State.raiseLine_sec, State.count_sec])

@[simp] theorem State.buildStore_sec (s : State) (h : Half) : (State.buildStore s h).sec = s.sec := by
  unfold State.buildStore
  repeat' (first | with_reducible rfl | split | rw [foldl_sec] | intro _ _ | (simp only [State.modHalf_sec, State.ringWrite_sec]) | dsimp only | grind [State.modHalf_sec, State.ringWrite_sec])

@[simp] theorem State.spillCache_sec (s : State) (h : Half) : (State.spillCache s h).sec = s.sec := by
  unfold State.spillCache
  repeat' (first | with_reducible rfl | split | rw [foldl_sec] | intro _ _ | (simp only [State.palletFault_sec, State.modHalf_sec, State.ringWrite_sec]) | dsimp only | grind [State.palletFault_sec, State.modHalf_sec, State.ringWrite_sec])

@[simp] theorem State.freeIndex_sec (s : State) (h : Half) (i : Nat) : (State.freeIndex s h i).sec = s.sec := by
  unfold State.freeIndex
  repeat' (first | with_reducible rfl | split | rw [foldl_sec] | intro _ _ | (simp only [State.palletFault_sec, State.spillCache_sec, State.modHalf_sec]) | dsimp only | grind [State.palletFault_sec, State.spillCache_sec, State.modHalf_sec])

@[simp] theorem State.dropRef_sec (s : State) (h : Half) (i : Nat) : (State.dropRef s h i).sec = s.sec := by
  unfold State.dropRef
  repeat' (first | with_reducible rfl | split | rw [foldl_sec] | intro _ _ | (simp only [State.palletFault_sec, State.freeIndex_sec, State.modHalf_sec]) | dsimp only | grind [State.palletFault_sec, State.freeIndex_sec, State.modHalf_sec])

@[simp] theorem State.dropRefs_sec (s : State) (h : Half) (is : List Nat) : (State.dropRefs s h is).sec = s.sec := by
  unfold State.dropRefs
  repeat' (first | with_reducible rfl | split | rw [foldl_sec] | intro _ _ | (simp only [State.dropRef_sec]) | dsimp only | grind [State.dropRef_sec])

@[simp] theorem State.modPkt_sec (s : State) (h : Half) (pid : Nat) (f : Pkt → Pkt) : (State.modPkt s h pid f).sec = s.sec := by
  unfold State.modPkt
  repeat' (first | with_reducible rfl | split | rw [foldl_sec] | intro _ _ | (simp only [State.modHalf_sec]) | dsimp only | grind [State.modHalf_sec])

@[simp] theorem State.alloc_sec (s : State) (h : Half) (p : Pkt) : (State.alloc s h p).1.sec = s.sec := by
  unfold State.alloc
  repeat' (first | with_reducible rfl | split | rw [foldl_sec] | intro _ _ | (simp only [State.palletFault_sec, State.modHalf_sec]) | dsimp only | grind [State.palletFault_sec, State.modHalf_sec])

@[simp] theorem State.dropPkt_sec (s : State) (h : Half) (pid : Nat) : (State.dropPkt s h pid).sec = s.sec := by
  unfold State.dropPkt
  repeat' (first | with_reducible rfl | split | rw [foldl_sec] | intro _ _ | (simp only [State.modHalf_sec, State.dropRefs_sec]) | dsimp only | grind [State.modHalf_sec, State.dropRefs_sec])

@[simp] theorem State.enqueuePending_sec (s : State) (h : Half) (pid : Nat) : (State.enqueuePending s h pid).sec = s.sec := by
  unfold State.enqueuePending
  repeat' (first | with_reducible rfl | split | rw [foldl_sec] | intro _ _ | (simp only [State.modHalf_sec]) | dsimp only | grind [State.modHalf_sec])

@[simp] theorem State.settle_sec (s : State) (h : Half) (pid : Nat) : (State.settle s h pid).sec = s.sec := by
  unfold State.settle
  repeat' (first | with_reducible rfl | split | rw [foldl_sec] | intro _ _ | (simp only [State.enqueuePending_sec, State.dropPkt_sec, State.modHalf_sec, State.dropRefs_sec, State.modPkt_sec]) | dsimp only | grind [State.enqueuePending_sec, State.dropPkt_sec, State.modHalf_sec, State.dropRefs_sec, State.modPkt_sec])

@[simp] theorem State.dropCopy_sec (s : State) (h : Half) (pid : Nat) (order : Nat) : (State.dropCopy s h pid order).sec = s.sec := by
  unfold State.dropCopy
  repeat' (first | with_reducible rfl | split | rw [foldl_sec] | intro _ _ | (simp only [State.dropRefs_sec, State.settle_sec, State.modPkt_sec]) | dsimp only | grind [State.dropRefs_sec, State.settle_sec, State.modPkt_sec])

@[simp] theorem State.dropPending_sec (s : State) (h : Half) (pid : Nat) (order : Nat) : (State.dropPending s h pid order).sec = s.sec := by
  unfold State.dropPending
  repeat' (first | with_reducible rfl | split | rw [foldl_sec] | intro _ _ | (simp only [State.settle_sec, State.modPkt_sec]) | dsimp only | grind [State.settle_sec, State.modPkt_sec])

@[simp] theorem State.addCopies_sec (s : State) (h : Half) (pid : Nat) (hd : Hdr) (unit : Option Nat) (consumer : Half) (mirror : Option Nat) (x7 : List (Option Target)) : (State.addCopies s h pid hd unit consumer mirror x7).sec = s.sec := by
  induction x7 generalizing s with
  | nil => rfl
  | cons t ts ih =>
    unfold State.addCopies
    dsimp only
    rw [ih]
    repeat' (first | with_reducible rfl | split | simp only [State.bump_sec, State.modPkt_sec, State.fresh_sec])

theorem State.pushOut_sec (s : State) (h : Half) (t : State) (e : s.pushOut h = some t) : t.sec = s.sec := by
  obtain ⟨v, _, rfl⟩ := Option.map_eq_some_iff.mp e
  rw [State.dropCopy_sec, State.bump_sec]

@[simp] theorem State.allocate_sec (h : Half) (pid : Nat) (x2 : Nat) (x3 : State) : (State.allocate h pid x2 x3).sec = x3.sec := by
  induction x2 generalizing x3 with
  | zero =>
    unfold State.allocate
    split
    · rfl
    · split
      · rfl
      · rename_i p _ _
        have ha := State.alloc_sec x3 h p
        split <;> rename_i e <;> rw [e] at ha
        · exact ha
        · exact (State.modPkt_sec ..).trans ha
        · dsimp only
          repeat' (first | exact ha | split | simp only [State.modPkt_sec, State.dropPkt_sec, State.bump_sec])
  | succ n ih =>
    unfold State.allocate
    split
    · rfl
    · split
      · rfl
      · rename_i p _ _
        have ha := State.alloc_sec x3 h p
        split <;> rename_i t e <;> rw [e] at ha
        · exact ha
        · exact (State.modPkt_sec ..).trans ha
        · cases hp : State.pushOut t h with
          | none =>
            dsimp only
            repeat' (first | exact ha | split | simp only [State.modPkt_sec, State.dropPkt_sec, State.bump_sec])
          | some u =>
            have hu := (State.pushOut_sec _ _ _ hp).trans ha
            dsimp only
            repeat' (first | exact ha | split | simp only [State.modPkt_sec, State.dropPkt_sec, State.bump_sec] | rw [ih])
            exact hu

@[simp] theorem State.allocatePkt_sec (s : State) (h : Half) (pid : Nat) : (State.allocatePkt s h pid).sec = s.sec := by
  unfold State.allocatePkt
  repeat' (first | with_reducible rfl | split | rw [foldl_sec] | intro _ _ | (simp only [State.allocate_sec]) | dsimp only | grind [State.allocate_sec])

@[simp] theorem State.mirrorPkt_sec (s : State) (h : Half) (pid : Nat) (berth : Option Nat) (egress : Bool) : (State.mirrorPkt s h pid berth egress).sec = s.sec := by
  unfold State.mirrorPkt
  repeat' (first | with_reducible rfl | split | rw [foldl_sec] | intro _ _ | (simp only [State.bump_sec, State.enqueuePending_sec, State.addCopies_sec]) | dsimp only | grind [State.bump_sec, State.enqueuePending_sec, State.addCopies_sec])

@[simp] theorem State.injectAs_sec (s : State) (h : Half) (input : Nat) (attach : Bool) (held : Option (Nat × Byte)) (hd : Hdr) (body : List Byte) (resend : Bool) : (State.injectAs s h input attach held hd body resend).sec = s.sec := by
  unfold State.injectAs
  repeat' (first | with_reducible rfl | split | rw [foldl_sec] | intro _ _ | (simp only [State.fresh_sec, State.modHalf_sec, State.settle_sec, State.allocatePkt_sec, State.addCopies_sec]) | dsimp only | grind [State.fresh_sec, State.modHalf_sec, State.settle_sec, State.allocatePkt_sec, State.addCopies_sec])

@[simp] theorem State.unhold_sec (s : State) (h : Half) (pid : Nat) : (State.unhold s h pid).sec = s.sec := by
  unfold State.unhold
  repeat' (first | with_reducible rfl | split | rw [foldl_sec] | intro _ _ | (simp only [State.modPkt_sec, State.settle_sec, State.addCopies_sec]) | dsimp only | grind [State.modPkt_sec, State.settle_sec, State.addCopies_sec])

@[simp] theorem State.inject_sec (s : State) (h : Half) (input : Nat) (hd : Hdr) (body : List Byte) (resend : Bool) : (State.inject s h input hd body resend).sec = s.sec := by
  unfold State.inject
  repeat' (first | with_reducible rfl | split | rw [foldl_sec] | intro _ _ | (simp only [State.injectAs_sec]) | dsimp only | grind [State.injectAs_sec])

@[simp] theorem State.toBerth_sec (s : State) (b : Nat) (bytes : List Byte) (last : Bool) : (State.toBerth s b bytes last).sec = s.sec := by
  unfold State.toBerth
  repeat' (first | with_reducible rfl | split | rw [foldl_sec] | intro _ _ | (simp only [State.bwDrop_sec, State.modBerth_sec]) | dsimp only | grind [State.bwDrop_sec, State.modBerth_sec])

@[simp] theorem State.toEthernet_sec (s : State) (b : Nat) (p : Pkt) : (State.toEthernet s b p).sec = s.sec := by
  unfold State.toEthernet
  repeat' (first | with_reducible rfl | split | rw [foldl_sec] | intro _ _ | (simp only [State.bump_sec, State.modBerth_sec]) | dsimp only | grind [State.bump_sec, State.modBerth_sec])

@[simp] theorem State.toHost_sec (s : State) (f : Nat) (p : Pkt) : (State.toHost s f p).sec = s.sec := by
  unfold State.toHost
  repeat' (first | with_reducible rfl | split | rw [foldl_sec] | intro _ _ | (simp only [State.bump_sec, State.modPort_sec]) | dsimp only | grind [State.bump_sec, State.modPort_sec])

@[simp] theorem State.toBridge_sec (s : State) (h : Half) (p : Pkt) (c : Copy) (i : Nat) : (State.toBridge s h p c i).sec = s.sec := by
  unfold State.toBridge
  repeat' (first | with_reducible rfl | split | rw [foldl_sec] | intro _ _ | (simp only [State.fresh_sec, State.modHalf_sec]) | dsimp only | grind [State.fresh_sec, State.modHalf_sec])

@[simp] theorem State.emitCell_sec (s : State) (h : Half) (p : Pkt) (c : Copy) (i : Nat) : (State.emitCell s h p c i).sec = s.sec := by
  unfold State.emitCell
  repeat' (first | with_reducible rfl | split | rw [foldl_sec] | intro _ _ | (simp only [State.toBridge_sec, State.toEthernet_sec, State.toBerth_sec, State.toHost_sec]) | dsimp only | grind [State.toBridge_sec, State.toEthernet_sec, State.toBerth_sec, State.toHost_sec])

@[simp] theorem State.sendLocal_sec (s : State) (b : Nat) (job : Nat) (body : CtrlBody) : (State.sendLocal s b job body).sec = s.sec := by
  unfold State.sendLocal
  repeat' (first | with_reducible rfl | split | rw [foldl_sec] | intro _ _ | (simp only [State.modBerth_sec]) | dsimp only | grind [State.modBerth_sec])

@[simp] theorem State.policePkt_sec (s : State) (h : Half) (sub : Nat) (b : Nat) (job : Nat) (tc : Nat) (cells : Nat) : (State.policePkt s h sub b job tc cells).1.sec = s.sec := by
  unfold State.policePkt
  repeat' (first | with_reducible rfl | split | rw [foldl_sec] | intro _ _ | (simp only [State.modHalf_sec, State.count_sec, State.bump_sec]) | dsimp only | grind [State.modHalf_sec, State.count_sec, State.bump_sec])

@[simp] theorem State.grantBerth_sec (s : State) (b : Nat) : (State.grantBerth s b).sec = s.sec := by
  unfold State.grantBerth
  repeat' (first | with_reducible rfl | split | rw [foldl_sec] | intro _ _ | (simp only [State.modHalf_sec, State.count_sec, State.bump_sec, State.sendLocal_sec]) | dsimp only | grind [State.modHalf_sec, State.count_sec, State.bump_sec, State.sendLocal_sec])

@[simp] theorem State.grantCredits_sec (s : State) : (State.grantCredits s).sec = s.sec := by
  unfold State.grantCredits
  repeat' (first | with_reducible rfl | split | rw [foldl_sec] | intro _ _ | (simp only [State.grantBerth_sec]) | dsimp only | grind [State.grantBerth_sec])

@[simp] theorem State.resetCredits_sec (s : State) (b : Nat) : (State.resetCredits s b).sec = s.sec := by
  unfold State.resetCredits
  repeat' (first | with_reducible rfl | split | rw [foldl_sec] | intro _ _ | (simp only [State.modHalf_sec, State.modBerth_sec]) | dsimp only | grind [State.modHalf_sec, State.modBerth_sec])

@[simp] theorem State.sendThrottle_sec (s : State) (h : Half) (out : Nat) (cls : Nat) (dst : U32) (job : Byte) (level : Nat) (dur : Nat) : (State.sendThrottle s h out cls dst job level dur).sec = s.sec := by
  unfold State.sendThrottle
  repeat' (first | with_reducible rfl | split | rw [foldl_sec] | intro _ _ | (simp only [State.bump_sec, State.modHalf_sec, State.sendCtrlAt_sec]) | dsimp only | grind [State.bump_sec, State.modHalf_sec, State.sendCtrlAt_sec])

@[simp] theorem State.throttleCheck_sec (s : State) (h : Half) (out : Nat) (cls : Nat) : (State.throttleCheck s h out cls).sec = s.sec := by
  unfold State.throttleCheck
  repeat' (first | with_reducible rfl | split | rw [foldl_sec] | intro _ _ | (simp only [State.sendThrottle_sec, State.modHalf_sec]) | dsimp only | grind [State.sendThrottle_sec, State.modHalf_sec])

@[simp] theorem State.throttleRed_sec (s : State) (h : Half) : (State.throttleRed s h).sec = s.sec := by
  unfold State.throttleRed
  repeat' (first | with_reducible rfl | split | rw [foldl_sec] | intro _ _ | (simp only [State.sendThrottle_sec, State.modHalf_sec]) | dsimp only | grind [State.sendThrottle_sec, State.modHalf_sec])

@[simp] theorem State.throttleHalf_sec (s : State) (h : Half) : (State.throttleHalf s h).sec = s.sec := by
  unfold State.throttleHalf
  repeat' (first | with_reducible rfl | split | rw [foldl_sec] | intro _ _ | (simp only [State.throttleCheck_sec, State.throttleRed_sec, State.modHalf_sec]) | dsimp only | grind [State.throttleCheck_sec, State.throttleRed_sec, State.modHalf_sec])

@[simp] theorem State.lockPair_sec (s : State) (h : Half) (r : Req) : (State.lockPair s h r).sec = s.sec := by
  unfold State.lockPair
  repeat' (first | with_reducible rfl | split | rw [foldl_sec] | intro _ _ | (simp only [State.bump_sec, State.modHalf_sec, State.dropCopy_sec]) | dsimp only | grind [State.bump_sec, State.modHalf_sec, State.dropCopy_sec])

@[simp] theorem State.matching_sec (s : State) (h : Half) : (State.matching s h).sec = s.sec := by
  unfold State.matching
  repeat' (first | with_reducible rfl | split | rw [foldl_sec] | intro _ _ | (simp only [State.bump_sec, State.modHalf_sec, State.lockPair_sec]) | dsimp only | grind [State.bump_sec, State.modHalf_sec, State.lockPair_sec])

@[simp] theorem State.spend_sec (s : State) (h : Half) (d : Dest) (vc : Nat) (job : Nat) (n : Nat) : (State.spend s h d vc job n).sec = s.sec := by
  unfold State.spend
  repeat' (first | with_reducible rfl | split | rw [foldl_sec] | intro _ _ | (simp only [State.modBerth_sec]) | dsimp only | grind [State.modBerth_sec])

@[simp] theorem State.moveCtrl_sec (s : State) (h : Half) (q : CtrlQ) : (State.moveCtrl s h q).sec = s.sec := by
  unfold State.moveCtrl
  repeat' (first | with_reducible rfl | split | rw [foldl_sec] | intro _ _ | (simp only [State.freeCredit_sec, State.modHalf_sec, State.bump_sec, State.storeCtrl_sec, State.toBerth_sec, State.spend_sec, State.modPort_sec]) | dsimp only | grind [State.freeCredit_sec, State.modHalf_sec, State.bump_sec, State.storeCtrl_sec, State.toBerth_sec, State.spend_sec, State.modPort_sec])

@[simp] theorem State.moveCtrls_sec (h : Half) (i : Nat) (o : Nat) (x3 : Nat) (x4 : State) : (State.moveCtrls h i o x3 x4).sec = x4.sec := by
  induction x3 generalizing x4 with
  | zero => rfl
  | succ n ih =>
    unfold State.moveCtrls
    split
    · rfl
    · rw [ih]
      simp only [State.moveCtrl_sec]

@[simp] theorem State.stomp_sec (s : State) (h : Half) (p : Pkt) (c : Copy) : (State.stomp s h p c).sec = s.sec := by
  unfold State.stomp
  repeat' (first | with_reducible rfl | split | rw [foldl_sec] | intro _ _ | (simp only [State.emitCell_sec, State.modBerth_sec, State.bump_sec, State.modHalf_sec, State.modPkt_sec]) | dsimp only | grind [State.emitCell_sec, State.modBerth_sec, State.bump_sec, State.modHalf_sec, State.modPkt_sec])

@[simp] theorem State.endChain_sec (s : State) (h : Half) (p : Pkt) (c : Copy) (bad : Nat) : (State.endChain s h p c bad).sec = s.sec := by
  unfold State.endChain
  repeat' (first | with_reducible rfl | split | rw [foldl_sec] | intro _ _ | (simp only [State.dropRefs_sec, State.palletFault_sec, State.settle_sec, State.modPkt_sec]) | dsimp only | grind [State.dropRefs_sec, State.palletFault_sec, State.settle_sec, State.modPkt_sec])

@[simp] theorem State.moveData_sec (s : State) (h : Half) (l : LockSt) (pid : Nat) : (State.moveData s h l pid).sec = s.sec := by
  unfold State.moveData
  simp only [apply_ite State.sec, apply_ite Prod.fst, State.modHalf_sec, State.stomp_sec, State.endChain_sec, State.bump_sec, State.spend_sec, State.emitCell_sec, State.mirrorPkt_sec, State.dropCopy_sec, State.settle_sec, State.modPkt_sec, State.dropRefs_sec, ite_self]
  repeat' (first | with_reducible rfl | split | rw [foldl_sec] | intro _ _ | (simp only [apply_ite State.sec, State.modHalf_sec, State.stomp_sec, State.endChain_sec, State.bump_sec, State.spend_sec, State.emitCell_sec, State.mirrorPkt_sec, State.dropCopy_sec, State.settle_sec, State.modPkt_sec, State.dropRefs_sec, ite_self]) | dsimp only)

@[simp] theorem State.transfer_sec (s : State) (h : Half) : (State.transfer s h).sec = s.sec := by
  unfold State.transfer
  repeat' (first | with_reducible rfl | split | rw [foldl_sec] | intro _ _ | (simp only [State.moveCtrls_sec, State.modHalf_sec, State.moveData_sec]) | dsimp only | grind [State.moveCtrls_sec, State.modHalf_sec, State.moveData_sec])

@[simp] theorem State.dropAgedHost_sec (s : State) (h : Half) : (State.dropAgedHost s h).sec = s.sec := by
  unfold State.dropAgedHost
  repeat' (first | with_reducible rfl | split | rw [foldl_sec] | intro _ _ | (simp only [State.bump_sec, State.dropCopy_sec, State.freeCredit_sec, State.modHalf_sec]) | dsimp only | grind [State.bump_sec, State.dropCopy_sec, State.freeCredit_sec, State.modHalf_sec])

@[simp] theorem State.launch_sec (s : State) (h : Half) (pid : Nat) : (State.launch s h pid).sec = s.sec := by
  unfold State.launch
  repeat' (first | with_reducible rfl | split | rw [foldl_sec] | intro _ _ | (simp only [State.settle_sec, State.mirrorPkt_sec]) | dsimp only | grind [State.settle_sec, State.mirrorPkt_sec])

@[simp] theorem State.letIn_sec (s : State) (h : Half) (pid : Nat) : (State.letIn s h pid).sec = s.sec := by
  unfold State.letIn
  repeat' (first | with_reducible rfl | split | rw [foldl_sec] | intro _ _ | (simp only [State.dropPkt_sec, State.launch_sec, State.allocatePkt_sec, State.modPkt_sec]) | dsimp only | grind [State.dropPkt_sec, State.launch_sec, State.allocatePkt_sec, State.modPkt_sec])

@[simp] theorem State.bridgeArrive_sec (s : State) (h : Half) (lane : Nat) : (State.bridgeArrive s h lane).sec = s.sec := by
  unfold State.bridgeArrive
  repeat' (first | with_reducible rfl | split | rw [foldl_sec] | intro _ _ | (simp only [State.modHalf_sec, State.letIn_sec]) | dsimp only | grind [State.modHalf_sec, State.letIn_sec])

@[simp] theorem State.berthArrive_sec (s : State) (h : Half) (input : Nat) (b : Nat) (cw : U32) (head : List Byte) : (State.berthArrive s h input b cw head).sec = s.sec := by
  unfold State.berthArrive
  repeat' (first | with_reducible rfl | split | rw [foldl_sec] | intro _ _ | (simp only [State.bwDrop_sec, State.checkCount_sec, State.fresh_sec, State.modHalf_sec, State.freeCredit_sec, State.bump_sec, State.policePkt_sec, State.letIn_sec, State.addCopies_sec]) | dsimp only | grind [State.bwDrop_sec, State.checkCount_sec, State.fresh_sec, State.modHalf_sec, State.freeCredit_sec, State.bump_sec, State.policePkt_sec, State.letIn_sec, State.addCopies_sec])

@[simp] theorem State.ctrlArrive_sec (s : State) (b : Nat) (cw : U32) (p : List Byte) : (State.ctrlArrive s b cw p).sec = s.sec := by
  unfold State.ctrlArrive
  repeat' (first | with_reducible rfl | split | rw [foldl_sec] | intro _ _ | (simp only [State.ctrlIn_sec]) | dsimp only | grind [State.ctrlIn_sec])

@[simp] theorem State.storeCheck_sec (s : State) (b : Nat) : (State.storeCheck s b).sec = s.sec := by
  unfold State.storeCheck
  repeat' (first | with_reducible rfl | split | rw [foldl_sec] | intro _ _ | (simp only [State.modBerth_sec]) | dsimp only | grind [State.modBerth_sec])

@[simp] theorem State.askAgain_sec (s : State) (hd : Hdr) : (State.askAgain s hd).sec = s.sec := by
  unfold State.askAgain
  repeat' (first | with_reducible rfl | split | rw [foldl_sec] | intro _ _ | (simp only [State.sendCtrl_sec]) | dsimp only | grind [State.sendCtrl_sec])

@[simp] theorem State.partSend_sec (s : State) (b : Nat) (p : PartSt) (dst : Nat) (body : CtrlBody) : (State.partSend s b p dst body).sec = s.sec := by
  unfold State.partSend
  repeat' (first | with_reducible rfl | split | rw [foldl_sec] | intro _ _ | (simp only [State.toBerth_sec, State.spend_sec]) | dsimp only | grind [State.toBerth_sec, State.spend_sec])

@[simp] theorem State.partAskAgain_sec (s : State) (n : Nat) (b : Nat) (hd : Hdr) : (State.partAskAgain s n b hd).sec = s.sec := by
  unfold State.partAskAgain
  repeat' (first | with_reducible rfl | split | rw [foldl_sec] | intro _ _ | (simp only [State.partSend_sec]) | dsimp only | grind [State.partSend_sec])

@[simp] theorem State.checkWhole_sec (s : State) (h : Half) (p : Pkt) (ok : Bool) (stomped : Bool) : (State.checkWhole s h p ok stomped).sec = s.sec := by
  unfold State.checkWhole
  repeat' (first | with_reducible rfl | split | rw [foldl_sec] | intro _ _ | (simp only [State.modPkt_sec, State.settle_sec, State.mirrorPkt_sec, State.launch_sec, State.bump_sec, State.dropPkt_sec, State.askAgain_sec]) | dsimp only | grind [State.modPkt_sec, State.settle_sec, State.mirrorPkt_sec, State.launch_sec, State.bump_sec, State.dropPkt_sec, State.askAgain_sec])

@[simp] theorem State.receiveWhole_sec (s : State) (h : Half) (p : Pkt) (rest : List Byte) (crc : U32) : (State.receiveWhole s h p rest crc).sec = s.sec := by
  unfold State.receiveWhole
  repeat' (first | with_reducible rfl | split | rw [foldl_sec] | intro _ _ | (simp only [State.checkPacket_sec, State.dropPkt_sec, State.partAskAgain_sec, State.modBerth_sec, State.bump_sec, State.checkWhole_sec, State.modPkt_sec]) | dsimp only | grind [State.checkPacket_sec, State.dropPkt_sec, State.partAskAgain_sec, State.modBerth_sec, State.bump_sec, State.checkWhole_sec, State.modPkt_sec])

@[simp] theorem State.bridgeWhole_sec (s : State) (h : Half) (p : Pkt) : (State.bridgeWhole s h p).sec = s.sec := by
  unfold State.bridgeWhole
  repeat' (first | with_reducible rfl | split | rw [foldl_sec] | intro _ _ | (simp only [State.checkWhole_sec, State.modPkt_sec]) | dsimp only | grind [State.checkWhole_sec, State.modPkt_sec])

@[simp] theorem State.audit_sec (s : State) (h : Half) : (State.audit s h).sec = s.sec := by
  unfold State.audit
  repeat' (first | with_reducible rfl | split | rw [foldl_sec] | intro _ _ | (simp only [State.palletFault_sec]) | dsimp only | grind [State.palletFault_sec])

@[simp] theorem State.postPart_sec (s : State) (ch : Nat) : (State.postPart s ch).sec = s.sec := by
  unfold State.postPart
  repeat' (first | with_reducible rfl | split | rw [foldl_sec] | intro _ _ | (simp only [State.modChan_sec, State.modMbox_sec]) | dsimp only | grind [State.modChan_sec, State.modMbox_sec])

@[simp] theorem State.pushReply_sec (s : State) (r : Reply) : (State.pushReply s r).sec = s.sec := by
  unfold State.pushReply
  repeat' (first | with_reducible rfl | split | rw [foldl_sec] | intro _ _ | (simp only [State.postPart_sec, State.modMbox_sec]) | dsimp only | grind [State.postPart_sec, State.modMbox_sec])

@[simp] theorem State.resetChans_sec (s : State) (f : Binding → Bool) : (State.resetChans s f).sec = s.sec := by
  unfold State.resetChans
  repeat' (first | with_reducible rfl | split | rw [foldl_sec] | intro _ _ | (simp only [State.modMbox_sec]) | dsimp only | grind [State.modMbox_sec])

@[simp] theorem State.receiverReset_sec (s : State) (who : BitVec 4) : (State.receiverReset s who).sec = s.sec := by
  unfold State.receiverReset
  repeat' (first | with_reducible rfl | split | rw [foldl_sec] | intro _ _ | (simp only [State.modBoot_sec, State.modMbox_sec, State.resetChans_sec]) | dsimp only | grind [State.modBoot_sec, State.modMbox_sec, State.resetChans_sec])

@[simp] theorem State.holdWrite_sec (s : State) (job : Nat) (addr : Nat) (bs : List Byte) : (State.holdWrite s job addr bs).sec = s.sec := by
  unfold State.holdWrite
  repeat' (first | with_reducible rfl | split | rw [foldl_sec] | intro _ _ | (fail) | dsimp only | grind [])

@[simp] theorem State.logHoldRow_sec (s : State) (a : Nat) : (State.logHoldRow s a).sec = s.sec := by
  unfold State.logHoldRow
  repeat' (first | with_reducible rfl | split | rw [foldl_sec] | intro _ _ | (simp only [State.logRepair_sec]) | dsimp only | grind [State.logRepair_sec])

@[simp] theorem State.holdError_sec (s : State) (a : Nat) (detail : U64) : (State.holdError s a detail).sec = s.sec := by
  unfold State.holdError
  repeat' (first | with_reducible rfl | split | rw [foldl_sec] | intro _ _ | (simp only [State.logHoldRow_sec, State.raiseWith_sec]) | dsimp only | grind [State.logHoldRow_sec, State.raiseWith_sec])

@[simp] theorem State.holdRestore_sec (s : State) (l : List (Nat × Byte × Option Nat)) : (State.holdRestore s l).sec = s.sec := by
  unfold State.holdRestore
  repeat' (first | with_reducible rfl | split | rw [foldl_sec] | intro _ _ | (fail) | dsimp only | grind [])

@[simp] theorem State.gatherUp_sec (s : State) (job : Nat) (v : TideNo) : (State.gatherUp s job v).sec = s.sec := by
  unfold State.gatherUp
  repeat' (first | with_reducible rfl | split | rw [foldl_sec] | intro _ _ | (simp only [State.modJob_sec]) | dsimp only | grind [State.modJob_sec])

@[simp] theorem State.gatherDown_sec (s : State) (job : Nat) (v : TideNo) : (State.gatherDown s job v).sec = s.sec := by
  unfold State.gatherDown
  repeat' (first | with_reducible rfl | split | rw [foldl_sec] | intro _ _ | (simp only [State.modJob_sec]) | dsimp only | grind [State.modJob_sec])

@[simp] theorem State.noteRewrite_sec (s : State) (job : Nat) (addr : Nat) (n : Nat) : (State.noteRewrite s job addr n).sec = s.sec := by
  unfold State.noteRewrite
  repeat' (first | with_reducible rfl | split | rw [foldl_sec] | intro _ _ | (fail) | dsimp only | grind [])

@[simp] theorem State.finishWait_sec (s : State) (w : Await) (body : List Byte) : (State.finishWait s w body).sec = s.sec := by
  unfold State.finishWait
  repeat' (first | with_reducible rfl | split | rw [foldl_sec] | intro _ _ | (simp only [State.pushReply_sec, State.modMbox_sec]) | dsimp only | grind [State.pushReply_sec, State.modMbox_sec])

@[simp] theorem State.failWait_sec (s : State) (w : Await) (status : Nat) : (State.failWait s w status).sec = s.sec := by
  unfold State.failWait
  repeat' (first | with_reducible rfl | split | rw [foldl_sec] | intro _ _ | (simp only [State.finishWait_sec, State.modMbox_sec]) | dsimp only | grind [State.finishWait_sec, State.modMbox_sec])

@[simp] theorem State.finishTileRead_sec (s : State) (id : Nat) : (State.finishTileRead s id).sec = s.sec := by
  unfold State.finishTileRead
  repeat' (first | with_reducible rfl | split | rw [foldl_sec] | intro _ _ | (simp only [State.modMbox_sec, State.failWait_sec, State.finishWait_sec]) | dsimp only | grind [State.modMbox_sec, State.failWait_sec, State.finishWait_sec])

@[simp] theorem State.modChunk_sec (s : State) (n : Nat) (c : Nat) (f : ChunkSt → ChunkSt) : (State.modChunk s n c f).sec = s.sec := by
  unfold State.modChunk
  repeat' (first | with_reducible rfl | split | rw [foldl_sec] | intro _ _ | (simp only [State.modStream_sec]) | dsimp only | grind [State.modStream_sec])

@[simp] theorem State.modStat_sec (s : State) (n : Nat) (h : Half) (f : StreamStat → StreamStat) : (State.modStat s n h f).sec = s.sec := by
  unfold State.modStat
  repeat' (first | with_reducible rfl | split | rw [foldl_sec] | intro _ _ | (simp only [State.modStream_sec]) | dsimp only | grind [State.modStream_sec])

@[simp] theorem State.askAbort_sec (s : State) (n : Nat) (r : AbortReq) : (State.askAbort s n r).sec = s.sec := by
  unfold State.askAbort
  repeat' (first | with_reducible rfl | split | rw [foldl_sec] | intro _ _ | (simp only [State.modStream_sec]) | dsimp only | grind [State.modStream_sec])

@[simp] theorem State.tileFault_sec (s : State) (k : Nat) (n : Nat) (c : Nat) (window : Nat) (residue : Bool) : (State.tileFault s k n c window residue).sec = s.sec := by
  unfold State.tileFault
  repeat' (first | with_reducible rfl | split | rw [foldl_sec] | intro _ _ | (simp only [State.raiseWith_sec, State.askAbort_sec, State.modChunk_sec]) | dsimp only | grind [State.raiseWith_sec, State.askAbort_sec, State.modChunk_sec])

@[simp] theorem State.workFault_sec (s : State) (k : Nat) (j : Nat) (n : Nat) (m : ManifestCfg) (c : Nat) (err : Option TileFault) : (State.workFault s k j n m c err).sec = s.sec := by
  unfold State.workFault
  repeat' (first | with_reducible rfl | split | rw [foldl_sec] | intro _ _ | (simp only [State.tileFault_sec]) | dsimp only | grind [State.tileFault_sec])

@[simp] theorem State.consume_sec (s : State) (h : Half) (pid : Nat) : (State.consume s h pid).sec = s.sec := by
  unfold State.consume
  repeat' (first | with_reducible rfl | split | rw [foldl_sec] | intro _ _ | (simp only [State.dropCopy_sec]) | dsimp only | grind [State.dropCopy_sec])

@[simp] theorem State.dropCells_sec (s : State) (pid : Nat) : (State.dropCells s pid).sec = s.sec := by
  unfold State.dropCells
  repeat' (first | with_reducible rfl | split | rw [foldl_sec] | intro _ _ | (fail) | dsimp only | grind [])

@[simp] theorem State.modSlot_sec (s : State) (n : Nat) (m : ManifestCfg) (c : Nat) (k : Nat) (f : ChunkSlot → ChunkSlot) : (State.modSlot s n m c k f).sec = s.sec := by
  unfold State.modSlot
  repeat' (first | with_reducible rfl | split | rw [foldl_sec] | intro _ _ | (simp only [State.modTile_sec]) | dsimp only | grind [State.modTile_sec])

@[simp] theorem State.freeSlots_sec (s : State) (n : Nat) (m : ManifestCfg) (c : Nat) : (State.freeSlots s n m c).sec = s.sec := by
  unfold State.freeSlots
  repeat' (first | with_reducible rfl | split | rw [foldl_sec] | intro _ _ | (simp only [State.modTile_sec]) | dsimp only | grind [State.modTile_sec])

@[simp] theorem State.allocSlots_sec (s : State) (n : Nat) (m : ManifestCfg) (c : Nat) : (State.allocSlots s n m c).sec = s.sec := by
  unfold State.allocSlots
  repeat' (first | with_reducible rfl | split | rw [foldl_sec] | intro _ _ | (simp only [State.modTile_sec, State.modQuay_sec, State.modStream_sec]) | dsimp only | grind [State.modTile_sec, State.modQuay_sec, State.modStream_sec])

@[simp] theorem State.charge_sec (s : State) (k : Nat) (cost : Nat) (unit : TileWork) : (State.charge s k cost unit).sec = s.sec := by
  unfold State.charge
  repeat' (first | with_reducible rfl | split | rw [foldl_sec] | intro _ _ | (simp only [State.modTile_sec]) | dsimp only | grind [State.modTile_sec])

@[simp] theorem State.mergeLeaf_sec (s : State) (n : Nat) (m : ManifestCfg) (c : Nat) (k : Nat) : (State.mergeLeaf s n m c k).sec = s.sec := by
  unfold State.mergeLeaf
  repeat' (first | with_reducible rfl | split | rw [foldl_sec] | intro _ _ | (simp only [State.modTile_sec, State.modSlot_sec]) | dsimp only | grind [State.modTile_sec, State.modSlot_sec])

@[simp] theorem State.placeElem_sec (s : State) (n : Nat) (m : ManifestCfg) (p : Pkt) (jobRank : Nat) (k : Nat) (j : Nat) : (State.placeElem s n m p jobRank k j).sec = s.sec := by
  unfold State.placeElem
  repeat' (first | with_reducible rfl | split | rw [foldl_sec] | intro _ _ | (simp only [State.modTile_sec, State.modSlot_sec, State.modStream_sec]) | dsimp only | grind [State.modTile_sec, State.modSlot_sec, State.modStream_sec])

@[simp] theorem State.cellTaken_sec (s : State) (k : Nat) (w : CellWork) : (State.cellTaken s k w).sec = s.sec := by
  unfold State.cellTaken
  repeat' (first | with_reducible rfl | split | rw [foldl_sec] | intro _ _ | (simp only [State.modTile_sec, State.consume_sec, State.settle_sec, State.modPkt_sec, State.dropRefs_sec]) | dsimp only | grind [State.modTile_sec, State.consume_sec, State.settle_sec, State.modPkt_sec, State.dropRefs_sec])

@[simp] theorem State.putWord_sec (s : State) (n : Nat) (m : ManifestCfg) (c : Nat) (k : Nat) (i : Nat) (w : SpillWord) : (State.putWord s n m c k i w).sec = s.sec := by
  unfold State.putWord
  repeat' (first | with_reducible rfl | split | rw [foldl_sec] | intro _ _ | (simp only [State.modQuay_sec, State.modSlot_sec]) | dsimp only | grind [State.modQuay_sec, State.modSlot_sec])

@[simp] theorem State.noteSpill_sec (s : State) (n : Nat) (m : ManifestCfg) (c : Nat) (k : Nat) : (State.noteSpill s n m c k).sec = s.sec := by
  unfold State.noteSpill
  repeat' (first | with_reducible rfl | split | rw [foldl_sec] | intro _ _ | (simp only [State.modStat_sec, State.modSlot_sec]) | dsimp only | grind [State.modStat_sec, State.modSlot_sec])

theorem State.intoStore_sec (s : State) (n : Nat) (m : ManifestCfg) (c k : Nat) (adds : List (Nat × SpillAdd)) (after : State → State)
    (ha : ∀ s, (after s).sec = s.sec) : (s.intoStore n m c k adds after).sec = s.sec := by
  unfold State.intoStore
  split
  · rfl
  · split
    · rw [ha, State.noteSpill_sec, foldl_sec]
      intro _ _
      rw [State.putWord_sec]
    · exact State.askAbort_sec ..

@[simp] theorem State.spillSlot_sec (s : State) (n : Nat) (m : ManifestCfg) (c : Nat) (k : Nat) : (State.spillSlot s n m c k).sec = s.sec := by
  unfold State.spillSlot
  exact State.intoStore_sec _ _ _ _ _ _ _ (fun s => by rw [State.modSlot_sec, State.modTile_sec])

@[simp] theorem State.respill_sec (s : State) (n : Nat) (m : ManifestCfg) (c : Nat) (k : Nat) : (State.respill s n m c k).sec = s.sec := by
  unfold State.respill
  repeat' (first | with_reducible rfl | split | rw [foldl_sec] | intro _ _ | (simp only [State.modStat_sec, State.modSlot_sec, State.askAbort_sec]) | dsimp only | grind [State.modStat_sec, State.modSlot_sec, State.askAbort_sec])

@[simp] theorem State.combinePartial_sec (s : State) (n : Nat) (m : ManifestCfg) (c : Nat) (k : Nat) (j : Nat) : (State.combinePartial s n m c k j).sec = s.sec := by
  unfold State.combinePartial
  dsimp only
  repeat' (first | with_reducible rfl | split | (rw [State.intoStore_sec _ _ _ _ _ _ _ (fun s => by simp only [State.modSlot_sec])]) | simp only [State.modTile_sec, State.modStat_sec, State.modSlot_sec])

@[simp] theorem State.convert_sec (s : State) (n : Nat) (m : ManifestCfg) (c : Nat) : (State.convert s n m c).sec = s.sec := by
  unfold State.convert
  repeat' (first | with_reducible rfl | split | rw [foldl_sec] | intro _ _ | (simp only [State.modChunk_sec, State.modStat_sec, State.modStream_sec, State.freeSlots_sec]) | dsimp only | grind [State.modChunk_sec, State.modStat_sec, State.modStream_sec, State.freeSlots_sec])

@[simp] theorem State.loadFuse_sec (s : State) (n : Nat) (m : ManifestCfg) (c : Nat) : (State.loadFuse s n m c).sec = s.sec := by
  unfold State.loadFuse
  repeat' (first | with_reducible rfl | split | rw [foldl_sec] | intro _ _ | (simp only [State.modChunk_sec]) | dsimp only | grind [State.modChunk_sec])

@[simp] theorem State.drainEngine_sec (s : State) (h : Half) (phys : Nat) (why : DrainFor) : (State.drainEngine s h phys why).sec = s.sec := by
  unfold State.drainEngine
  repeat' (first | with_reducible rfl | split | rw [foldl_sec] | intro _ _ | (fail) | dsimp only | grind [])

@[simp] theorem State.substitute_sec (s : State) (k : Nat) (phys : Nat) : (State.substitute s k phys).sec = s.sec := by
  unfold State.substitute
  repeat' (first | with_reducible rfl | split | rw [foldl_sec] | intro _ _ | (simp only [State.charge_sec, State.spillSlot_sec, State.respill_sec, State.modHalf_sec, State.modTile_sec, State.withdrawDone_sec, State.logRepair_sec, State.raisePkg_sec]) | dsimp only | grind [State.charge_sec, State.spillSlot_sec, State.respill_sec, State.modHalf_sec, State.modTile_sec, State.withdrawDone_sec, State.logRepair_sec, State.raisePkg_sec])

@[simp] theorem State.cacheHit_sec (s : State) (h : Half) (n : Nat) : (State.cacheHit s h n).1.sec = s.sec := by
  unfold State.cacheHit
  repeat' (first | with_reducible rfl | split | rw [foldl_sec] | intro _ _ | (simp only [State.modHalf_sec]) | dsimp only | grind [State.modHalf_sec])

@[simp] theorem State.jobDrop_sec (s : State) (job : Nat) : (State.jobDrop s job).sec = s.sec := by
  unfold State.jobDrop
  repeat' (first | with_reducible rfl | split | rw [foldl_sec] | intro _ _ | (simp only [State.modJob_sec]) | dsimp only | grind [State.modJob_sec])

@[simp] theorem State.acceptContribution_sec (s : State) (h : Half) (n : Nat) (m : ManifestCfg) (p : Pkt) : (State.acceptContribution s h n m p).sec = s.sec := by
  unfold State.acceptContribution
  repeat' (first | with_reducible rfl | split | rw [foldl_sec] | intro _ _ | (simp only [State.modChunk_sec, State.modStat_sec, State.modTile_sec, State.modStream_sec]) | dsimp only | grind [State.modChunk_sec, State.modStat_sec, State.modTile_sec, State.modStream_sec])

@[simp] theorem State.contribution_sec (s : State) (h : Half) (p : Pkt) : (State.contribution s h p).sec = s.sec := by
  unfold State.contribution
  repeat' (first | with_reducible rfl | split | rw [foldl_sec] | intro _ _ | (simp only [State.consume_sec, State.jobDrop_sec, State.cacheHit_sec, State.modStat_sec, State.modHalf_sec, State.modPkt_sec, State.acceptContribution_sec]) | dsimp only | grind [State.consume_sec, State.jobDrop_sec, State.cacheHit_sec, State.modStat_sec, State.modHalf_sec, State.modPkt_sec, State.acceptContribution_sec])

@[simp] theorem State.sendOut_sec (s : State) (m : ManifestCfg) (held : Option (Nat × Byte)) (p : OutPkt) (dst : Nat) (mcast : Bool) : (State.sendOut s m held p dst mcast).sec = s.sec := by
  unfold State.sendOut
  repeat' (first | with_reducible rfl | split | rw [foldl_sec] | intro _ _ | (simp only [State.injectAs_sec]) | dsimp only | grind [State.injectAs_sec])

@[simp] theorem State.sendCarry_sec (s : State) (n : Nat) (m : ManifestCfg) (c : Nat) : (State.sendCarry s n m c).sec = s.sec := by
  unfold State.sendCarry
  repeat' (first | with_reducible rfl | split | rw [foldl_sec] | intro _ _ | (simp only [State.sendOut_sec, State.modChunk_sec]) | dsimp only | grind [State.sendOut_sec, State.modChunk_sec])

@[simp] theorem State.forwardResults_sec (s : State) (n : Nat) (m : ManifestCfg) (c : Nat) : (State.forwardResults s n m c).sec = s.sec := by
  unfold State.forwardResults
  repeat' (first | with_reducible rfl | split | rw [foldl_sec] | intro _ _ | (simp only [State.sendOut_sec, State.modChunk_sec]) | dsimp only | grind [State.sendOut_sec, State.modChunk_sec])

@[simp] theorem State.flushStream_sec (s : State) (n : Nat) (gen : Byte) : (State.flushStream s n gen).sec = s.sec := by
  unfold State.flushStream
  repeat' (first | with_reducible rfl | split | rw [foldl_sec] | intro _ _ | (simp only [State.unhold_sec]) | dsimp only | grind [State.unhold_sec])

@[simp] theorem State.resultIn_sec (s : State) (h : Half) (p : Pkt) : (State.resultIn s h p).sec = s.sec := by
  unfold State.resultIn
  repeat' (first | with_reducible rfl | split | rw [foldl_sec] | intro _ _ | (simp only [State.consume_sec, State.jobDrop_sec, State.modStat_sec, State.modChunk_sec, State.forwardResults_sec]) | dsimp only | grind [State.consume_sec, State.jobDrop_sec, State.modStat_sec, State.modChunk_sec, State.forwardResults_sec])

@[simp] theorem State.badCell_sec (s : State) (n : Nat) (m : ManifestCfg) : (State.badCell s n m).sec = s.sec := by
  unfold State.badCell
  repeat' (first | with_reducible rfl | split | rw [foldl_sec] | intro _ _ | (simp only [State.modStat_sec]) | dsimp only | grind [State.modStat_sec])

@[simp] theorem State.freeAcked_sec (s : State) (n : Nat) (m : ManifestCfg) (c : Nat) : (State.freeAcked s n m c).sec = s.sec := by
  unfold State.freeAcked
  repeat' (first | with_reducible rfl | split | rw [foldl_sec] | intro _ _ | (simp only [State.modChunk_sec]) | dsimp only | grind [State.modChunk_sec])

@[simp] theorem State.discardRun_sec (s : State) (n : Nat) (m : ManifestCfg) : (State.discardRun s n m).sec = s.sec := by
  unfold State.discardRun
  repeat' (first | with_reducible rfl | split | rw [foldl_sec] | intro _ _ | (simp only [State.modStat_sec, State.consume_sec, State.dropCells_sec, State.dropPkt_sec, State.modTile_sec, State.freeSlots_sec, State.modStream_sec]) | dsimp only | grind [State.modStat_sec, State.consume_sec, State.dropCells_sec, State.dropPkt_sec, State.modTile_sec, State.freeSlots_sec, State.modStream_sec])

@[simp] theorem State.refuseResends_sec (s : State) (n : Nat) (m : ManifestCfg) : (State.refuseResends s n m).sec = s.sec := by
  unfold State.refuseResends
  repeat' (first | with_reducible rfl | split | rw [foldl_sec] | intro _ _ | (simp only [State.badCell_sec, State.sendCtrl_sec, State.modStream_sec]) | dsimp only | grind [State.badCell_sec, State.sendCtrl_sec, State.modStream_sec])

@[simp] theorem State.stopStream_sec (s : State) (n : Nat) (m : ManifestCfg) (r : AbortReq) (cells : Bool) : (State.stopStream s n m r cells).sec = s.sec := by
  unfold State.stopStream
  repeat' (first | with_reducible rfl | split | rw [foldl_sec] | intro _ _ | (simp only [State.refuseResends_sec, State.discardRun_sec, State.modStat_sec, State.modStream_sec, State.sendCtrls_sec]) | dsimp only | grind [State.refuseResends_sec, State.discardRun_sec, State.modStat_sec, State.modStream_sec, State.sendCtrls_sec])

@[simp] theorem State.goLive_sec (s : State) (n : Nat) (m : ManifestCfg) (armC : U16) : (State.goLive s n m armC).sec = s.sec := by
  unfold State.goLive
  repeat' (first | with_reducible rfl | split | rw [foldl_sec] | intro _ _ | (simp only [State.modStream_sec, State.allocSlots_sec, State.modChunk_sec, State.sendCtrls_sec]) | dsimp only | grind [State.modStream_sec, State.allocSlots_sec, State.modChunk_sec, State.sendCtrls_sec])

@[simp] theorem State.deliver_sec (s : State) (n : Nat) (m : ManifestCfg) (c : Nat) (ps : List OutPkt) : (State.deliver s n m c ps).sec = s.sec := by
  unfold State.deliver
  repeat' (first | with_reducible rfl | split | rw [foldl_sec] | intro _ _ | (simp only [State.freeAcked_sec, State.modChunk_sec, State.jobDrop_sec]) | dsimp only | grind [State.freeAcked_sec, State.modChunk_sec, State.jobDrop_sec])

@[simp] theorem State.sendCopy_sec (s : State) (x1 : ShardSt) (j : Nat) (version : Nat) (coarse : Nat) (bits : List Nat) (fine : List Nat) (dst : Nat) (mcast : Bool) (h : Half) : (State.sendCopy s x1 j version coarse bits fine dst mcast h).sec = s.sec := by
  unfold State.sendCopy
  repeat' (first | with_reducible rfl | split | rw [foldl_sec] | intro _ _ | (simp only [State.inject_sec]) | dsimp only | grind [State.inject_sec])

@[simp] theorem State.tasteChunk_sec (s : State) (key : Nat) (blocks : List Nat) (a : List Val) (b : List Val) (first : Nat) : (State.tasteChunk s key blocks a b first).sec = s.sec := by
  unfold State.tasteChunk
  repeat' (first | with_reducible rfl | split | rw [foldl_sec] | intro _ _ | (simp only [State.modShard_sec, State.raisePkg_sec]) | dsimp only | grind [State.modShard_sec, State.raisePkg_sec])

@[simp] theorem State.storeCopy_sec (s : State) (key : Nat) (cx : RecCtx) (rc : RecChunk) (op : U64) (a : List Val) (wide : List Val) (blocks : List Nat) : (State.storeCopy s key cx rc op a wide blocks).1.sec = s.sec := by
  unfold State.storeCopy
  repeat' (first | with_reducible rfl | split | rw [foldl_sec] | intro _ _ | (simp only [State.holdWrite_sec, State.modShard_sec, State.tasteChunk_sec]) | dsimp only | grind [State.holdWrite_sec, State.modShard_sec, State.tasteChunk_sec])

@[simp] theorem State.emitCopy_sec (s : State) (key : Nat) (cx : RecCtx) : (State.emitCopy s key cx).sec = s.sec := by
  unfold State.emitCopy
  repeat' (first | with_reducible rfl | split | rw [foldl_sec] | intro _ _ | (simp only [State.fresh_sec, State.gatherUp_sec]) | dsimp only | grind [State.fresh_sec, State.gatherUp_sec])

@[simp] theorem State.recipeOp_sec (s : State) (key : Nat) (cx : RecCtx) (rc : RecChunk) (op : U64) (blocks : List Nat) (keep : Bool) : (State.recipeOp s key cx rc op blocks keep).1.sec = s.sec := by
  unfold State.recipeOp
  repeat' (first | with_reducible rfl | split | rw [foldl_sec] | intro _ _ | (simp only [State.modShard_sec, State.storeCopy_sec, State.holdWrite_sec, State.emitCopy_sec]) | dsimp only | grind [State.modShard_sec, State.storeCopy_sec, State.holdWrite_sec, State.emitCopy_sec])

@[simp] theorem State.injectAmax_sec (s : State) (x1 : ShardSt) (amax : U32) (h : Half) (port : Nat) : (State.injectAmax s x1 amax h port).sec = s.sec := by
  unfold State.injectAmax
  repeat' (first | with_reducible rfl | split | rw [foldl_sec] | intro _ _ | (simp only [State.inject_sec]) | dsimp only | grind [State.inject_sec])

@[simp] theorem State.ackGrad_sec (s : State) (x1 : ShardSt) (j : Nat) : (State.ackGrad s x1 j).sec = s.sec := by
  unfold State.ackGrad
  repeat' (first | with_reducible rfl | split | rw [foldl_sec] | intro _ _ | (simp only [State.freeAcked_sec, State.modChunk_sec]) | dsimp only | grind [State.freeAcked_sec, State.modChunk_sec])

@[simp] theorem State.updateDone_sec (s : State) (key : Nat) (j : Nat) (step : Nat) (rc : RecChunk) (port : Nat) : (State.updateDone s key j step rc port).sec = s.sec := by
  unfold State.updateDone
  repeat' (first | with_reducible rfl | split | rw [foldl_sec] | intro _ _ | (simp only [State.modShard_sec, State.injectAmax_sec]) | dsimp only | grind [State.modShard_sec, State.injectAmax_sec])

@[simp] theorem State.loadError_sec (s : State) (key : Nat) (rc : RecChunk) (a : Nat) : (State.loadError s key rc a).sec = s.sec := by
  unfold State.loadError
  repeat' (first | with_reducible rfl | split | rw [foldl_sec] | intro _ _ | (simp only [State.modShard_sec, State.holdError_sec, State.holdRestore_sec]) | dsimp only | grind [State.modShard_sec, State.holdError_sec, State.holdRestore_sec])

@[simp] theorem State.stepRecipe_sec (s : State) (key : Nat) (cx : RecCtx) (rc : RecChunk) (ops : List U64) (op : U64) (blocks : List Nat) (k : Nat) : (State.stepRecipe s key cx rc ops op blocks k).sec = s.sec := by
  unfold State.stepRecipe
  repeat' (first | with_reducible rfl | split | rw [foldl_sec] | intro _ _ | (simp only [State.recipeOp_sec, State.modShard_sec, State.updateDone_sec]) | dsimp only | grind [State.recipeOp_sec, State.modShard_sec, State.updateDone_sec])

@[simp] theorem State.runRecipe_sec (s : State) (key : Nat) (x2 : ShardSt) (r : Recipe) (j : Nat) (rc : RecChunk) (k : Nat) (cyc : Nat) (ue : Option (BitVec 41)) : (State.runRecipe s key x2 r j rc k cyc ue).sec = s.sec := by
  unfold State.runRecipe
  dsimp only
  repeat' (first | with_reducible rfl | split | rw [State.modShard_sec, State.charge_sec] | simp only [apply_ite State.sec, State.loadError_sec, State.stepRecipe_sec, State.ackGrad_sec, State.charge_sec, ite_self])

@[simp] theorem State.skipUpdate_sec (s : State) (key : Nat) (x2 : ShardSt) (r : Recipe) (j : Nat) (rc : RecChunk) (k : Nat) (cyc : Nat) (ue : Option (BitVec 41)) : (State.skipUpdate s key x2 r j rc k cyc ue).sec = s.sec := by
  unfold State.skipUpdate
  repeat' (first | with_reducible rfl | split | rw [foldl_sec] | intro _ _ | (simp only [State.charge_sec, State.modShard_sec, State.ackGrad_sec, State.loadError_sec, State.updateDone_sec]) | dsimp only | grind [State.charge_sec, State.modShard_sec, State.ackGrad_sec, State.loadError_sec, State.updateDone_sec])

@[simp] theorem State.modReshard_sec (s : State) (cid : Nat) (f : ReshardSt → ReshardSt) : (State.modReshard s cid f).sec = s.sec := by
  unfold State.modReshard
  repeat' (first | with_reducible rfl | split | rw [foldl_sec] | intro _ _ | (simp only [State.modColl_sec]) | dsimp only | grind [State.modColl_sec])

@[simp] theorem State.endReshard_sec (s : State) (cid : Nat) (st : BitVec 4) : (State.endReshard s cid st).sec = s.sec := by
  unfold State.endReshard
  repeat' (first | with_reducible rfl | split | rw [foldl_sec] | intro _ _ | (simp only [State.modColl_sec]) | dsimp only | grind [State.modColl_sec])

@[simp] theorem State.stage_sec (s : State) (cid : Nat) (addr : Nat) (bs : List Byte) : (State.stage s cid addr bs).sec = s.sec := by
  unfold State.stage
  repeat' (first | with_reducible rfl | split | rw [foldl_sec] | intro _ _ | (simp only [State.modReshard_sec]) | dsimp only | grind [State.modReshard_sec])

@[simp] theorem State.countRefused_sec (s : State) (job : Nat) : (State.countRefused s job).sec = s.sec := by
  unfold State.countRefused
  repeat' (first | with_reducible rfl | split | rw [foldl_sec] | intro _ _ | (simp only [State.modJob_sec]) | dsimp only | grind [State.modJob_sec])

@[simp] theorem State.refuseGather_sec (s : State) (g : Gather) (reason : Byte) : (State.refuseGather s g reason).sec = s.sec := by
  unfold State.refuseGather
  repeat' (first | with_reducible rfl | split | rw [foldl_sec] | intro _ _ | (simp only [State.countRefused_sec, State.sendCtrlFrom_sec]) | dsimp only | grind [State.countRefused_sec, State.sendCtrlFrom_sec])

@[simp] theorem State.dropGather_sec (s : State) (g : Gather) (reason : Byte) : (State.dropGather s g reason).sec = s.sec := by
  unfold State.dropGather
  repeat' (first | with_reducible rfl | split | rw [foldl_sec] | intro _ _ | (simp only [State.refuseGather_sec, State.gatherDown_sec]) | dsimp only | grind [State.refuseGather_sec, State.gatherDown_sec])

@[simp] theorem State.serveRange_sec (s : State) (x1 : ShardSt) (first : Nat) (count : Nat) (v : TideNo) (dst : Nat) (mcast : Bool) : (State.serveRange s x1 first count v dst mcast).sec = s.sec := by
  unfold State.serveRange
  repeat' (first | with_reducible rfl | split | rw [foldl_sec] | intro _ _ | (simp only [State.sendCopy_sec]) | dsimp only | grind [State.sendCopy_sec])

@[simp] theorem State.servePrefetch_sec (s : State) (p : Prefetch) (bad : List Nat) (r : Nat × Nat × Nat) : (State.servePrefetch s p bad r).sec = s.sec := by
  unfold State.servePrefetch
  repeat' (first | with_reducible rfl | split | rw [foldl_sec] | intro _ _ | (simp only [State.gatherDown_sec, State.serveRange_sec, State.countRefused_sec]) | dsimp only | grind [State.gatherDown_sec, State.serveRange_sec, State.countRefused_sec])

@[simp] theorem State.poisonAt_sec (s : State) (addr : Nat) : (State.poisonAt s addr).sec = s.sec := by
  unfold State.poisonAt
  repeat' (first | with_reducible rfl | split | rw [foldl_sec] | intro _ _ | (simp only [State.modShard_sec]) | dsimp only | grind [State.modShard_sec])

@[simp] theorem State.poisonRun_sec (s : State) (n : Nat) (fail : U16) : (State.poisonRun s n fail).sec = s.sec := by
  unfold State.poisonRun
  repeat' (first | with_reducible rfl | split | rw [foldl_sec] | intro _ _ | (simp only [State.askAbort_sec]) | dsimp only | grind [State.askAbort_sec])

@[simp] theorem State.quayError_sec (s : State) (h : Half) (off : Nat) (x3 : QuayArea) : (State.quayError s h off x3).sec = s.sec := by
  unfold State.quayError
  repeat' (first | with_reducible rfl | split | rw [foldl_sec] | intro _ _ | (simp only [State.modStream_sec, State.poisonRun_sec, State.modShard_sec, State.modJob_sec, State.modQuay_sec, State.gatherDown_sec, State.endReshard_sec, State.modChart_sec]) | dsimp only | grind [State.modStream_sec, State.poisonRun_sec, State.modShard_sec, State.modJob_sec, State.modQuay_sec, State.gatherDown_sec, State.endReshard_sec, State.modChart_sec])

@[simp] theorem State.enterHoldover_sec (s : State) : (State.enterHoldover s).sec = s.sec := by
  unfold State.enterHoldover
  repeat' (first | with_reducible rfl | split | rw [foldl_sec] | intro _ _ | (simp only [State.raisePkg_sec, State.modTide_sec]) | dsimp only | grind [State.raisePkg_sec, State.modTide_sec])

@[simp] theorem State.slip_sec (s : State) : (State.slip s).sec = s.sec := by
  unfold State.slip
  repeat' (first | with_reducible rfl | split | rw [foldl_sec] | intro _ _ | (simp only [State.raisePkg_sec, State.modTide_sec]) | dsimp only | grind [State.raisePkg_sec, State.modTide_sec])

@[simp] theorem State.judgeEdge_sec (s : State) (time : Nat) : (State.judgeEdge s time).sec = s.sec := by
  unfold State.judgeEdge
  repeat' (first | with_reducible rfl | split | rw [foldl_sec] | intro _ _ | (simp only [State.modTide_sec, State.slip_sec]) | dsimp only | grind [State.modTide_sec, State.slip_sec])

@[simp] theorem State.checkTide_sec (s : State) (b : Nat) (dep : U64) (arr : U64) : (State.checkTide s b dep arr).sec = s.sec := by
  unfold State.checkTide
  repeat' (first | with_reducible rfl | split | rw [foldl_sec] | intro _ _ | (simp only [State.raisePkg_sec, State.modTide_sec, State.modBerth_sec]) | dsimp only | grind [State.raisePkg_sec, State.modTide_sec, State.modBerth_sec])

@[simp] theorem State.applyOffset_sec (s : State) (off : Int) : (State.applyOffset s off).sec = s.sec := by
  unfold State.applyOffset
  repeat' (first | with_reducible rfl | split | rw [foldl_sec] | intro _ _ | (simp only [State.modTide_sec, State.raisePkg_sec]) | dsimp only | grind [State.modTide_sec, State.raisePkg_sec])

@[simp] theorem State.exchange_sec (s : State) (b : Nat) (c : AlignCell) : (State.exchange s b c).sec = s.sec := by
  unfold State.exchange
  repeat' (first | with_reducible rfl | split | rw [foldl_sec] | intro _ _ | (simp only [State.modBerth_sec, State.modTide_sec, State.applyOffset_sec]) | dsimp only | grind [State.modBerth_sec, State.modTide_sec, State.applyOffset_sec])

@[simp] theorem State.answer_sec (s : State) (who : Nat) (ws : List U32) : (State.answer s who ws).sec = s.sec := by
  unfold State.answer
  repeat' (first | with_reducible rfl | split | rw [foldl_sec] | intro _ _ | (simp only [State.modMbox_sec]) | dsimp only | grind [State.modMbox_sec])

@[simp] theorem State.applyTideCfg_sec (s : State) : (State.applyTideCfg s).sec = s.sec := by
  unfold State.applyTideCfg
  repeat' (first | with_reducible rfl | split | rw [foldl_sec] | intro _ _ | (simp only [State.modTide_sec, State.enterHoldover_sec]) | dsimp only | grind [State.modTide_sec, State.enterHoldover_sec])

@[simp] theorem State.raiseBerth_sec (s : State) (b : Nat) (kind : Nat) (circuit : Nat) : (State.raiseBerth s b kind circuit).sec = s.sec := by
  unfold State.raiseBerth
  repeat' (first | with_reducible rfl | split | rw [foldl_sec] | intro _ _ | (simp only [State.raiseWith_sec]) | dsimp only | grind [State.raiseWith_sec])

@[simp] theorem State.cutOff_sec (s : State) (h : Half) (p : Pkt) : (State.cutOff s h p).sec = s.sec := by
  unfold State.cutOff
  repeat' (first | with_reducible rfl | split | rw [foldl_sec] | intro _ _ | (simp only [State.dropPkt_sec, State.stomp_sec]) | dsimp only | grind [State.dropPkt_sec, State.stomp_sec])

@[simp] theorem State.cutArrivals_sec (s : State) (b : Nat) : (State.cutArrivals s b).sec = s.sec := by
  unfold State.cutArrivals
  repeat' (first | with_reducible rfl | split | rw [foldl_sec] | intro _ _ | (simp only [State.cutOff_sec]) | dsimp only | grind [State.cutOff_sec])

@[simp] theorem State.dropQueued_sec (s : State) (b : Nat) : (State.dropQueued s b).sec = s.sec := by
  unfold State.dropQueued
  repeat' (first | with_reducible rfl | split | rw [foldl_sec] | intro _ _ | (simp only [State.dropCopy_sec, State.bwDrop_sec, State.dropPending_sec, State.freeCredit_sec, State.modHalf_sec]) | dsimp only | grind [State.dropCopy_sec, State.bwDrop_sec, State.dropPending_sec, State.freeCredit_sec, State.modHalf_sec])

@[simp] theorem State.noteDegraded_sec (s : State) : (State.noteDegraded s).sec = s.sec := by
  unfold State.noteDegraded
  repeat' (first | with_reducible rfl | split | rw [foldl_sec] | intro _ _ | (simp only [State.modBoot_sec]) | dsimp only | grind [State.modBoot_sec])

@[simp] theorem State.berthDown_sec (s : State) (b : Nat) : (State.berthDown s b).sec = s.sec := by
  unfold State.berthDown
  repeat' (first | with_reducible rfl | split | rw [foldl_sec] | intro _ _ | (simp only [State.bump_sec, State.bwDrop_sec, State.raisePkg_sec, State.modBerth_sec, State.noteDegraded_sec, State.resetCredits_sec, State.dropQueued_sec, State.cutArrivals_sec]) | dsimp only | grind [State.bump_sec, State.bwDrop_sec, State.raisePkg_sec, State.modBerth_sec, State.noteDegraded_sec, State.resetCredits_sec, State.dropQueued_sec, State.cutArrivals_sec])

@[simp] theorem State.downEvent_sec (s : State) (b : Nat) : (State.downEvent s b).sec = s.sec := by
  unfold State.downEvent
  repeat' (first | with_reducible rfl | split | rw [foldl_sec] | intro _ _ | (simp only [State.modBerth_sec, State.berthDown_sec]) | dsimp only | grind [State.modBerth_sec, State.berthDown_sec])

@[simp] theorem State.berthUp_sec (s : State) (b : Nat) : (State.berthUp s b).sec = s.sec := by
  unfold State.berthUp
  repeat' (first | with_reducible rfl | split | rw [foldl_sec] | intro _ _ | (simp only [State.modBerth_sec, State.resetCredits_sec, State.modOe_sec]) | dsimp only | grind [State.modBerth_sec, State.resetCredits_sec, State.modOe_sec])

@[simp] theorem State.failLane_sec (s : State) (b : Nat) (lane : Nat) : (State.failLane s b lane).sec = s.sec := by
  unfold State.failLane
  repeat' (first | with_reducible rfl | split | rw [foldl_sec] | intro _ _ | (simp only [State.modBerth_sec, State.modOe_sec, State.downEvent_sec, State.logRepair_sec, State.raiseBerth_sec]) | dsimp only | grind [State.modBerth_sec, State.modOe_sec, State.downEvent_sec, State.logRepair_sec, State.raiseBerth_sec])

@[simp] theorem State.switchLane_sec (s : State) (b : Nat) (r : SpareReq) : (State.switchLane s b r).sec = s.sec := by
  unfold State.switchLane
  repeat' (first | with_reducible rfl | split | rw [foldl_sec] | intro _ _ | (simp only [State.modBerth_sec, State.logRepair_sec, State.raisePkg_sec]) | dsimp only | grind [State.modBerth_sec, State.logRepair_sec, State.raisePkg_sec])

@[simp] theorem State.spareSet_sec (s : State) (b : Nat) (lane : Nat) (spare : Nat) (at_ : BitVec 7) (ack : Bool) : (State.spareSet s b lane spare at_ ack).sec = s.sec := by
  unfold State.spareSet
  repeat' (first | with_reducible rfl | split | rw [foldl_sec] | intro _ _ | (simp only [State.modBerth_sec]) | dsimp only | grind [State.modBerth_sec])

@[simp] theorem State.txRound_sec (s : State) (b : Nat) : (State.txRound s b).sec = s.sec := by
  unfold State.txRound
  cases hr : (s.berth b).spareReq <;> simp only [hr, apply_ite State.sec, State.modBerth_sec, State.count_sec, ite_self]

@[simp] theorem State.linkNak_sec (s : State) (b : Nat) (point : BitVec 10) : (State.linkNak s b point).sec = s.sec := by
  unfold State.linkNak
  repeat' (first | with_reducible rfl | split | rw [foldl_sec] | intro _ _ | (simp only [State.modBerth_sec, State.downEvent_sec, State.raiseBerth_sec]) | dsimp only | grind [State.modBerth_sec, State.downEvent_sec, State.raiseBerth_sec])

@[simp] theorem State.sendNak_sec (s : State) (b : Nat) : (State.sendNak s b).sec = s.sec := by
  unfold State.sendNak
  repeat' (first | with_reducible rfl | split | rw [foldl_sec] | intro _ _ | (simp only [State.modBerth_sec, State.bump_sec, State.sendLocal_sec]) | dsimp only | grind [State.modBerth_sec, State.bump_sec, State.sendLocal_sec])

@[simp] theorem State.startRetry_sec (s : State) (b : Nat) : (State.startRetry s b).sec = s.sec := by
  unfold State.startRetry
  repeat' (first | with_reducible rfl | split | rw [foldl_sec] | intro _ _ | (simp only [State.modBerth_sec, State.sendNak_sec]) | dsimp only | grind [State.modBerth_sec, State.sendNak_sec])

@[simp] theorem State.rxCell_sec (s : State) (b : Nat) (bytes : List Byte) : (State.rxCell s b bytes).sec = s.sec := by
  unfold State.rxCell
  repeat' (first | with_reducible rfl | split | rw [foldl_sec] | intro _ _ | (simp only [State.modBerth_sec, State.startRetry_sec, State.checkCell_sec, State.bump_sec]) | dsimp only | grind [State.modBerth_sec, State.startRetry_sec, State.checkCell_sec, State.bump_sec])

@[simp] theorem State.countLoop_sec (s : State) (b : Nat) (r : Round) : (State.countLoop s b r).sec = s.sec := by
  unfold State.countLoop
  repeat' (first | with_reducible rfl | split | rw [foldl_sec] | intro _ _ | (simp only [State.modBerth_sec, State.freeIx_sec]) | dsimp only | grind [State.modBerth_sec, State.freeIx_sec])

@[simp] theorem State.countRound_sec (s : State) (b : Nat) (r : Round) : (State.countRound s b r).sec = s.sec := by
  unfold State.countRound
  repeat' (first | with_reducible rfl | split | rw [foldl_sec] | intro _ _ | (simp only [State.countLoop_sec, State.count_sec, State.bump_sec, State.modBerth_sec]) | dsimp only | grind [State.countLoop_sec, State.count_sec, State.bump_sec, State.modBerth_sec])

@[simp] theorem State.rxData_sec (s : State) (b : Nat) (r : Round) : (State.rxData s b r).sec = s.sec := by
  unfold State.rxData
  repeat' (first | with_reducible rfl | split | rw [foldl_sec] | intro _ _ | (simp only [State.modBerth_sec, State.startRetry_sec, State.rxCell_sec]) | dsimp only | grind [State.modBerth_sec, State.startRetry_sec, State.rxCell_sec])

@[simp] theorem State.rxTrain_sec (s : State) (b : Nat) (state : Byte) : (State.rxTrain s b state).sec = s.sec := by
  unfold State.rxTrain
  repeat' (first | with_reducible rfl | split | rw [foldl_sec] | intro _ _ | (simp only [State.modBerth_sec, State.berthUp_sec, State.switchLane_sec]) | dsimp only | grind [State.modBerth_sec, State.berthUp_sec, State.switchLane_sec])

@[simp] theorem State.notBreakwater_sec (s : State) (b : Nat) : (State.notBreakwater s b).sec = s.sec := by
  unfold State.notBreakwater
  repeat' (first | with_reducible rfl | split | rw [foldl_sec] | intro _ _ | (simp only [State.modBerth_sec]) | dsimp only | grind [State.modBerth_sec])

@[simp] theorem State.rxBreakwater_sec (s : State) (b : Nat) : (State.rxBreakwater s b).sec = s.sec := by
  unfold State.rxBreakwater
  repeat' (first | with_reducible rfl | split | rw [foldl_sec] | intro _ _ | (simp only [State.modBerth_sec, State.downEvent_sec]) | dsimp only | grind [State.modBerth_sec, State.downEvent_sec])

@[simp] theorem State.rxDoze_sec (s : State) (b : Nat) (ack : Bool) : (State.rxDoze s b ack).sec = s.sec := by
  unfold State.rxDoze
  repeat' (first | with_reducible rfl | split | rw [foldl_sec] | intro _ _ | (simp only [State.modBerth_sec]) | dsimp only | grind [State.modBerth_sec])

@[simp] theorem State.rxWake_sec (s : State) (b : Nat) : (State.rxWake s b).sec = s.sec := by
  unfold State.rxWake
  repeat' (first | with_reducible rfl | split | rw [foldl_sec] | intro _ _ | (simp only [State.modBerth_sec]) | dsimp only | grind [State.modBerth_sec])

@[simp] theorem State.rxLoop_sec (s : State) (b : Nat) (enter : Bool) : (State.rxLoop s b enter).sec = s.sec := by
  unfold State.rxLoop
  repeat' (first | with_reducible rfl | split | rw [foldl_sec] | intro _ _ | (simp only [State.modBerth_sec]) | dsimp only | grind [State.modBerth_sec])

@[simp] theorem State.rxSet_sec (s : State) (b : Nat) (type : Nat) (f : List Byte) : (State.rxSet s b type f).sec = s.sec := by
  unfold State.rxSet
  repeat' (first | with_reducible rfl | split | rw [foldl_sec] | intro _ _ | (simp only [State.rxTrain_sec, State.rxDoze_sec, State.rxWake_sec, State.spareSet_sec, State.rxLoop_sec]) | dsimp only | grind [State.rxTrain_sec, State.rxDoze_sec, State.rxWake_sec, State.spareSet_sec, State.rxLoop_sec])

@[simp] theorem State.rxRound_sec (s : State) (b : Nat) (r : Round) : (State.rxRound s b r).sec = s.sec := by
  unfold State.rxRound
  repeat' (first | with_reducible rfl | split | rw [foldl_sec] | intro _ _ | (simp only [State.countRound_sec, State.modBerth_sec, State.startRetry_sec, State.notBreakwater_sec, State.bwDrop_sec, State.rxData_sec, State.rxBreakwater_sec, State.rxSet_sec]) | dsimp only | grind [State.countRound_sec, State.modBerth_sec, State.startRetry_sec, State.notBreakwater_sec, State.bwDrop_sec, State.rxData_sec, State.rxBreakwater_sec, State.rxSet_sec])

@[simp] theorem State.laneHealth_sec (s : State) (b : Nat) : (State.laneHealth s b).sec = s.sec := by
  unfold State.laneHealth
  repeat' (first | with_reducible rfl | split | rw [foldl_sec] | intro _ _ | (simp only [State.modBerth_sec, State.raisePkg_sec, State.failLane_sec]) | dsimp only | grind [State.modBerth_sec, State.raisePkg_sec, State.failLane_sec])

@[simp] theorem State.bundleMissing_sec (s : State) (b : Nat) : (State.bundleMissing s b).sec = s.sec := by
  unfold State.bundleMissing
  repeat' (first | with_reducible rfl | split | rw [foldl_sec] | intro _ _ | (simp only [State.modChart_sec]) | dsimp only | grind [State.modChart_sec])

@[simp] theorem State.setOutcome_sec (s : State) (b : Nat) (o : BitVec 3) : (State.setOutcome s b o).sec = s.sec := by
  unfold State.setOutcome
  repeat' (first | with_reducible rfl | split | rw [foldl_sec] | intro _ _ | (simp only [State.modBerth_sec, State.raisePkg_sec, State.dropQueued_sec, State.noteDegraded_sec, State.bundleMissing_sec]) | dsimp only | grind [State.modBerth_sec, State.raisePkg_sec, State.dropQueued_sec, State.noteDegraded_sec, State.bundleMissing_sec])

@[simp] theorem State.lostAtBridge_sec (s : State) (h : Half) (origin : Option Nat) (input : Nat) (vc : Nat) : (State.lostAtBridge s h origin input vc).sec = s.sec := by
  unfold State.lostAtBridge
  repeat' (first | with_reducible rfl | split | rw [foldl_sec] | intro _ _ | (simp only [State.bump_sec]) | dsimp only | grind [State.bump_sec])

@[simp] theorem State.bridgeGone_sec (s : State) (h : Half) (gone : Nat → Bool) : (State.bridgeGone s h gone).sec = s.sec := by
  unfold State.bridgeGone
  repeat' (first | with_reducible rfl | split | rw [foldl_sec] | intro _ _ | (simp only [State.dropPending_sec, State.lostAtBridge_sec, State.dropCopy_sec, State.freeCredit_sec, State.modHalf_sec, State.cutOff_sec]) | dsimp only | grind [State.dropPending_sec, State.lostAtBridge_sec, State.dropCopy_sec, State.freeCredit_sec, State.modHalf_sec, State.cutOff_sec])

@[simp] theorem State.drainBridge_sec (s : State) (h : Half) : (State.drainBridge s h).sec = s.sec := by
  unfold State.drainBridge
  repeat' (first | with_reducible rfl | split | rw [foldl_sec] | intro _ _ | (simp only [State.dropCopy_sec, State.toBridge_sec, State.moveCtrl_sec]) | dsimp only | grind [State.dropCopy_sec, State.toBridge_sec, State.moveCtrl_sec])

@[simp] theorem State.reaim_sec (s : State) (h : Half) : (State.reaim s h).sec = s.sec := by
  unfold State.reaim
  repeat' (first | with_reducible rfl | split | rw [foldl_sec] | intro _ _ | (simp only [State.bridgeGone_sec, State.modHalf_sec]) | dsimp only | grind [State.bridgeGone_sec, State.modHalf_sec])

@[simp] theorem State.bridgeLeave_sec (s : State) : (State.bridgeLeave s).sec = s.sec := by
  unfold State.bridgeLeave
  repeat' (first | with_reducible rfl | split | rw [foldl_sec] | intro _ _ | (simp only [State.drainBridge_sec, State.modHalves_sec, State.reaim_sec]) | dsimp only | grind [State.drainBridge_sec, State.modHalves_sec, State.reaim_sec])

@[simp] theorem State.hwFault_sec (s : State) (x1 : HwFault) : (State.hwFault s x1).sec = s.sec := by
  unfold State.hwFault
  repeat' (first | with_reducible rfl | split | rw [foldl_sec] | intro _ _ | (simp only [State.raiseLine_sec, State.raisePkg_sec, State.raiseWith_sec, State.tileFault_sec, State.modStream_sec, State.dropPkt_sec, State.askAbort_sec]) | dsimp only | grind [State.raiseLine_sec, State.raisePkg_sec, State.raiseWith_sec, State.tileFault_sec, State.modStream_sec, State.dropPkt_sec, State.askAbort_sec])

@[simp] theorem State.enterBerth_sec (s : State) (b : Nat) : (State.enterBerth s b).sec = s.sec := by
  unfold State.enterBerth
  repeat' (first | with_reducible rfl | split | rw [foldl_sec] | intro _ _ | (simp only [State.modBerth_sec, State.berthDown_sec]) | dsimp only | grind [State.modBerth_sec, State.berthDown_sec])

@[simp] theorem State.stopHalf_sec (s : State) (h : Half) : (State.stopHalf s h).sec = s.sec := by
  unfold State.stopHalf
  repeat' (first | with_reducible rfl | split | rw [foldl_sec] | intro _ _ | (simp only [State.enterBerth_sec, State.modTile_sec, State.askAbort_sec]) | dsimp only | grind [State.enterBerth_sec, State.modTile_sec, State.askAbort_sec])

@[simp] theorem State.enterSafe_sec (s : State) (src : Nat) (action : Nat) (c : BwScope) : (State.enterSafe s src action c).sec = s.sec := by
  unfold State.enterSafe
  repeat' (first | with_reducible rfl | split | rw [foldl_sec] | intro _ _ | (simp only [State.modFault_sec, State.modBerth_sec, State.enterBerth_sec, State.modHalf_sec, State.stopHalf_sec]) | dsimp only | grind [State.modFault_sec, State.modBerth_sec, State.enterBerth_sec, State.modHalf_sec, State.stopHalf_sec])

@[simp] theorem State.withdrawEngine_sec (s : State) (h : Half) (phys : Nat) (tile : Nat) : (State.withdrawEngine s h phys tile).sec = s.sec := by
  unfold State.withdrawEngine
  repeat' (first | with_reducible rfl | split | rw [foldl_sec] | intro _ _ | (simp only [State.withdrawDone_sec, State.modTile_sec, State.modHalf_sec, State.askAbort_sec]) | dsimp only | grind [State.withdrawDone_sec, State.modTile_sec, State.modHalf_sec, State.askAbort_sec])

@[simp] theorem State.withdrawStack_sec (s : State) (src : Nat) : (State.withdrawStack s src).sec = s.sec := by
  unfold State.withdrawStack
  repeat' (first | with_reducible rfl | split | rw [foldl_sec] | intro _ _ | (simp only [State.modFault_sec, State.withdrawDone_sec]) | dsimp only | grind [State.modFault_sec, State.withdrawDone_sec])

@[simp] theorem State.act_sec (s : State) (src : Nat) (action : Nat) (d : U64) : (State.act s src action d).sec = s.sec := by
  unfold State.act
  repeat' (first | with_reducible rfl | split | rw [foldl_sec] | intro _ _ | (simp only [State.withdrawEngine_sec, State.withdrawStack_sec, State.enterSafe_sec, State.modFault_sec]) | dsimp only | grind [State.withdrawEngine_sec, State.withdrawStack_sec, State.enterSafe_sec, State.modFault_sec])

@[simp] theorem State.sourceEvent_sec (s : State) (src : Nat) : (State.sourceEvent s src).sec = s.sec := by
  unfold State.sourceEvent
  repeat' (first | with_reducible rfl | split | rw [foldl_sec] | intro _ _ | (simp only [State.modFault_sec, State.act_sec]) | dsimp only | grind [State.modFault_sec, State.act_sec])

@[simp] theorem State.closeRecs_sec (s : State) : (State.closeRecs s).sec = s.sec := by
  unfold State.closeRecs
  repeat' (first | with_reducible rfl | split | rw [foldl_sec] | intro _ _ | (simp only [State.modFault_sec]) | dsimp only | grind [State.modFault_sec])

@[simp] theorem State.latchLines_sec (s : State) : (State.latchLines s).sec = s.sec := by
  unfold State.latchLines
  repeat' (first | with_reducible rfl | split | rw [foldl_sec] | intro _ _ | (simp only [State.modHalves_sec, State.modFault_sec]) | dsimp only | grind [State.modHalves_sec, State.modFault_sec])

@[simp] theorem State.exitSafe_sec (s : State) (scope : Nat) (index : Nat) : (State.exitSafe s scope index).sec = s.sec := by
  unfold State.exitSafe
  repeat' (first | with_reducible rfl | split | rw [foldl_sec] | intro _ _ | (simp only [State.modBerth_sec, State.modHalf_sec, State.modFault_sec]) | dsimp only | grind [State.modBerth_sec, State.modHalf_sec, State.modFault_sec])

@[simp] theorem State.classifyAll_sec (s : State) : (State.classifyAll s).sec = s.sec := by
  unfold State.classifyAll
  repeat' (first | with_reducible rfl | split | rw [foldl_sec] | intro _ _ | (simp only [State.modFault_sec, State.exitSafe_sec, State.sourceEvent_sec, State.enterSafe_sec, State.closeRecs_sec]) | dsimp only | grind [State.modFault_sec, State.exitSafe_sec, State.sourceEvent_sec, State.enterSafe_sec, State.closeRecs_sec])

@[simp] theorem State.forceSafe_sec (s : State) (who : BitVec 4) (bit : Nat) : (State.forceSafe s who bit).sec = s.sec := by
  unfold State.forceSafe
  repeat' (first | with_reducible rfl | split | rw [foldl_sec] | intro _ _ | (simp only [State.modFault_sec]) | dsimp only | grind [State.modFault_sec])

@[simp] theorem State.noteTemp_sec (s : State) (sensor : Nat) (celsius : Nat) : (State.noteTemp s sensor celsius).sec = s.sec := by
  unfold State.noteTemp
  repeat' (first | with_reducible rfl | split | rw [foldl_sec] | intro _ _ | (simp only [State.modFault_sec]) | dsimp only | grind [State.modFault_sec])

@[simp] theorem State.fenceOn_sec (s : State) (o : FenceObj) : (State.fenceOn s o).sec = s.sec := by
  unfold State.fenceOn
  repeat' (first | with_reducible rfl | split | rw [foldl_sec] | intro _ _ | (simp only [State.drainEngine_sec, State.modBerth_sec, State.modJob_sec, State.dropGather_sec]) | dsimp only | grind [State.drainEngine_sec, State.modBerth_sec, State.modJob_sec, State.dropGather_sec])

@[simp] theorem State.fenceOff_sec (s : State) (o : FenceObj) : (State.fenceOff s o).sec = s.sec := by
  unfold State.fenceOff
  repeat' (first | with_reducible rfl | split | rw [foldl_sec] | intro _ _ | (simp only [State.modBerth_sec, State.modJob_sec]) | dsimp only | grind [State.modBerth_sec, State.modJob_sec])

@[simp] theorem State.fencesAt_sec (s : State) : (State.fencesAt s).sec = s.sec := by
  unfold State.fencesAt
  repeat' (first | with_reducible rfl | split | rw [foldl_sec] | intro _ _ | (simp only [State.fenceOn_sec, State.modFault_sec, State.finishWait_sec, State.fenceOff_sec]) | dsimp only | grind [State.fenceOn_sec, State.modFault_sec, State.finishWait_sec, State.fenceOff_sec])

@[simp] theorem State.mirrorLanes_sec (s : State) : (State.mirrorLanes s).sec = s.sec := by
  unfold State.mirrorLanes
  repeat' (first | with_reducible rfl | split | rw [foldl_sec] | intro _ _ | (fail) | dsimp only | grind [])

@[simp] theorem State.readTideLo_sec (s : State) : (State.readTideLo s).1.sec = s.sec := by
  unfold State.readTideLo
  repeat' (first | with_reducible rfl | split | rw [foldl_sec] | intro _ _ | (simp only [State.freeIx_sec, State.modTide_sec]) | dsimp only | grind [State.freeIx_sec, State.modTide_sec])

@[simp] theorem State.readReg_sec (s : State) (who : BitVec 4) (off : Nat) : (State.readReg s who off).1.sec = s.sec := by
  unfold State.readReg
  repeat' (first | with_reducible rfl | split | rw [foldl_sec] | intro _ _ | (simp only [State.readTideLo_sec, State.modHalf_sec, State.modFault_sec]) | dsimp only | grind [State.readTideLo_sec, State.modHalf_sec, State.modFault_sec])

@[simp] theorem State.writeCtrl_sec (s : State) (who : BitVec 4) (ch : Nat) (v : U32) : (State.writeCtrl s who ch v).1.sec = s.sec := by
  unfold State.writeCtrl
  repeat' (first | with_reducible rfl | split | rw [foldl_sec] | intro _ _ | (simp only [State.modChan_sec]) | dsimp only | grind [State.modChan_sec])

@[simp] theorem State.writeSlot_sec (s : State) (who : BitVec 4) (ch : Nat) (off : Nat) (bs : List Byte) : (State.writeSlot s who ch off bs).1.sec = s.sec := by
  unfold State.writeSlot
  repeat' (first | with_reducible rfl | split | rw [foldl_sec] | intro _ _ | (simp only [State.modChan_sec, State.modMbox_sec]) | dsimp only | grind [State.modChan_sec, State.modMbox_sec])

@[simp] theorem State.writePriv_sec (s : State) (who : BitVec 4) (o : Nat) (v : U32) : (State.writePriv s who o v).sec = s.sec := by
  unfold State.writePriv
  simp only [apply_ite State.sec, State.modHalf_sec, State.modTide_sec, State.modFault_sec, State.forceSafe_sec, State.modBerth_sec, State.modOe_sec, ite_self]
  repeat' (first | with_reducible rfl | split | rw [foldl_sec] | intro _ _ | (simp only [State.modHalf_sec, State.modTide_sec, State.modFault_sec, State.forceSafe_sec, State.modBerth_sec, State.modOe_sec]) | dsimp only)

@[simp] theorem State.writeReg_sec (s : State) (who : BitVec 4) (off : Nat) (v : U32) : (State.writeReg s who off v).1.sec = s.sec := by
  unfold State.writeReg
  dsimp only
  simp only [apply_ite Prod.fst, apply_ite State.sec, State.writeSlot_sec, State.writeCtrl_sec, State.receiverReset_sec, State.writePriv_sec, ite_self]

@[simp] theorem State.busError_sec (s : State) (who : BitVec 4) (rejected : Bool) : (State.busError s who rejected).sec = s.sec := by
  unfold State.busError
  repeat' (first | with_reducible rfl | split | rw [foldl_sec] | intro _ _ | (simp only [State.modMbox_sec]) | dsimp only | grind [State.modMbox_sec])

@[simp] theorem State.landWrites_sec (s : State) : (State.landWrites s).sec = s.sec := by
  unfold State.landWrites
  repeat' (first | with_reducible rfl | split | rw [foldl_sec] | intro _ _ | (simp only [State.noteRewrite_sec, State.holdWrite_sec, State.modQuay_sec, State.modMbox_sec]) | dsimp only | grind [State.noteRewrite_sec, State.holdWrite_sec, State.modQuay_sec, State.modMbox_sec])

@[simp] theorem State.landWrite_sec (s : State) (x1 : Xfer) : (State.landWrite s x1).sec = s.sec := by
  unfold State.landWrite
  repeat' (first | with_reducible rfl | split | rw [foldl_sec] | intro _ _ | (simp only [State.modMbox_sec, State.landWrites_sec]) | dsimp only | grind [State.modMbox_sec, State.landWrites_sec])

@[simp] theorem State.ethArrive_sec (s : State) (b : Nat) (payload : List Byte) : (State.ethArrive s b payload).sec = s.sec := by
  unfold State.ethArrive
  repeat' (first | with_reducible rfl | split | rw [foldl_sec] | intro _ _ | (simp only [State.bump_sec, State.policePkt_sec, State.fresh_sec, State.modHalf_sec, State.storeCheck_sec, State.letIn_sec, State.addCopies_sec]) | dsimp only | grind [State.bump_sec, State.policePkt_sec, State.fresh_sec, State.modHalf_sec, State.storeCheck_sec, State.letIn_sec, State.addCopies_sec])

@[simp] theorem State.slotDone_sec (s : State) (f : Nat) (vc : Nat) (cells : Nat) : (State.slotDone s f vc cells).sec = s.sec := by
  unfold State.slotDone
  repeat' (first | with_reducible rfl | split | rw [foldl_sec] | intro _ _ | (simp only [State.modPort_sec]) | dsimp only | grind [State.modPort_sec])

@[simp] theorem State.dropHostWrites_sec (s : State) (fs : Nat → Bool) : (State.dropHostWrites s fs).sec = s.sec := by
  unfold State.dropHostWrites
  repeat' (first | with_reducible rfl | split | rw [foldl_sec] | intro _ _ | (simp only [State.dropCopy_sec, State.bump_sec]) | dsimp only | grind [State.dropCopy_sec, State.bump_sec])

@[simp] theorem State.hostPortDown_sec (s : State) : (State.hostPortDown s).sec = s.sec := by
  unfold State.hostPortDown
  dsimp only
  rw [State.modBoot_sec, State.modPort_sec, foldl_sec, State.dropHostWrites_sec]
  intro _ _
  rw [State.receiverReset_sec]

@[simp] theorem State.writeWords_sec (s : State) (who : BitVec 4) (x2 : Nat) (x3 : List (List Byte)) : (State.writeWords s who x2 x3).1.sec = s.sec := by
  induction x3 generalizing s x2 with
  | nil => rfl
  | cons w ws ih =>
    unfold State.writeWords
    simp only [ih, State.writeReg_sec]

@[simp] theorem State.readWords_sec (s : State) (who : BitVec 4) (x2 : Nat) (x3 : Nat) : (State.readWords s who x2 x3).1.sec = s.sec := by
  induction x3 generalizing s x2 with
  | zero => rfl
  | succ n ih =>
    unfold State.readWords
    simp only [ih, State.readReg_sec]

@[simp] theorem State.rgmii_sec (s : State) (r : BusResp) : (State.rgmii s r).sec = s.sec := by
  unfold State.rgmii
  repeat' (first | with_reducible rfl | split | rw [foldl_sec] | intro _ _ | (simp only [State.modMbox_sec]) | dsimp only | grind [State.modMbox_sec])

@[simp] theorem State.peekWord_sec (s : State) (h : Half) (off : Nat) : (State.peekWord s h off).2.sec = s.sec := by
  unfold State.peekWord
  repeat' (first | with_reducible rfl | split | rw [foldl_sec] | intro _ _ | (fail) | dsimp only | grind [])

@[simp] theorem State.spdmAnswer_sec (s : State) (p : SpdmPort) (r : BusResp) : (State.spdmAnswer s p r).sec = s.sec := by
  unfold State.spdmAnswer
  repeat' (first | with_reducible rfl | split | rw [foldl_sec] | intro _ _ | (simp only [State.rgmii_sec]) | dsimp only | grind [State.rgmii_sec])

@[simp] theorem State.tapShift_sec (s : State) (ir : Byte) (out : List Bool) : (State.tapShift s ir out).sec = s.sec := by
  unfold State.tapShift
  repeat' (first | with_reducible rfl | split | rw [foldl_sec] | intro _ _ | (simp only [State.modTap_sec]) | dsimp only | grind [State.modTap_sec])

@[simp] theorem State.capture_sec (s : State) (n : Nat) : (State.capture s n).2.sec = s.sec := by
  unfold State.capture
  repeat' (first | with_reducible rfl | split | rw [foldl_sec] | intro _ _ | (simp only [State.freeIx_sec]) | dsimp only | grind [State.freeIx_sec])

@[simp] theorem State.tapFree_sec (s : State) (ir : Byte) : (State.tapFree s ir).sec = s.sec := by
  unfold State.tapFree
  repeat' (first | with_reducible rfl | split | rw [foldl_sec] | intro _ _ | (simp only [State.freeIx_sec, State.tapShift_sec]) | dsimp only | grind [State.freeIx_sec, State.tapShift_sec])

@[simp] theorem State.destroyKeys_sec (s : State) (j : Nat) : (State.destroyKeys s j).sec = s.sec := by
  unfold State.destroyKeys
  repeat' (first | with_reducible rfl | split | rw [foldl_sec] | intro _ _ | (simp only [State.modJob_sec]) | dsimp only | grind [State.modJob_sec])

@[simp] theorem State.zeroFree_sec (s : State) (z : ZeroSt) : (State.zeroFree s z).sec = s.sec := by
  unfold State.zeroFree
  repeat' (first | with_reducible rfl | split | rw [foldl_sec] | intro _ _ | (simp only [State.modHalves_sec, State.modJob_sec]) | dsimp only | grind [State.modHalves_sec, State.modJob_sec])

@[simp] theorem State.zeroFill_sec (s : State) (z : ZeroSt) : (State.zeroFill s z).sec = s.sec := by
  unfold State.zeroFill
  repeat' (first | with_reducible rfl | split | rw [foldl_sec] | intro _ _ | (fail) | dsimp only | grind [])

@[simp] theorem State.zeroUnfence_sec (s : State) (z : ZeroSt) : (State.zeroUnfence s z).sec = s.sec := by
  unfold State.zeroUnfence
  repeat' (first | with_reducible rfl | split | rw [foldl_sec] | intro _ _ | (simp only [State.fenceOff_sec, State.modFault_sec]) | dsimp only | grind [State.fenceOff_sec, State.modFault_sec])

@[simp] theorem State.finishAt_sec (s : State) (w : Await) : (State.finishAt s w).sec = s.sec := by
  unfold State.finishAt
  repeat' (first | with_reducible rfl | split | rw [foldl_sec] | intro _ _ | (simp only [State.finishWait_sec, State.modMbox_sec]) | dsimp only | grind [State.finishWait_sec, State.modMbox_sec])

@[simp] theorem State.replyTo_sec (s : State) (u : Uci) (code : Nat) (d : Done) (accept : TideNo) : (State.replyTo s u code d accept).sec = s.sec := by
  unfold State.replyTo
  repeat' (first | with_reducible rfl | split | rw [foldl_sec] | intro _ _ | (simp only [State.pushReply_sec, State.modMbox_sec]) | dsimp only | grind [State.pushReply_sec, State.modMbox_sec])

@[simp] theorem State.pin_sec (s : State) (n : Nat) (on : Bool) : (State.pin s n on).sec = s.sec := by
  unfold State.pin
  repeat' (first | with_reducible rfl | split | rw [foldl_sec] | intro _ _ | (simp only [State.modHalves_sec]) | dsimp only | grind [State.modHalves_sec])

@[simp] theorem State.armAll_sec (s : State) (t : TideNo) (x2 : List Nat) : (State.armAll s t x2).2.sec = s.sec := by
  induction x2 generalizing s with
  | nil => rfl
  | cons n ns ih =>
    unfold State.armAll
    simp only [ih, State.modStream_sec]

@[simp] theorem State.modChartSlot_sec (s : State) (e : Bool) (f : Chart → Chart) : (State.modChartSlot s e f).sec = s.sec := by
  unfold State.modChartSlot
  repeat' (first | with_reducible rfl | split | rw [foldl_sec] | intro _ _ | (simp only [State.modChart_sec]) | dsimp only | grind [State.modChart_sec])

@[simp] theorem State.chartSet_sec (s : State) (sec : Nat) (i : Nat) (entries : List Byte) : (State.chartSet s sec i entries).sec = s.sec := by
  unfold State.chartSet
  repeat' (first | with_reducible rfl | split | rw [foldl_sec] | intro _ _ | (simp only [State.modChart_sec, State.modChartSlot_sec]) | dsimp only | grind [State.modChart_sec, State.modChartSlot_sec])

@[simp] theorem State.liftQ_sec (s : State) (b : Nat) : (State.liftQ s b).sec = s.sec := by
  unfold State.liftQ
  repeat' (first | with_reducible rfl | split | rw [foldl_sec] | intro _ _ | (simp only [State.modBerth_sec]) | dsimp only | grind [State.modBerth_sec])

@[simp] theorem State.liftB_sec (s : State) (i : Nat) : (State.liftB s i).sec = s.sec := by
  unfold State.liftB
  repeat' (first | with_reducible rfl | split | rw [foldl_sec] | intro _ _ | (simp only [State.modChart_sec]) | dsimp only | grind [State.modChart_sec])

@[simp] theorem State.tmSet_sec (s : State) (h : Half) (sec : Nat) (i : Nat) (entries : List Byte) : (State.tmSet s h sec i entries).sec = s.sec := by
  unfold State.tmSet
  repeat' (first | with_reducible rfl | split | rw [foldl_sec] | intro _ _ | (simp only [State.modHalf_sec]) | dsimp only | grind [State.modHalf_sec])

@[simp] theorem State.ethUp_sec (s : State) (b : Nat) : (State.ethUp s b).sec = s.sec := by
  unfold State.ethUp
  repeat' (first | with_reducible rfl | split | rw [foldl_sec] | intro _ _ | (simp only [State.modBerth_sec]) | dsimp only | grind [State.modBerth_sec])

@[simp] theorem State.bootFail_sec (s : State) (code : Nat) : (State.bootFail s code).sec = s.sec := by
  unfold State.bootFail
  repeat' (first | with_reducible rfl | split | rw [foldl_sec] | intro _ _ | (simp only [State.modFault_sec, State.modBoot_sec]) | dsimp only | grind [State.modFault_sec, State.modBoot_sec])

@[simp] theorem State.clearHalf_sec (s : State) (h : Half) (restart : Nat) : (State.clearHalf s h restart).sec = s.sec := by
  unfold State.clearHalf
  repeat' (first | with_reducible rfl | split | rw [foldl_sec] | intro _ _ | (simp only [State.modHalf_sec]) | dsimp only | grind [State.modHalf_sec])

@[simp] theorem State.buildPool_sec (s : State) (h : Half) : (State.buildPool s h).sec = s.sec := by
  unfold State.buildPool
  repeat' (first | with_reducible rfl | split | rw [foldl_sec] | intro _ _ | (simp only [State.buildStore_sec, State.modHalf_sec, State.clearHalf_sec, State.bootFail_sec, State.modBoot_sec]) | dsimp only | grind [State.buildStore_sec, State.modHalf_sec, State.clearHalf_sec, State.bootFail_sec, State.modBoot_sec])

@[simp] theorem State.setLaneState_sec (s : State) (target : Nat) (state : Nat) (dozeDelay : Nat) : (State.setLaneState s target state dozeDelay).sec = s.sec := by
  unfold State.setLaneState
  repeat' (first | with_reducible rfl | split | rw [foldl_sec] | intro _ _ | (simp only [State.modBerth_sec, State.downEvent_sec, State.modOe_sec]) | dsimp only | grind [State.modBerth_sec, State.downEvent_sec, State.modOe_sec])

@[simp] theorem State.setLoop_sec (s : State) (b : Nat) (kind : Nat) (pattern : Nat) : (State.setLoop s b kind pattern).sec = s.sec := by
  unfold State.setLoop
  repeat' (first | with_reducible rfl | split | rw [foldl_sec] | intro _ _ | (simp only [State.modBerth_sec]) | dsimp only | grind [State.modBerth_sec])

@[simp] theorem State.applyLane_sec (s : State) (c : LaneCmd) : (State.applyLane s c).sec = s.sec := by
  unfold State.applyLane
  repeat' (first | with_reducible rfl | split | rw [foldl_sec] | intro _ _ | (simp only [State.setLaneState_sec, State.setLoop_sec]) | dsimp only | grind [State.setLaneState_sec, State.setLoop_sec])

@[simp] theorem State.askLane_sec (s : State) (c : LaneCmd) : (State.askLane s c).sec = s.sec := by
  unfold State.askLane
  repeat' (first | with_reducible rfl | split | rw [foldl_sec] | intro _ _ | (simp only [State.modMbox_sec, State.applyLane_sec]) | dsimp only | grind [State.modMbox_sec, State.applyLane_sec])

@[simp] theorem State.lanesAt_sec (s : State) : (State.lanesAt s).sec = s.sec := by
  unfold State.lanesAt
  repeat' (first | with_reducible rfl | split | rw [foldl_sec] | intro _ _ | (simp only [State.applyLane_sec, State.modMbox_sec]) | dsimp only | grind [State.applyLane_sec, State.modMbox_sec])

@[simp] theorem State.toStage_sec (s : State) (n : Nat) : (State.toStage s n).sec = s.sec := by
  unfold State.toStage
  repeat' (first | with_reducible rfl | split | rw [foldl_sec] | intro _ _ | (simp only [State.modBoot_sec]) | dsimp only | grind [State.modBoot_sec])

@[simp] theorem State.applyBlock_sec (s : State) : (State.applyBlock s).sec = s.sec := by
  unfold State.applyBlock
  repeat' (first | with_reducible rfl | split | rw [foldl_sec] | intro _ _ | (simp only [State.chartSet_sec, State.tmSet_sec, State.modTide_sec, State.modHalf_sec]) | dsimp only | grind [State.chartSet_sec, State.tmSet_sec, State.modTide_sec, State.modHalf_sec])

@[simp] theorem State.enterEarly_sec (s : State) : (State.enterEarly s).sec = s.sec := by
  unfold State.enterEarly
  repeat' (first | with_reducible rfl | split | rw [foldl_sec] | intro _ _ | (simp only [State.modBoot_sec, State.modFault_sec]) | dsimp only | grind [State.modBoot_sec, State.modFault_sec])

@[simp] theorem State.addPrefetch_sec (s : State) (p : Prefetch) : (State.addPrefetch s p).sec = s.sec := by
  unfold State.addPrefetch
  repeat' (first | with_reducible rfl | split | rw [foldl_sec] | intro _ _ | (fail) | dsimp only | grind [])

@[simp] theorem State.prefetchRange_sec (s : State) (job : Nat) (v : TideNo) (group : U16) (acc : List (Nat × Nat × Nat)) (r : Nat × Nat × Nat) : (State.prefetchRange s job v group acc r).2.sec = s.sec := by
  unfold State.prefetchRange
  repeat' (first | with_reducible rfl | split | rw [foldl_sec] | intro _ _ | (simp only [State.gatherUp_sec, State.fresh_sec, State.countRefused_sec]) | dsimp only | grind [State.gatherUp_sec, State.fresh_sec, State.countRefused_sec])

@[simp] theorem State.startXfer_sec (s : State) (x1 : Xfer) : (State.startXfer s x1).st.sec = s.sec := by
  unfold State.startXfer
  repeat' (first | with_reducible rfl | split | rw [foldl_sec] | intro _ _ | (simp only [State.fresh_sec, State.modMbox_sec]) | dsimp only | grind [State.fresh_sec, State.modMbox_sec])

@[simp] theorem State.askSpare_sec (s : State) (b : Nat) (lane : Nat) : (State.askSpare s b lane).sec = s.sec := by
  unfold State.askSpare
  repeat' (first | with_reducible rfl | split | rw [foldl_sec] | intro _ _ | (simp only [State.modBerth_sec]) | dsimp only | grind [State.modBerth_sec])

@[simp] theorem State.repairLane_sec (s : State) (unit : Nat) (circuit : Nat) (spared : Bool) : (State.repairLane s unit circuit spared).sec = s.sec := by
  unfold State.repairLane
  repeat' (first | with_reducible rfl | split | rw [foldl_sec] | intro _ _ | (simp only [State.modOe_sec, State.modBerth_sec]) | dsimp only | grind [State.modOe_sec, State.modBerth_sec])

@[simp] theorem State.repairLanes_sec (s : State) (h : Half) : (State.repairLanes s h).sec = s.sec := by
  unfold State.repairLanes
  repeat' (first | with_reducible rfl | split | rw [foldl_sec] | intro _ _ | (simp only [State.repairLane_sec]) | dsimp only | grind [State.repairLane_sec])

@[simp] theorem State.mapHalf_sec (s : State) (h : Half) : (State.mapHalf s h).sec = s.sec := by
  unfold State.mapHalf
  repeat' (first | with_reducible rfl | split | rw [foldl_sec] | intro _ _ | (simp only [State.modTile_sec, State.modHalf_sec]) | dsimp only | grind [State.modTile_sec, State.modHalf_sec])

@[simp] theorem State.stayReset_sec (s : State) (h : Half) (stage : Nat) (code : Nat) : (State.stayReset s h stage code).sec = s.sec := by
  unfold State.stayReset
  repeat' (first | with_reducible rfl | split | rw [foldl_sec] | intro _ _ | (simp only [State.modHalf_sec, State.modBoot_sec, State.bootFail_sec]) | dsimp only | grind [State.modHalf_sec, State.modBoot_sec, State.bootFail_sec])

@[simp] theorem State.stageEnds_sec (s : State) (n : Nat) : (State.stageEnds s n).sec = s.sec := by
  unfold State.stageEnds
  repeat' (first | with_reducible rfl | split | rw [foldl_sec] | intro _ _ | (simp only [State.toStage_sec]) | dsimp only | grind [State.toStage_sec])

@[simp] theorem State.losesStack_sec (s : State) (h : Half) (i : Nat) : (State.losesStack s h i).sec = s.sec := by
  unfold State.losesStack
  repeat' (first | with_reducible rfl | split | rw [foldl_sec] | intro _ _ | (simp only [State.bootFail_sec, State.modFault_sec]) | dsimp only | grind [State.bootFail_sec, State.modFault_sec])

@[simp] theorem State.repairRows_sec (s : State) (stack : Nat) : (State.repairRows s stack).sec = s.sec := by
  unfold State.repairRows
  repeat' (first | with_reducible rfl | split | rw [foldl_sec] | intro _ _ | (simp only [State.logRepair_sec]) | dsimp only | grind [State.logRepair_sec])

@[simp] theorem State.bringUpOe_sec (s : State) (k : Nat) (feeds : Bool × Bool) : (State.bringUpOe s k feeds).sec = s.sec := by
  unfold State.bringUpOe
  repeat' (first | with_reducible rfl | split | rw [foldl_sec] | intro _ _ | (simp only [State.bootFail_sec, State.modOe_sec]) | dsimp only | grind [State.bootFail_sec, State.modOe_sec])

@[simp] theorem State.beginTides_sec (s : State) (now : Nat) (n : TideNo) : (State.beginTides s now n).sec = s.sec := by
  unfold State.beginTides
  repeat' (first | with_reducible rfl | split | rw [foldl_sec] | intro _ _ | (simp only [State.modTide_sec, State.modChart_sec, State.modHalves_sec, State.modBoot_sec, State.grantCredits_sec]) | dsimp only | grind [State.modTide_sec, State.modChart_sec, State.modHalves_sec, State.modBoot_sec, State.grantCredits_sec])

@[simp] theorem State.resetStops_sec (s : State) (h : Half) : (State.resetStops s h).sec = s.sec := by
  unfold State.resetStops
  repeat' (first | with_reducible rfl | split | rw [foldl_sec] | intro _ _ | (simp only [State.modBoot_sec, State.modHalf_sec, State.stopHalf_sec]) | dsimp only | grind [State.modBoot_sec, State.modHalf_sec, State.stopHalf_sec])

@[simp] theorem State.dropBridge_sec (s : State) (h : Half) : (State.dropBridge s h).sec = s.sec := by
  unfold State.dropBridge
  repeat' (first | with_reducible rfl | split | rw [foldl_sec] | intro _ _ | (simp only [State.bridgeGone_sec]) | dsimp only | grind [State.bridgeGone_sec])

@[simp] theorem State.endParts_sec (s : State) (q : Nat → PartSt → Bool) : (State.endParts s q).sec = s.sec := by
  unfold State.endParts
  repeat' (first | with_reducible rfl | split | rw [foldl_sec] | intro _ _ | (simp only [State.fenceOff_sec, State.modFault_sec, State.modBerth_sec]) | dsimp only | grind [State.fenceOff_sec, State.modFault_sec, State.modBerth_sec])

@[simp] theorem State.resetHalf_sec (s : State) (h : Half) : (State.resetHalf s h).sec = s.sec := by
  unfold State.resetHalf
  repeat' (first | with_reducible rfl | split | rw [foldl_sec] | intro _ _ | (simp only [State.dropBridge_sec, State.clearHalf_sec, State.modBoot_sec, State.dropGather_sec, State.endParts_sec, State.receiverReset_sec, State.hostPortDown_sec]) | dsimp only | grind [State.dropBridge_sec, State.clearHalf_sec, State.modBoot_sec, State.dropGather_sec, State.endParts_sec, State.receiverReset_sec, State.hostPortDown_sec])

@[simp] theorem State.dozeBerth_sec (s : State) (b : Nat) : (State.dozeBerth s b).sec = s.sec := by
  unfold State.dozeBerth
  repeat' (first | with_reducible rfl | split | rw [foldl_sec] | intro _ _ | (simp only [State.modBerth_sec]) | dsimp only | grind [State.modBerth_sec])

@[simp] theorem State.wakeBerth_sec (s : State) (b : Nat) : (State.wakeBerth s b).sec = s.sec := by
  unfold State.wakeBerth
  repeat' (first | with_reducible rfl | split | rw [foldl_sec] | intro _ _ | (simp only [State.modBerth_sec]) | dsimp only | grind [State.modBerth_sec])

@[simp] theorem State.primaryLost_sec (s : State) : (State.primaryLost s).sec = s.sec := by
  unfold State.primaryLost
  repeat' (first | with_reducible rfl | split | rw [foldl_sec] | intro _ _ | (simp only [State.modMbox_sec, State.modChart_sec, State.modHalves_sec]) | dsimp only | grind [State.modMbox_sec, State.modChart_sec, State.modHalves_sec])

@[simp] theorem State.takeSnap_sec (s : State) : (State.takeSnap s).sec = s.sec := by
  unfold State.takeSnap
  repeat' (first | with_reducible rfl | split | rw [foldl_sec] | intro _ _ | (simp only [State.mirrorLanes_sec]) | dsimp only | grind [State.mirrorLanes_sec])

@[simp] theorem State.resetPeak_sec (s : State) (key : Nat) : (State.resetPeak s key).sec = s.sec := by
  unfold State.resetPeak
  repeat' (first | with_reducible rfl | split | rw [foldl_sec] | intro _ _ | (simp only [State.modHalf_sec]) | dsimp only | grind [State.modHalf_sec])

@[simp] theorem State.modGen_sec (s : State) (part : Nat) (gen : Nat) (f : GenSt → GenSt) : (State.modGen s part gen f).sec = s.sec := by
  unfold State.modGen
  repeat' (first | with_reducible rfl | split | rw [foldl_sec] | intro _ _ | (simp only [State.modPart_sec]) | dsimp only | grind [State.modPart_sec])

@[simp] theorem State.genSend_sec (s : State) (part : Nat) (gen : Nat) (p : PartSt) (x4 : GenSt) (slot : Nat) (late : Bool) : (State.genSend s part gen p x4 slot late).sec = s.sec := by
  unfold State.genSend
  repeat' (first | with_reducible rfl | split | rw [foldl_sec] | intro _ _ | (simp only [State.modGen_sec, State.modBerth_sec, State.spend_sec]) | dsimp only | grind [State.modGen_sec, State.modBerth_sec, State.spend_sec])

@[simp] theorem State.goldPlace_sec (s : State) (n : Nat) (m : ManifestCfg) (p : Pkt) (jobRank : Nat) : (State.goldPlace s n m p jobRank).sec = s.sec := by
  unfold State.goldPlace
  repeat' (first | with_reducible rfl | split | rw [foldl_sec] | intro _ _ | (simp only [State.acceptContribution_sec, State.modHalf_sec, State.spillSlot_sec, State.placeElem_sec, State.modTile_sec, State.mergeLeaf_sec]) | dsimp only | grind [State.acceptContribution_sec, State.modHalf_sec, State.spillSlot_sec, State.placeElem_sec, State.modTile_sec, State.mergeLeaf_sec])

@[simp] theorem State.goldTree_sec (n : Nat) (m : ManifestCfg) (c : Nat) (x3 : Nat) (x4 : State) : (State.goldTree n m c x3 x4).sec = x4.sec := by
  induction x3 generalizing x4 with
  | zero => rfl
  | succ n ih =>
    unfold State.goldTree
    repeat' (first | with_reducible rfl | split | rw [ih] | (simp only [State.spillSlot_sec, State.combinePartial_sec]) | dsimp only)

@[simp] theorem State.goldBench_sec (s : State) (g : GoldSt) (m : ManifestCfg) : (State.goldBench s g m).sec = s.sec := by
  unfold State.goldBench
  repeat' (first | with_reducible rfl | split | rw [foldl_sec] | intro _ _ | (fail) | dsimp only | grind [])

@[simp] theorem State.goldStep_sec (s : State) (g : GoldSt) (c : Nat) (q : Nat) (members : List (List Byte)) (carry : List OutPkt) : (State.goldStep s g c q members carry).1.sec = s.sec := by
  unfold State.goldStep
  dsimp only
  rw [foldl_sec, State.goldTree_sec, foldl_sec]
  · simp only [State.allocSlots_sec, State.goldBench_sec, State.fresh_sec, State.goldPlace_sec, State.goldTree_sec]
  · intro _ _
    simp only [State.allocSlots_sec, State.goldBench_sec, State.fresh_sec, State.goldPlace_sec, State.goldTree_sec]
  · intro _ _
    simp only [State.allocSlots_sec, State.goldBench_sec, State.fresh_sec, State.goldPlace_sec, State.goldTree_sec]

@[simp] theorem State.partAt_sec (s : State) (n : Nat) (p : PartSt) : (State.partAt s n p).sec = s.sec := by
  unfold State.partAt
  repeat' (first | with_reducible rfl | split | rw [foldl_sec] | intro _ _ | (fail) | dsimp only | grind [])

@[simp] theorem State.snapshotDrains_sec (s : State) : (State.snapshotDrains s).sec = s.sec := by
  unfold State.snapshotDrains
  repeat' (first | with_reducible rfl | split | rw [foldl_sec] | intro _ _ | (simp only [State.drainEngine_sec]) | dsimp only | grind [State.drainEngine_sec])

@[simp] theorem State.partsAt_sec (s : State) : (State.partsAt s).sec = s.sec := by
  unfold State.partsAt
  repeat' (first | with_reducible rfl | split | rw [foldl_sec] | intro _ _ | (simp only [State.snapshotDrains_sec, State.endParts_sec, State.partAt_sec, State.finishWait_sec, State.failWait_sec]) | dsimp only | grind [State.snapshotDrains_sec, State.endParts_sec, State.partAt_sec, State.finishWait_sec, State.failWait_sec])

@[simp] theorem State.swapChart_sec (s : State) (held : Bool) : (State.swapChart s held).sec = s.sec := by
  unfold State.swapChart
  repeat' (first | with_reducible rfl | split | rw [foldl_sec] | intro _ _ | (simp only [State.modChart_sec]) | dsimp only | grind [State.modChart_sec])

@[simp] theorem State.bypassAt_sec (s : State) : (State.bypassAt s).sec = s.sec := by
  unfold State.bypassAt
  repeat' (first | with_reducible rfl | split | rw [foldl_sec] | intro _ _ | (simp only [State.modChart_sec, State.liftQ_sec, State.liftB_sec]) | dsimp only | grind [State.modChart_sec, State.liftQ_sec, State.liftB_sec])

@[simp] theorem State.swapTm_sec (s : State) (h : Half) : (State.swapTm s h).sec = s.sec := by
  unfold State.swapTm
  repeat' (first | with_reducible rfl | split | rw [foldl_sec] | intro _ _ | (simp only [State.modHalf_sec]) | dsimp only | grind [State.modHalf_sec])

@[simp] theorem State.peersCut_sec (s : State) : (State.peersCut s).sec = s.sec := by
  unfold State.peersCut
  repeat' (first | with_reducible rfl | split | rw [foldl_sec] | intro _ _ | (simp only [State.askAbort_sec]) | dsimp only | grind [State.askAbort_sec])

@[simp] theorem State.peersAt_sec (s : State) (swapped : Bool) : (State.peersAt s swapped).sec = s.sec := by
  unfold State.peersAt
  repeat' (first | with_reducible rfl | split | rw [foldl_sec] | intro _ _ | (simp only [State.peersCut_sec]) | dsimp only | grind [State.peersCut_sec])

@[simp] theorem State.endRun_sec (s : State) (n : Nat) (m : ManifestCfg) : (State.endRun s n m).sec = s.sec := by
  unfold State.endRun
  repeat' (first | with_reducible rfl | split | rw [foldl_sec] | intro _ _ | (simp only [State.modStream_sec, State.modStat_sec]) | dsimp only | grind [State.modStream_sec, State.modStat_sec])

@[simp] theorem State.liveAt_sec (s : State) (n : Nat) (m : ManifestCfg) : (State.liveAt s n m).sec = s.sec := by
  unfold State.liveAt
  repeat' (first | with_reducible rfl | split | rw [foldl_sec] | intro _ _ | (simp only [State.modChunk_sec, State.allocSlots_sec]) | dsimp only | grind [State.modChunk_sec, State.allocSlots_sec])

@[simp] theorem State.freeStream_sec (s : State) (n : Nat) : (State.freeStream s n).sec = s.sec := by
  unfold State.freeStream
  repeat' (first | with_reducible rfl | split | rw [foldl_sec] | intro _ _ | (simp only [State.modHalves_sec, State.modStream_sec]) | dsimp only | grind [State.modHalves_sec, State.modStream_sec])

@[simp] theorem State.commandsAt_sec (s : State) (n : Nat) (m : ManifestCfg) (held : Bool) : (State.commandsAt s n m held).sec = s.sec := by
  unfold State.commandsAt
  repeat' (first | with_reducible rfl | split | rw [foldl_sec] | intro _ _ | (simp only [State.stopStream_sec, State.modStream_sec, State.refuseResends_sec, State.goLive_sec]) | dsimp only | grind [State.stopStream_sec, State.modStream_sec, State.refuseResends_sec, State.goLive_sec])

@[simp] theorem State.streamAt_sec (s : State) (n : Nat) : (State.streamAt s n).sec = s.sec := by
  unfold State.streamAt
  repeat' (first | with_reducible rfl | split | rw [foldl_sec] | intro _ _ | (simp only [State.modStream_sec, State.freeStream_sec, State.commandsAt_sec, State.liveAt_sec]) | dsimp only | grind [State.modStream_sec, State.freeStream_sec, State.commandsAt_sec, State.liveAt_sec])

@[simp] theorem State.seedShard_sec (s : State) (k : Nat) (v : TideNo) (c : U16) (amax : U32) : (State.seedShard s k v c amax).sec = s.sec := by
  unfold State.seedShard
  repeat' (first | with_reducible rfl | split | rw [foldl_sec] | intro _ _ | (simp only [State.modJob_sec, State.freeIx_sec, State.modShard_sec]) | dsimp only | grind [State.modJob_sec, State.freeIx_sec, State.modShard_sec])

@[simp] theorem State.poisonShard_sec (s : State) (k : Nat) : (State.poisonShard s k).sec = s.sec := by
  unfold State.poisonShard
  repeat' (first | with_reducible rfl | split | rw [foldl_sec] | intro _ _ | (simp only [State.modShard_sec, State.dropGather_sec]) | dsimp only | grind [State.modShard_sec, State.dropGather_sec])

@[simp] theorem State.shardAt_sec (s : State) (k : Nat) : (State.shardAt s k).sec = s.sec := by
  unfold State.shardAt
  repeat' (first | with_reducible rfl | split | rw [foldl_sec] | intro _ _ | (simp only [State.modShard_sec, State.seedShard_sec, State.poisonShard_sec]) | dsimp only | grind [State.modShard_sec, State.seedShard_sec, State.poisonShard_sec])

@[simp] theorem State.serveWaiting_sec (s : State) : (State.serveWaiting s).sec = s.sec := by
  unfold State.serveWaiting
  repeat' (first | with_reducible rfl | split | rw [foldl_sec] | intro _ _ | (fail) | dsimp only | grind [])

@[simp] theorem State.jobsAt_sec (s : State) (held : Bool) : (State.jobsAt s held).sec = s.sec := by
  unfold State.jobsAt
  repeat' (first | with_reducible rfl | split | rw [foldl_sec] | intro _ _ | (simp only [State.shardAt_sec, State.serveWaiting_sec]) | dsimp only | grind [State.shardAt_sec, State.serveWaiting_sec])

@[simp] theorem State.collAt_sec (s : State) (cid : Nat) : (State.collAt s cid).sec = s.sec := by
  unfold State.collAt
  repeat' (first | with_reducible rfl | split | rw [foldl_sec] | intro _ _ | (simp only [State.pin_sec, State.modColl_sec]) | dsimp only | grind [State.pin_sec, State.modColl_sec])

@[simp] theorem State.collEnds_sec (s : State) (cid : Nat) : (State.collEnds s cid).sec = s.sec := by
  unfold State.collEnds
  repeat' (first | with_reducible rfl | split | rw [foldl_sec] | intro _ _ | (simp only [State.modColl_sec]) | dsimp only | grind [State.modColl_sec])

@[simp] theorem State.tileWriteAt_sec (s : State) (id : Nat) : (State.tileWriteAt s id).sec = s.sec := by
  unfold State.tileWriteAt
  repeat' (first | with_reducible rfl | split | rw [foldl_sec] | intro _ _ | (simp only [State.failWait_sec, State.modMbox_sec, State.modTile_sec, State.finishWait_sec]) | dsimp only | grind [State.failWait_sec, State.modMbox_sec, State.modTile_sec, State.finishWait_sec])

@[simp] theorem State.sparesAt_sec (s : State) (subs : List (Nat × Nat)) : (State.sparesAt s subs).sec = s.sec := by
  unfold State.sparesAt
  repeat' (first | with_reducible rfl | split | rw [foldl_sec] | intro _ _ | (simp only [State.modTile_sec]) | dsimp only | grind [State.modTile_sec])

@[simp] theorem State.engineOut_sec (s : State) (h : Half) (old : Nat) (index : Nat) : (State.engineOut s h old index).sec = s.sec := by
  unfold State.engineOut
  repeat' (first | with_reducible rfl | split | rw [foldl_sec] | intro _ _ | (simp only [State.modHalf_sec, State.withdrawDone_sec, State.logRepair_sec, State.raisePkg_sec]) | dsimp only | grind [State.modHalf_sec, State.withdrawDone_sec, State.logRepair_sec, State.raisePkg_sec])

@[simp] theorem State.seatEngine_sec (s : State) (h : Half) (e : Nat) (phys : Nat) : (State.seatEngine s h e phys).sec = s.sec := by
  unfold State.seatEngine
  repeat' (first | with_reducible rfl | split | rw [foldl_sec] | intro _ _ | (simp only [State.modTile_sec]) | dsimp only | grind [State.modTile_sec])

@[simp] theorem State.remapAt_sec (s : State) (h : Half) (maps : List (Nat × Nat)) : (State.remapAt s h maps).sec = s.sec := by
  unfold State.remapAt
  repeat' (first | with_reducible rfl | split | rw [foldl_sec] | intro _ _ | (simp only [State.engineOut_sec, State.seatEngine_sec, State.modHalf_sec]) | dsimp only | grind [State.engineOut_sec, State.seatEngine_sec, State.modHalf_sec])

@[simp] theorem State.swapAt_sec (s : State) (subs : List (Nat × Nat)) (mapsE : List (Nat × Nat)) (mapsW : List (Nat × Nat)) : (State.swapAt s subs mapsE mapsW).sec = s.sec := by
  unfold State.swapAt
  repeat' (first | with_reducible rfl | split | rw [foldl_sec] | intro _ _ | (simp only [State.landWrites_sec, State.modTide_sec, State.peersAt_sec, State.bypassAt_sec, State.swapChart_sec, State.swapTm_sec, State.remapAt_sec, State.sparesAt_sec, State.jobsAt_sec, State.streamAt_sec, State.collAt_sec, State.tileWriteAt_sec, State.modHalves_sec, State.applyTideCfg_sec, State.partsAt_sec, State.lanesAt_sec, State.bridgeLeave_sec]) | dsimp only | grind [State.landWrites_sec, State.modTide_sec, State.peersAt_sec, State.bypassAt_sec, State.swapChart_sec, State.swapTm_sec, State.remapAt_sec, State.sparesAt_sec, State.jobsAt_sec, State.streamAt_sec, State.collAt_sec, State.tileWriteAt_sec, State.modHalves_sec, State.applyTideCfg_sec, State.partsAt_sec, State.lanesAt_sec, State.bridgeLeave_sec])

@[simp] theorem State.stepOne_sec (s : State) : (State.stepOne s).sec = s.sec := by
  unfold State.stepOne
  repeat' (first | with_reducible rfl | split | rw [foldl_sec] | intro _ _ | (simp only [State.latchLines_sec, State.modTide_sec, State.laneHealth_sec, State.berthDown_sec]) | dsimp only | grind [State.latchLines_sec, State.modTide_sec, State.laneHealth_sec, State.berthDown_sec])

@[simp] theorem State.countThrottled_sec (s : State) (h : Half) : (State.countThrottled s h).sec = s.sec := by
  unfold State.countThrottled
  repeat' (first | with_reducible rfl | split | rw [foldl_sec] | intro _ _ | (simp only [State.bump_sec, State.modHalf_sec]) | dsimp only | grind [State.bump_sec, State.modHalf_sec])

@[simp] theorem State.trafficAt_sec (s : State) : (State.trafficAt s).sec = s.sec := by
  unfold State.trafficAt
  repeat' (first | with_reducible rfl | split | rw [foldl_sec] | intro _ _ | (simp only [State.modHalves_sec, State.throttleHalf_sec, State.grantCredits_sec, State.countThrottled_sec, State.modPort_sec]) | dsimp only | grind [State.modHalves_sec, State.throttleHalf_sec, State.grantCredits_sec, State.countThrottled_sec, State.modPort_sec])

@[simp] theorem State.loadBudgets_sec (s : State) : (State.loadBudgets s).sec = s.sec := by
  unfold State.loadBudgets
  repeat' (first | with_reducible rfl | split | rw [foldl_sec] | intro _ _ | (fail) | dsimp only | grind [])

@[simp] theorem State.noiseRelease_sec (s : State) (n : Nat) (m : ManifestCfg) (c : Nat) (ps : List OutPkt) : (State.noiseRelease s n m c ps).sec = s.sec := by
  unfold State.noiseRelease
  repeat' (first | with_reducible rfl | split | rw [foldl_sec] | intro _ _ | (simp only [State.modStream_sec, State.charge_sec]) | dsimp only | grind [State.modStream_sec, State.charge_sec])

@[simp] theorem State.releaseChunk_sec (s : State) (n : Nat) (m : ManifestCfg) (c : Nat) : (State.releaseChunk s n m c).sec = s.sec := by
  unfold State.releaseChunk
  repeat' (first | with_reducible rfl | split | rw [foldl_sec] | intro _ _ | (simp only [State.modChunk_sec, State.modStat_sec, State.sendOut_sec, State.deliver_sec, State.noiseRelease_sec, State.forwardResults_sec, State.freeAcked_sec, State.freeSlots_sec]) | dsimp only | grind [State.modChunk_sec, State.modStat_sec, State.sendOut_sec, State.deliver_sec, State.noiseRelease_sec, State.forwardResults_sec, State.freeAcked_sec, State.freeSlots_sec])

@[simp] theorem State.serveResends_sec (s : State) (n : Nat) (m : ManifestCfg) : (State.serveResends s n m).sec = s.sec := by
  unfold State.serveResends
  repeat' (first | with_reducible rfl | split | rw [foldl_sec] | intro _ _ | (simp only [State.modStream_sec, State.inject_sec, State.modStat_sec, State.badCell_sec, State.sendCtrl_sec]) | dsimp only | grind [State.modStream_sec, State.inject_sec, State.modStat_sec, State.badCell_sec, State.sendCtrl_sec])

@[simp] theorem State.releasesAt_sec (s : State) (n : Nat) : (State.releasesAt s n).sec = s.sec := by
  unfold State.releasesAt
  repeat' (first | with_reducible rfl | split | rw [foldl_sec] | intro _ _ | (simp only [State.releaseChunk_sec, State.endRun_sec, State.serveResends_sec]) | dsimp only | grind [State.releaseChunk_sec, State.endRun_sec, State.serveResends_sec])

@[simp] theorem State.stepSeven_sec (s : State) : (State.stepSeven s).sec = s.sec := by
  unfold State.stepSeven
  repeat' (first | with_reducible rfl | split | rw [foldl_sec] | intro _ _ | (simp only [State.releasesAt_sec, State.collEnds_sec]) | dsimp only | grind [State.releasesAt_sec, State.collEnds_sec])

@[simp] theorem State.halfResetAt_sec (s : State) (h : Half) : (State.halfResetAt s h).sec = s.sec := by
  unfold State.halfResetAt
  repeat' (first | with_reducible rfl | split | rw [foldl_sec] | intro _ _ | (simp only [State.resetHalf_sec, State.resetStops_sec]) | dsimp only | grind [State.resetHalf_sec, State.resetStops_sec])

@[simp] theorem State.withFetchWord_sec (s : State) (nbits : Nat) (w : Nat) : (State.withFetchWord s nbits w).sec = s.sec := by
  unfold State.withFetchWord
  repeat' (first | with_reducible rfl | split | rw [foldl_sec] | intro _ _ | (fail) | dsimp only | grind [])

end Sys2Proof.Machine
end

