-- ==== Sys2Proof/Laws/Modes.lean ====
section
/-! SUPPORT. What each function that writes the security state can do: from legal modes it leads to legal modes, and the lifecycle does
not move backwards. -/

namespace Sys2Proof.Machine

/-- The invariant of the security core's modes, in numbers. -/
structure SecSt.Legal (x : SecSt) : Prop where
  life : 1 ≤ x.lifecycle.toNat ∧ x.lifecycle.toNat ≤ 4
  dbg : x.dbg.toNat ≤ 2
  power : x.power.toNat ≤ 3
  openF : x.dbg.toNat = 2 → x.lifecycle.toNat = 1
  openA : x.dbg.toNat = 1 → x.lifecycle.toNat ≠ 1
  pLife : ∀ l, x.pLifecycle = some l → 2 ≤ l.toNat ∧ l.toNat ≤ 4 ∧ x.lifecycle.toNat ≤ l.toNat ∧ (l.toNat = 2 ∨ x.lifecycle.toNat ≠ 1)
  pDebug : ∀ d, x.pDebug = some d → d.toNat = 0 ∨ d.toNat = 1 ∧ x.lifecycle.toNat ≠ 1
  pPower : ∀ p, x.pPower = some p → p.toNat ≤ 2
  zOpen : ∀ z, x.zero = some z → z.debugOpen = true → x.lifecycle.toNat ≠ 1
  zLife : ∀ z, x.zero = some z → ∀ l, z.lifecycle = some l → l.toNat = 4 ∧ x.lifecycle.toNat ≠ 1

theorem byte_eq (b : Byte) (n : Nat) (h : n < 256) : b = BitVec.ofNat 8 n ↔ b.toNat = n := by
  rw [← BitVec.toNat_inj, BitVec.toNat_ofNat, Nat.mod_eq_of_lt h]

theorem all_some {α : Type} (o : Option α) (p : α → Bool) : o.all p = true ↔ ∀ a, o = some a → p a = true := by
  cases o <;> simp

theorem SecSt.legal_iff (x : SecSt) : (x.modesOk && x.waitingOk) = true ↔ x.Legal := by
  have e0 : ∀ b : Byte, b = 0 ↔ b.toNat = 0 := fun b => byte_eq b 0 (by decide)
  have e1 : ∀ b : Byte, b = 1 ↔ b.toNat = 1 := fun b => byte_eq b 1 (by decide)
  have e2 : ∀ b : Byte, b = 2 ↔ b.toNat = 2 := fun b => byte_eq b 2 (by decide)
  have e4 : ∀ b : Byte, b = 4 ↔ b.toNat = 4 := fun b => byte_eq b 4 (by decide)
  simp only [SecSt.modesOk, SecSt.waitingOk, SecSt.mayBecome, Bool.and_eq_true, Bool.or_eq_true, all_some, decide_eq_true_eq,
    bne_iff_ne, ne_eq, beq_iff_eq, Bool.not_eq_true', e0, e1, e2, e4]
  constructor
  · rintro ⟨⟨⟨⟨⟨h1, h2⟩, h3⟩, h4⟩, h5⟩, ⟨⟨h6, h7⟩, h8⟩, h9⟩
    refine ⟨h1, h2, h3, fun e => h4.resolve_left (fun n => n e), fun e => h5.resolve_left (fun n => n e), fun l e => by have := h6 l e; omega, h7, h8, fun z e o => ?_, fun z e l k => (h9 z e).2 l k⟩
    rcases (h9 z e).1 with n | n
    · rw [n] at o; cases o
    · exact n
  · intro h
    refine ⟨⟨⟨⟨⟨h.life, h.dbg⟩, h.power⟩, ?_⟩, ?_⟩, ⟨⟨fun l e => ?_, h.pDebug⟩, h.pPower⟩, fun z e => ⟨?_, h.zLife z e⟩⟩
    · have := h.openF; omega
    · have := h.openA; omega
    · have := h.pLife l e; omega
    · have := h.zOpen z e
      cases hz : z.debugOpen
      · exact .inl rfl
      · exact .inr (this hz)

/-- Does a change keep the modes legal and not move the lifecycle backwards? -/
def SecSt.keeps (x y : SecSt) : Prop := x.Legal → y.Legal ∧ x.lifecycle.toNat ≤ y.lifecycle.toNat

theorem SecSt.keeps_refl (x : SecSt) : x.keeps x := fun h => ⟨h, Nat.le_refl _⟩
theorem SecSt.keeps_trans {x y z : SecSt} (a : x.keeps y) (b : y.keeps z) : x.keeps z := fun h =>
  ⟨(b (a h).1).1, Nat.le_trans (a h).2 (b (a h).1).2⟩

/-- Fewer transitions wait, and the modes stay. -/
theorem SecSt.keeps_of_fewer {x y : SecSt} (h1 : y.lifecycle = x.lifecycle) (h2 : y.dbg = x.dbg) (h3 : y.power.toNat ≤ 3)
    (h4 : y.pLifecycle = x.pLifecycle ∨ y.pLifecycle = none) (h5 : y.pDebug = x.pDebug ∨ y.pDebug = none)
    (h6 : y.pPower = x.pPower ∨ y.pPower = none) (h7 : y.zero = x.zero ∨ y.zero = none) : x.keeps y := by
  intro h
  refine ⟨⟨?_, ?_, h3, ?_, ?_, ?_, ?_, ?_, ?_, ?_⟩, by rw [h1]⟩
  · rw [h1]; exact h.life
  · rw [h2]; exact h.dbg
  · rw [h1, h2]; exact h.openF
  · rw [h1, h2]; exact h.openA
  · rcases h4 with e | e <;> rw [e, h1]
    · exact h.pLife
    · intro _ e; cases e
  · rcases h5 with e | e <;> rw [e, h1]
    · exact h.pDebug
    · intro _ e; cases e
  · rcases h6 with e | e <;> rw [e]
    · exact h.pPower
    · intro _ e; cases e
  · rcases h7 with e | e <;> rw [e, h1]
    · exact h.zOpen
    · intro _ e; cases e
  · rcases h7 with e | e <;> rw [e, h1]
    · exact h.zLife
    · intro _ e; cases e

theorem SecSt.keeps_of_same {x y : SecSt} (h1 : y.lifecycle = x.lifecycle) (h2 : y.dbg = x.dbg) (h3 : y.power = x.power)
    (h4 : y.pLifecycle = x.pLifecycle) (h5 : y.pDebug = x.pDebug) (h6 : y.pPower = x.pPower) (h7 : y.zero = x.zero) : x.keeps y := fun h =>
  SecSt.keeps_of_fewer h1 h2 (h3 ▸ h.power) (.inl h4) (.inl h5) (.inl h6) (.inl h7) h

def State.keeps (s t : State) : Prop := s.sec.keeps t.sec
theorem State.keeps_of_sec {s t : State} (h : t.sec = s.sec) : s.keeps t := by rw [State.keeps, h]; exact SecSt.keeps_refl _
theorem State.keeps_trans {s t u : State} (a : s.keeps t) (b : t.keeps u) : s.keeps u := SecSt.keeps_trans a b
/-- For a chain of updates the last of which changes nothing of it. -/
theorem State.keeps_sec_right {s t u : State} (h : u.sec = t.sec) (k : s.keeps t) : s.keeps u := by rw [State.keeps, h]; exact k
theorem State.keeps_sec_left {s t u : State} (h : s.sec = t.sec) (k : t.keeps u) : s.keeps u := by rw [State.keeps, h]; exact k

/-- Closing debug, or opening it outside FACTORY. -/
theorem State.setDebug_keeps (s : State) (d : Byte) (h : s.sec.Legal → d.toNat = 0 ∨ d.toNat = 1 ∧ s.sec.lifecycle.toNat ≠ 1) :
    s.keeps (s.setDebug d) := fun g => by
  have := h g
  exact ⟨⟨g.life, by simp only [State.setDebug, State.modSec]; omega, g.power, by simp only [State.setDebug, State.modSec]; omega,
    by simp only [State.setDebug, State.modSec]; omega, g.pLife, g.pDebug, g.pPower, g.zOpen, g.zLife⟩, Nat.le_refl _⟩

/-- A lifecycle change that may wait, before any other that waits. -/
theorem State.setLifecycle_keeps (s : State) (l : Byte) (h : s.sec.Legal → (2 ≤ l.toNat ∧ l.toNat ≤ 4 ∧ s.sec.lifecycle.toNat ≤ l.toNat ∧
    (l.toNat = 2 ∨ s.sec.lifecycle.toNat ≠ 1)) ∧ ∀ k, s.sec.pLifecycle = some k → l.toNat ≤ k.toNat) : s.keeps (s.setLifecycle l) := by
  intro g
  obtain ⟨h1, h2⟩ := h g
  have hl := g.life
  have ho := g.openF
  have ha := g.openA
  have hd := g.dbg
  have t0 : (0 : Byte).toNat = 0 := rfl
  have t2 : (2 : Byte).toNat = 2 := rfl
  have t3 : (3 : Byte).toNat = 3 := rfl
  have t4 : (4 : Byte).toNat = 4 := rfl
  unfold State.setLifecycle
  split
  case h_4 a b c =>
    exact absurd h1 (by intro ⟨p, q, _⟩; rcases (by omega : l.toNat = 2 ∨ l.toNat = 3 ∨ l.toNat = 4) with e | e | e; exacts [a e, b e, c e])
  all_goals simp only [State.setDebug, State.modSec]
  all_goals
    refine ⟨⟨?_, ?_, g.power, ?_, ?_, fun k e => ?_, fun d e => ?_, g.pPower, fun z e o => ?_, fun z e k o => ?_⟩, ?_⟩ <;>
      first
        | (simp only [t0, t2, t3, t4]; omega)
        | (have := g.pLife k e; have := h2 k e; simp only [t2, t3, t4]; omega)
        | (have := g.pDebug d e; simp only [t2, t3, t4]; omega)
        | (have := g.zLife z e k o; simp only [t2, t3, t4]; omega)

/-- An update of the security state that only drops what waits. -/
theorem State.modSec_keeps (s : State) (f : SecSt → SecSt) (h : s.sec.keeps (f s.sec)) : s.keeps (s.modSec f) := h

theorem State.haltCore_keeps (s : State) (i : Nat) (halt : Bool) : s.keeps (s.haltCore i halt) :=
  SecSt.keeps_of_same rfl rfl rfl rfl rfl rfl rfl
theorem State.drawKeys_keeps (s : State) (j : Nat) : s.keeps (s.drawKeys j) := SecSt.keeps_of_same rfl rfl rfl rfl rfl rfl rfl
@[simp] theorem State.destroyAllKeys_sec (s : State) : s.destroyAllKeys.sec = s.sec := rfl
@[simp] theorem State.zeroNow_sec (s : State) (z : ZeroSt) : (s.zeroNow z).sec = s.sec := by
  unfold State.zeroNow; rw [State.zeroFill_sec, State.zeroFree_sec]

theorem State.procFails_keeps (s : State) (p : Proc) : s.keeps (s.procFails p) := by
  unfold State.procFails
  cases p
  · exact State.keeps_sec_right (State.raisePkg_sec ..) (SecSt.keeps_of_same rfl rfl rfl rfl rfl rfl rfl)
  · exact State.keeps_sec_right (State.raisePkg_sec ..) (SecSt.keeps_of_same rfl rfl rfl rfl rfl rfl rfl)
  · exact State.keeps_of_sec (State.raiseLine_sec ..)
  · exact State.keeps_of_sec (State.raiseLine_sec ..)

theorem State.leaveAnchor_keeps (s : State) : s.keeps s.leaveAnchor :=
  State.keeps_sec_right (t := s.modSec (fun x => { x with power := 0 })) (by unfold State.leaveAnchor; simp)
    (SecSt.keeps_of_fewer rfl rfl (show (0 : Byte).toNat ≤ 3 by decide) (.inl rfl) (.inl rfl) (.inl rfl) (.inl rfl))

theorem State.enterAnchor_keeps (s : State) : s.keeps s.enterAnchor := by
  refine State.keeps_sec_right (t := s.modSec (fun x => { x with power := 2 })) ?_
    (SecSt.keeps_of_fewer rfl rfl (show (2 : Byte).toNat ≤ 3 by decide) (.inl rfl) (.inl rfl) (.inl rfl) (.inl rfl))
  unfold State.enterAnchor
  simp

theorem State.powerAt_keeps (s : State) : s.keeps s.powerAt := by
  unfold State.powerAt
  have d : s.keeps (s.modSec (fun x => { x with pPower := none })) := 
    fun g => SecSt.keeps_of_fewer rfl rfl g.power (.inl rfl) (.inl rfl) (.inr rfl) (.inl rfl) g
  have sets : ∀ n : Byte, n.toNat ≤ 3 → s.keeps ((s.modSec (fun x => { x with pPower := none })).modSec (fun x => { x with power := n })) :=
    fun n h => SecSt.keeps_of_fewer rfl rfl h (.inl rfl) (.inl rfl) (.inr rfl) (.inl rfl)
  split
  · exact State.keeps_of_sec rfl
  · dsimp only
    split
    · split
      · exact State.keeps_sec_right (State.failWait_sec ..) d
      · refine State.keeps_sec_right ?_ (sets 1 (by decide))
        rw [State.finishAt_sec, foldl_sec]
        intro _ _
        rw [State.dozeBerth_sec]
    · exact State.keeps_trans d (State.enterAnchor_keeps _)
    · refine State.keeps_sec_right ?_ (sets 0 (by decide))
      rw [State.finishAt_sec, foldl_sec]
      intro _ _
      rw [State.wakeBerth_sec]

theorem State.flipLatch_keeps (s : State) : s.keeps s.flipLatch := by
  unfold State.flipLatch
  exact State.keeps_trans (State.keeps_of_sec (State.resetChans_sec ..)) (SecSt.keeps_of_same rfl rfl rfl rfl rfl rfl rfl)

theorem State.mastershipAt_keeps (s : State) : s.keeps s.mastershipAt := by
  unfold State.mastershipAt
  split
  · split
    · exact State.keeps_trans (State.keeps_of_sec (State.primaryLost_sec ..)) (State.flipLatch_keeps _)
    · exact State.keeps_of_sec rfl
  · split
    · exact State.keeps_trans (State.keeps_of_sec (State.finishAt_sec ..)) (State.flipLatch_keeps _)
    · exact State.keeps_of_sec rfl

/-- Debug after a package reset follows the lifecycle (14 R368). -/
theorem State.packageReset_keeps (s : State) : s.keeps s.packageReset := fun h => by
  have e1 : s.sec.lifecycle = 1 ↔ s.sec.lifecycle.toNat = 1 := byte_eq _ 1 (by decide)
  refine ⟨⟨h.life, ?_, show (0 : Byte).toNat ≤ 3 by decide, ?_, ?_, ?_, ?_, ?_, ?_, ?_⟩, Nat.le_refl _⟩
  · show (if s.sec.lifecycle = 1 then (2 : Byte) else 0).toNat ≤ 2
    split <;> decide
  · show (if s.sec.lifecycle = 1 then (2 : Byte) else 0).toNat = 2 → s.sec.lifecycle.toNat = 1
    split
    · exact fun _ => e1.mp ‹_›
    · intro e; cases e
  · show (if s.sec.lifecycle = 1 then (2 : Byte) else 0).toNat = 1 → s.sec.lifecycle.toNat ≠ 1
    split <;> intro e <;> cases e
  all_goals intro _ e; cases e

theorem State.startImage_keeps (s : State) (i : ImageInfo) (bank host : Bool) : s.keeps (s.startImage i bank host) := by
  unfold State.startImage
  refine State.keeps_sec_right (State.applyBlock_sec ..) ?_
  refine State.keeps_trans (State.keeps_of_sec (t := (s.toStage 6)) ?_) (SecSt.keeps_of_same rfl rfl rfl rfl rfl rfl rfl)
  simp

theorem State.zeroStart_keeps (s : State) (z : ZeroSt) (h : s.sec.Legal → (z.debugOpen = true → s.sec.lifecycle.toNat ≠ 1) ∧
    ∀ l, z.lifecycle = some l → l.toNat = 4 ∧ s.sec.lifecycle.toNat ≠ 1) : s.keeps (s.zeroStart z) := by
  intro g
  obtain ⟨h1, h2⟩ := h g
  refine ⟨⟨g.life, g.dbg, g.power, g.openF, g.openA, g.pLife, g.pDebug, g.pPower, ?_, ?_⟩, Nat.le_refl _⟩
  · intro y e; cases e; exact h1
  · intro y e; cases e; exact h2

theorem State.zeroKeys_keeps (s : State) : s.keeps s.zeroKeys := by
  unfold State.zeroKeys
  split
  · exact State.keeps_of_sec rfl
  · rename_i z hz
    dsimp only
    split
    · exact State.keeps_of_sec rfl
    · intro g
      have e : ∀ f, ((s.zeroFree z).modSec f).sec = f s.sec := fun f => by
        show f (s.zeroFree z).sec = _
        rw [State.zeroFree_sec]
      rw [e]
      refine ⟨⟨g.life, g.dbg, g.power, g.openF, g.openA, g.pLife, g.pDebug, g.pPower, ?_, ?_⟩, Nat.le_refl _⟩
      · intro y e; cases e; exact g.zOpen z hz
      · intro y e; cases e; exact g.zLife z hz

theorem State.debugDue_keeps (s : State) : s.keeps (match s.sec.pDebug with | some d => s.setDebug d | none => s) := by
  cases hd : s.sec.pDebug with
  | none => exact State.keeps_of_sec rfl
  | some d => exact State.setDebug_keeps s d (fun g => g.pDebug d hd)

theorem State.lifecycleDue_keeps (s : State) : s.keeps (match s.sec.pLifecycle with | some l => s.setLifecycle l | none => s) := by
  cases hl : s.sec.pLifecycle with
  | none => exact State.keeps_of_sec rfl
  | some l =>
    refine State.setLifecycle_keeps s l (fun g => ⟨g.pLife l hl, fun k e => ?_⟩)
    rw [hl] at e; cases e; exact Nat.le_refl _

theorem State.securityAt_keeps (s : State) : s.keeps s.securityAt := by
  unfold State.securityAt
  dsimp only
  have clear : ∀ t : State, t.keeps (t.modSec (fun x => { x with pDebug := none, pLifecycle := none })) := fun t g =>
    SecSt.keeps_of_fewer rfl rfl g.power (.inr rfl) (.inr rfl) (.inl rfl) (.inl rfl) g
  have three := State.keeps_trans (State.keeps_trans (State.debugDue_keeps s) (State.lifecycleDue_keeps _)) (clear _)
  split
  · exact State.keeps_sec_right (State.finishAt_sec ..) three
  · exact three

theorem State.authRefused_keeps (k : Nat) (s : State) : s.keeps (State.authRefused k s) := by
  unfold State.authRefused
  split
  · exact SecSt.keeps_of_same rfl rfl rfl rfl rfl rfl rfl
  · exact State.keeps_of_sec rfl

theorem State.uciWith_keeps (s : State) (u : Uci) (c : CmdInfo) (causes : List (Nat × Bool)) (r : Nat → State → State) (run : State → Done)
    (hr : ∀ k (t : State), t.keeps (r k t)) (h : lowest (s.gate u c ++ causes) = none → ∀ t : State, t.sec = s.sec → t.keeps (run t).st) :
    s.keeps (s.uciWith u c causes r run) := by
  unfold State.uciWith
  split
  · exact State.keeps_of_sec rfl
  · dsimp only
    split
    · refine State.keeps_sec_right (State.replyTo_sec ..) (State.keeps_sec_left ?_ (hr _ _))
      rw [State.modChan_sec]
    · rename_i e
      exact State.keeps_sec_right (State.replyTo_sec ..) (State.keeps_sec_left (State.modChan_sec ..).symm (h e _ (State.modChan_sec ..)))

theorem State.uci_keeps (s : State) (u : Uci) (c : CmdInfo) (causes : List (Nat × Bool)) (run : State → Done)
    (h : lowest (s.gate u c ++ causes) = none → ∀ t : State, t.sec = s.sec → t.keeps (run t).st) : s.keeps (s.uci u c causes run) :=
  State.uciWith_keeps s u c causes _ run (fun _ _ => State.keeps_of_sec rfl) h

theorem State.idleBoundary_keeps (s : State) : s.keeps s.idleBoundary := by
  unfold State.idleBoundary
  dsimp only
  split
  · exact State.keeps_sec_left (State.modTide_sec ..).symm (State.packageReset_keeps _)
  · exact State.keeps_of_sec rfl

theorem State.transitionsAt_keeps (s : State) : s.keeps s.transitionsAt := by
  have h : s.keeps s.mastershipAt.powerAt.securityAt :=
    State.keeps_trans (State.mastershipAt_keeps s) (State.keeps_trans (State.powerAt_keeps _) (State.securityAt_keeps _))
  have e : ∀ t : State, t.keeps ([256, 257, 258, 259].foldl (fun (s : State) b => (s.ethUp b).storeCheck b) t) := fun t =>
    State.keeps_of_sec (foldl_sec _ _ _ (fun s b => by rw [State.storeCheck_sec, State.ethUp_sec]))
  unfold State.transitionsAt
  dsimp only
  split
  · exact State.keeps_trans h (State.keeps_trans (e _) (State.packageReset_keeps _))
  · exact State.keeps_trans h (e _)

theorem State.boundary_keeps (s : State) : s.keeps s.boundary := by
  unfold State.boundary
  dsimp only
  refine State.keeps_trans ?_ (State.transitionsAt_keeps _)
  rw [State.keeps]
  have z := State.zeroKeys_keeps s.stepOne.classifyAll
  rw [State.keeps, State.classifyAll_sec, State.stepOne_sec] at z
  simp only [State.modHalves_sec, State.halfResetAt_sec, State.stepSeven_sec, State.loadBudgets_sec, State.trafficAt_sec, State.swapAt_sec, State.takeSnap_sec, State.fencesAt_sec]
  exact z

/-- A command whose run leaves the security state alone leaves it alone. -/
theorem State.uciWith_sec (s : State) (u : Uci) (c : CmdInfo) (causes : List (Nat × Bool)) (r : Nat → State → State) (run : State → Done)
    (hr : ∀ k (t : State), (r k t).sec = t.sec) (h : ∀ t : State, t.sec = s.sec → (run t).st.sec = t.sec) :
    (s.uciWith u c causes r run).sec = s.sec := by
  unfold State.uciWith
  split
  · rfl
  · dsimp only
    split
    · rw [State.replyTo_sec, hr, State.modChan_sec]
    · rw [State.replyTo_sec, h _ (State.modChan_sec ..), State.modChan_sec]
theorem State.uci_sec (s : State) (u : Uci) (c : CmdInfo) (causes : List (Nat × Bool)) (run : State → Done)
    (h : ∀ t : State, t.sec = s.sec → (run t).st.sec = t.sec) :
    (s.uci u c causes run).sec = s.sec := State.uciWith_sec s u c causes _ run (fun _ _ => rfl) h
end Sys2Proof.Machine
end

