-- ==== Sys2Proof/Laws/Uci.lean ====
section
/-! SUPPORT. What the shared operation of every UCI command can do: nothing, a refusal, or the command. -/

namespace Sys2Proof.Machine

theorem lowest_none (cs : List (Nat × Bool)) (h : cs.all (fun e => !e.2) = true) : lowest cs = none := by
  have : cs.filter (fun c => c.2) = [] := by
    rw [List.filter_eq_nil_iff]
    intro a ha
    have := List.all_eq_true.mp h a ha
    simpa using this
  simp [lowest, this]

/-- A message that firmware does not take changes nothing. -/
theorem State.uciWith_idle (s : State) (u : Uci) (c : CmdInfo) (cs : List (Nat × Bool)) (r : Nat → State → State) (f : State → Done)
    (h : s.takes u = false) : s.uciWith u c cs r f = s := by simp [State.uciWith, h]

/-- A command that no cause refuses is run and answered. -/
theorem State.uciWith_served (s : State) (u : Uci) (c : CmdInfo) (cs : List (Nat × Bool)) (r : Nat → State → State) (f : State → Done)
    (h : s.served u c = true) (hc : cs.all (fun e => !e.2) = true) :
    s.uciWith u c cs r f = (f (s.taken u)).st.replyTo u c.code (f (s.taken u)) s.now := by
  obtain ⟨ht, hg⟩ : s.takes u = true ∧ (s.gate u c).all (fun e => !e.2) = true := by simpa [State.served] using h
  have : lowest (s.gate u c ++ cs) = none := lowest_none _ (by rw [List.all_append, hg, hc]; rfl)
  simp [State.uciWith, ht, this, State.taken]

theorem State.uci_served (s : State) (u : Uci) (c : CmdInfo) (cs : List (Nat × Bool)) (f : State → Done)
    (h : s.served u c = true) (hc : cs.all (fun e => !e.2) = true) :
    s.uci u c cs f = (f (s.taken u)).st.replyTo u c.code (f (s.taken u)) s.now := s.uciWith_served u c cs _ f h hc

theorem State.uci_idle (s : State) (u : Uci) (c : CmdInfo) (cs : List (Nat × Bool)) (f : State → Done)
    (h : s.takes u = false) : s.uci u c cs f = s := s.uciWith_idle u c cs _ f h

/-- A command that a cause refuses answers the lowest code, and changes nothing else than the refusal's own trace. -/
theorem State.uciWith_refused (s : State) (u : Uci) (c : CmdInfo) (cs : List (Nat × Bool)) (r : Nat → State → State) (f : State → Done)
    (k : Nat) (ht : s.takes u = true) (h : lowest (s.gate u c ++ cs) = some k) :
    s.uciWith u c cs r f = (r k (s.taken u)).replyTo u c.code { st := r k (s.taken u), status := k } s.now := by
  simp [State.uciWith, ht, h, State.taken]

/-- The code of the only cause that holds is the lowest. -/
theorem lowest_only (cs : List (Nat × Bool)) (k : Nat) (h : (k, true) ∈ cs) (ho : cs.all (fun e => !e.2 || e.1 == k) = true) :
    lowest cs = some k := by
  have hf : ∀ e ∈ cs.filter (fun c => c.2), e.1 = k := by
    intro e he
    obtain ⟨hm, ht⟩ := List.mem_filter.mp he
    have := List.all_eq_true.mp ho e hm
    simpa [ht] using this
  have go : ∀ (l : List (Nat × Bool)) (m : Option Nat), (∀ e ∈ l, e.1 = k) → (m = none ∨ m = some k) → (l ≠ [] ∨ m = some k) →
      l.foldl (fun m c => match m with
        | none => some c.1
        | some k => some (min k c.1)) m = some k := by
    intro l
    induction l with
    | nil => intro m _ _ h3; simpa using h3
    | cons e l ih =>
      intro m h1 h2 _
      have he : e.1 = k := h1 e (by simp)
      simp only [List.foldl_cons]
      apply ih _ (fun x hx => h1 x (by simp [hx]))
      · rcases h2 with h2 | h2 <;> simp [h2, he]
      · rcases h2 with h2 | h2 <;> simp [h2, he]
  exact go _ none hf (.inl rfl) (.inl (List.ne_nil_of_mem (List.mem_filter.mpr ⟨h, rfl⟩)))

/-- A served command that only causes of one code refuse answers that code. -/
theorem State.uciWith_only (s : State) (u : Uci) (c : CmdInfo) (cs : List (Nat × Bool)) (r : Nat → State → State) (f : State → Done)
    (k : Nat) (h : s.served u c = true) (hk : (k, true) ∈ cs) (ho : cs.all (fun e => !e.2 || e.1 == k) = true) :
    s.uciWith u c cs r f = (r k (s.taken u)).replyTo u c.code { st := r k (s.taken u), status := k } s.now := by
  obtain ⟨ht, hg⟩ : s.takes u = true ∧ (s.gate u c).all (fun e => !e.2) = true := by simpa [State.served] using h
  refine State.uciWith_refused s u c cs r f k ht (lowest_only _ k (by simp [hk]) ?_)
  rw [List.all_append, ho, Bool.and_true, List.all_eq_true]
  intro e he
  have := List.all_eq_true.mp hg e he
  simp [this]

/-! ## What releasing the slot leaves -/

@[simp] theorem State.taken_tide (s : State) (u : Uci) : (s.taken u).tide = s.tide := rfl
@[simp] theorem State.taken_sec (s : State) (u : Uci) : (s.taken u).sec = s.sec := rfl
@[simp] theorem State.taken_boot (s : State) (u : Uci) : (s.taken u).boot = s.boot := rfl
@[simp] theorem State.taken_fault (s : State) (u : Uci) : (s.taken u).fault = s.fault := rfl
@[simp] theorem State.taken_hostLoad (s : State) (u : Uci) : (s.taken u).hostLoad = s.hostLoad := rfl
@[simp] theorem State.taken_streams (s : State) (u : Uci) : (s.taken u).streams = s.streams := rfl
@[simp] theorem State.taken_jobs (s : State) (u : Uci) : (s.taken u).jobs = s.jobs := rfl

/-- Code 1 is the lowest if its cause holds. -/
theorem lowest_le_one (cs : List (Nat × Bool)) (h : (1, true) ∈ cs) (hz : ∀ e ∈ cs, 1 ≤ e.1) : lowest cs = some 1 := by
  have go : ∀ (l : List (Nat × Bool)) (m : Option Nat), (∀ e ∈ l, 1 ≤ e.1) → (∀ k, m = some k → 1 ≤ k) → (m = some 1 ∨ ∃ b, (1, b) ∈ l) →
      l.foldl (fun m c => match m with
        | none => some c.1
        | some k => some (min k c.1)) m = some 1 := by
    intro l
    induction l with
    | nil => intro m _ _ h3; simpa using h3
    | cons e l ih =>
      intro m h1 h2 h3
      rw [List.foldl_cons]
      have he := h1 e (by simp)
      apply ih _ (fun x hx => h1 x (by simp [hx]))
      · intro k hk
        cases m with
        | none => cases hk; exact he
        | some j => cases hk; have := h2 j rfl; omega
      · rcases h3 with rfl | ⟨b, hb⟩
        · left
          show some (min 1 e.1) = some 1
          congr 1; omega
        · rcases List.mem_cons.mp hb with rfl | hb
          · left
            cases m with
            | none => rfl
            | some j => have := h2 j rfl; show some (min j 1) = some 1; congr 1; omega
          · exact .inr ⟨b, hb⟩
  exact go _ none (fun e he => hz e (List.mem_filter.mp he).1) (by simp) (.inr ⟨true, List.mem_filter.mpr ⟨h, rfl⟩⟩)

/-- A malformed message is answered MALFORMED, and nothing else changes. -/
theorem State.uciWith_malformed (s : State) (u : Uci) (c : CmdInfo) (cs : List (Nat × Bool)) (r : Nat → State → State) (f : State → Done)
    (ht : s.takes u = true) (hm : uciMalformed u c = true) (hz : cs.all (fun e => decide (1 ≤ e.1)) = true) (hr : ∀ t, r 1 t = t) :
    s.uciWith u c cs r f = s.refused (s.taken u) u c.code 1 := by
  have e : (stMalformed, uciMalformed u c) = (1, true) := by rw [hm]; rfl
  rw [State.uciWith_refused s u c cs r f 1 ht (lowest_le_one _ (by simp only [State.gate, e]; simp) ?_), hr]
  · rfl
  · intro e he
    rcases List.mem_append.mp he with h | h
    · exact of_decide_eq_true (List.all_eq_true.mp (show (s.gate u c).all (fun e => decide (1 ≤ e.1)) = true from rfl) e h)
    · exact of_decide_eq_true (List.all_eq_true.mp hz e h)

end Sys2Proof.Machine
end

