-- ==== Sys2Proof/Tests/Slice0.lean ====
section
/-! SUPPORT. The model's own tests: ill-formed commands are refused, worked examples of the manual, and for every statement with
hypotheses a state and operands that meet all of them together. -/

namespace Sys2Proof.Tests

set_option Elab.async false
set_option linter.unusedVariables false
set_option linter.unreachableTactic false
set_option linter.unusedTactic false

open Sys2Proof Sys2Proof.Machine

/-! ## Ill-formed commands (WellFormed): one term for each check -/

def cells0 : AlignCell := ⟨0, 0, 0, false, false, false, 0⟩
def cwBad : Codeword := ⟨some (0, [0]), 0⟩
def cwNone : Codeword := ⟨none, 0⟩
def uci0 : Uci := ⟨0, 32, 1, 0, 0, 0, 1, false, []⟩

/-- The message of Example 12-1: COLL_ARM of record 7 at tide 2,400,100, for job 12, from channel 4. -/
def msgA : List Byte :=
  [0x02, 0x04, 0x01, 0x00, 0xA7, 0x00, 0x00, 0x00, 0x10, 0x00, 0x00, 0x00, 0x0C] ++ List.replicate 19 0 ++
  [0x07, 0x00, 0x00, 0x00, 0x00, 0x00, 0x00, 0x00, 0x64, 0x9F, 0x24, 0x00, 0x00, 0x00, 0x00, 0x00]
def uciA (rsv : Bool) (bytes : List Byte) : Uci := ⟨4, 48, 1, 0, 16, 0x0C, 0xA7, rsv, bytes⟩

theorem test_wf_message : (Instr.collArm (uciA false msgA) 7 2400100).wf = true ∧ (Instr.collArm (uciA true (msgA.set 12 0)) 7 2400100).wf = false ∧
    (Instr.collArm (uciA true msgA) 7 2400100).wf = false ∧ (Instr.collArm (uciA false msgA) 8 2400100).wf = false ∧
    (Instr.collArm (uciA true (msgA.set 34 1)) 7 2400100).wf = true ∧ (Instr.collArm (uciA false (msgA.set 34 1)) 7 2400100).wf = false := by
  decide +kernel

/-- A control cell whose bytes do not spell its body. -/
theorem test_wf_cell : (Instr.reshardEnd ⟨5, 0, List.replicate 64 0⟩ 0).wf = false ∧
    (Instr.reshardEnd ⟨5, 0, (CtrlOut.mk 1 2 9 0 (.reshardEnd 3)).bytes⟩ 3).wf = true := by decide +kernel

theorem test_wf_cycles :
    [Instr.alignTx 0 8000 0, .align 0 cells0 8000 0 false, .tideNowLoRead 0 8000, .contributionCell .east 0 0 8000 none,
      .treeCombine 0 0 .east 0 0 8000 none, .outputConversion 0 0 8000 none, .drain .east 0 0 8000, .spill .east 0 0 0 8000 none,
      .recipeOperation .east 0 0 0 0 8000 none, .mark 0 0 0 0 8000 0].all (fun i => !i.wf) = true := by decide

theorem test_wf_lengths :
    [Instr.tideInEdge 0 0 1, .packetArrival .east 0 0 [0], .packetReceivedWhole .east 0 [0] 0, .credit 0 0 [] 0,
      .roundRx 0 ⟨cwNone, cwNone, cwNone, cwBad⟩, .hostSlotFetch 0 [] 0, .mailboxSlotWrite 0 0 0 [], .mailboxSlotWrite 0 0 4095 [0, 0],
      .poolSetup uci0 0 0 0 [], .recipeParam uci0 0 [], .laneBringUp [], .goldenCompare 0 0 [0]].all (fun i => !i.wf) = true := by decide +kernel

theorem test_wf_accepts : [Instr.alignTx 0 7999 0, .tideInEdge 0 1 1, .roundRx 0 ⟨cwNone, cwNone, cwNone, cwNone⟩,
    .mailboxSlotWrite 0 0 4095 [0], .tideBoundary []].all Instr.wf = true := by decide

/-- No word spells a command: the table gives no row any bits. -/
theorem test_no_word_decodes : decodeTableWord 8 0 = none ∧ State.reset.withFetchWord 8 0 = State.reset := ⟨rfl, rfl⟩

/-! ## Worked examples of the manual -/

/-- Example 0-1: the fields of an address. -/
theorem test_address_fields : addrH 0x035A2111 = 3 ∧ addrX 0x035A2111 = 5 ∧ addrY 0x035A2111 = 10 ∧ addrZ 0x035A2111 = 2 ∧
    addrB 0x035A2111 = 0x11 ∧ addrF 0x035A2111 = 1 := by decide

/-- Example 2-1: the offset of an exchange, in sixteenths. -/
theorem test_align_offset : alignOffset (120 * 16) (282 * 16 + 8) (2120 * 16) (2250 * 16) 0 = 260 := by decide

/-- Example 3-1: element 85 of an E3M2 packet, with its scales: 1.09375. -/
theorem test_element_85 : unpackElem (0xC0 * 2 ^ 504 + 0x05 * 2 ^ 512) 6 85 = 0x17 ∧ decodeElement .e3m2 0x17 = ⟨false, false, 7, 0⟩ ∧
    inputValue .e3m2 0x17 0x7C 0x3FA0 = ⟨false, false, 7 * 160, -10⟩ := by decide +kernel

/-- Example 3-2: a quotient just above a tie of BF16. -/
theorem test_round_to_odd : rtoQuotient 0x18180000000001 (-51) 0x4040 = (0x8080000001, -39) ∧
    (convertElement .bf16 0 false 0x8080000001 (-39) 0 0).1 = 0x3F81 := by decide +kernel

/-- Example 3-3: blocks 0 and 1 in E4M3. -/
theorem test_block_0 : convertBlock .e4m3 0 0x3F80 ([⟨false, false, 320, 0⟩, ⟨false, true, 3, -2⟩, ⟨false, false, 41, -12⟩,
      ⟨false, false, 3, -12⟩, ⟨false, true, 1, -11⟩, ⟨false, false, 1, -10⟩, ⟨false, false, 3, -11⟩].map (fun v => (v, 0))) =
    ⟨[0x7A, 0xB4, 0x05, 0x00, 0x80, 0x00, 0x01], 0x7F, false, [false, false, false, true, true, true, false]⟩ := by decide +kernel

theorem test_block_1 : (convertBlock .e4m3 0 0x3F80 [(⟨false, false, 470, 0⟩, 0)]) = ⟨[0x77], 0x80, false, [false]⟩ := by decide +kernel

/-- Example 4-1: five placements, in an order of our own. -/
theorem test_window_sum :
    ([0x2580, 0x4A40, 0x2B80, 0xCA40, 0x2780].foldl (fun (w : Window) b => w.place (inputValue .bf16 b 0 0x3F80) 0) {}) =
      { a := 258 } := by decide +kernel

/-- Example 4-1: what the window converts to. -/
theorem test_window_read : (convertBlock .bf16 0 0x3F80 [((({ a := 258 } : Window).read 0 0).1, 0)]).bits = [0x2B81] := by decide +kernel

/-- Example 4-2: the carries of switches 1, 2 and 3. -/
theorem test_carries : [(2 ^ 20 + 1, -20), (193, -7), (1, -7)].map (fun (p : Nat × Int) => carryBits .bf16 0 ⟨false, false, p.1, p.2⟩) =
    [0x3F81, 0x3FC1, 0x3C00] := by decide +kernel

/-- Example 8-1: a head and its cell word. -/
theorem test_head_bytes :
    (({ dst := 0x0194200F, src := 0x01942110, kind := 1, fmt := 4, enc := 0, seg := 0, body := 64, scales := 2, mcast := false, job := 3,
        sid := 0x3A7C5, gen := 0x52, chunk := 6, off := 0, elems := 4096, rank := 17, coarse := 0x3F80, xfer := 0, flow := 0, birth := 0,
        param := 0 } : Hdr).bytes.take 24) =
      [0x0F, 0x20, 0x94, 0x01, 0x10, 0x21, 0x94, 0x01, 0x03, 0x10, 0x08, 0x14, 0xC5, 0xA7, 0x23, 0x05, 0x00, 0x00, 0x06, 0x00,
        0x11, 0x00, 0x00, 0x10] := by decide +kernel

/-- Example 13-1: DETAIL of a residue failure on physical tile 3, window 0x2025, stream 0x0_6C10. -/
theorem test_engine_detail : engineDetail 3 2 0x2025 0x6C10 = 0x00006C1020250203 := by decide +kernel

theorem test_cell_word : mkCw 0 2 false 0x3C false false 0 false = 0x103C008C := by decide +kernel

/-- Example 8-2: the directions on the axes of a torus of 16 x 16 x 8. -/
theorem test_axis_dir : (({ nx := 16, ny := 16, nz := 8, hasSelf := true, wrap := 7 } : Chart).axisDir 0 14 2 0,
    ({ nx := 16, ny := 16, nz := 8, hasSelf := true, wrap := 7 } : Chart).axisDir 1 3 11 0,
    ({ nx := 16, ny := 16, nz := 8, hasSelf := true, wrap := 7 } : Chart).axisDir 2 1 5 0) = (true, false, false) := by decide +kernel

/-- Example 10-1: a packet that CB still covers, one that only PB covers, one that neither does. -/
theorem test_police : police (440 + 4420, 80440 + 4420) 4420 = (0, 440, 80440) ∧ police (440, 80440) 4420 = (1, 440, 76020) ∧
    police (440, 880) 4420 = (2, 440, 880) := by decide

/-- R312: IDCODE shifts out 0x1950_99CB, least significant bit first. -/
theorem test_idcode : (match exec .idcode State.reset with
    | .next t => t.tap.tdo.take 8
    | _ => []) = [true, true, false, true, false, false, true, true] := by decide +kernel

/-- R402: a pulse below 1 us is ignored. -/
theorem test_short_reset : exec (.warmReset 999) State.reset = .next State.reset := by rfl


/-! ## States for witnesses -/

def half0 : HalfSt := { started := true, trained := true, stageDone := 7 }
def berth0 : BerthSt := { up := true, lstate := 0, outcome := 0 }
def bunA : BundleE := ⟨2, 0x200F, [5], [5]⟩
def chartA : Chart := { own := 0x100F, hasSelf := true, nx := 4, bundles := [(0, bunA)], mcast := [(5, [0x200F])], groups := [(0, ⟨0x3000, false, true, [5], 0⟩)] }
def imgA : ImageInfo := ⟨true, 1, 0xFF, 1, 1, 0⟩

/-- Both halves run, tide 1000, one berth up, channel 0 from host function 0 to Uzorik. -/
def live : State :=
  { State.reset with
    tide := { counting := true, running := true, now := 1000, periods := 1000, start := 4000000, cfg := ⟨1, 0, 0xFFFF, 0xFFFF, 0⟩ }
    east := half0
    west := half0
    chart := { slot0 := chartA, active := true }
    berths := [(5, berth0)]
    sec := { power := 0, readyB := true }
    mbox := { opened := true, locked := true, uciReady := true,
              chans := [(0, { bind := some ⟨0, 15⟩ }), (1, { bind := some ⟨15, 0⟩ })] }
    boot := { stage := 13, resetN := true, perstN := true, hostPort := true, eastUp := true, westUp := true, safeN := false,
              lanesUp := true, image := some imgA } }

/-- A message of n body bytes, for a job, in channel 0. -/
def uc (n : Nat) (job : Byte) : Uci := ⟨0, BitVec.ofNat 13 (32 + n), 1, 0, BitVec.ofNat 16 n, job, 1, false, List.replicate (32 + n) 0⟩

/-- State s with that message posted. -/
def posting (s : State) (n : Nat) : State := s.modChan 0 (fun c => { c with full := true, len := BitVec.ofNat 13 (32 + n) })

def up (n : Nat) : State := posting live n
def posted : State := up 4
def early0 : State := live.modTide (fun t => { t with running := false, now := 0 })
def early (n : Nat) : State := posting (early0.modBoot (fun b => { b with stage := 12 })) n
def earlyHalf (n : Nat) : State := early n
def follow : State := live.modTide (fun t => { t with cfg := ⟨modeFollow, 0, 0xFFFF, 0xFFFF, 0⟩ })
def upFollow (n : Nat) : State := posting follow n
def upFw (n size next : Nat) : State := posting (live.modBoot (fun b => { b with fwSize := some size, fwNext := next })) n
def upTap (n : Nat) : State := posting live n
def upSafe (n : Nat) : State := posting (live.modBerth 259 (fun y => { y with safe := true })) n
def upFence (n : Nat) : State := posting (live.modFault (fun f => { f with fences := [⟨.job 9, 900, true, true, none, false⟩] })) n
def upLane (n : Nat) : State := posting (live.modOe 0 (fun o => { o with feed := true, deep := false, sparesTrained := List.range 8 })) n
def upDebug (n : Nat) : State := posting (live.modSec (fun x => { x with lifecycle := 2, dbg := 1 })) n

/-- Job 9 with four granules and a range of both Quays. -/
def jobA : JobSt := { owner := 0, granules := [(0, 4)], keyEpoch := some 1, quayE := some (0x20000000, 0x100000), quayW := some (0x20000000, 0x100000) }
def withJob : State := { live with jobs := [(9, jobA)] }
def upJob (n : Nat) : State := posting withJob n
def upVer (n : Nat) : State := posting (withJob.modJob 9 (fun j => { j with retired := some 5 })) n

/-- A reduction of FP32 elements, one leaf, two members here, released here: job 9, 64 elements. -/
def mfA : ManifestCfg :=
  { opctl := 0x09400991, range := 0x0008FF00, elemCount := 64, outMult := 0x3F80, cOut := 0x3F80, bias := 0, clipLo := 0, clipHi := 0,
    indexStride := 0, mcastGroup := 5, members := 2, slots := 0x30, treeE := 0x00100001, treeW := 0, upAddr := 0, downAddr := 0,
    peers := 0x00100001, parentAddr := 0, rankmapAddr := 0x20000000, retainAddr := 0x20001000, spillAddr := 0, fuseAddr := 0,
    fuseDesc := 0, recipe := 0 }
def withStream (x : StreamSt) : State := { withJob with streams := [(7, x)] }
def idle : State := withStream { state := .idle, cfg := some mfA }
def upIdle (n : Nat) : State := posting idle n
def upLive (n : Nat) : State := posting (withStream { state := .live, cfg := some mfA }) n
def upColl (n : Nat) : State := posting { withJob with colls := [(1, { ctl := 0x50000000, state := 1, job := 9 })] } n
def reshardC : CollSt := { ctl := 0x80000000, state := 1, job := 9 }
def upReshard (n : Nat) : State := posting { withJob with colls := [(2, reshardC)] } n

/-- A shard of 64 elements with an FP32 master and E4M3 copies. -/
def shA : ShardCfg := ⟨0x09020000, 0x00000904, 0, 0, 0x00010000, 64, 0, 0, 0, 0⟩
def upShard (n : Nat) : State := posting { withJob with shards := [(3, { half := .east, cfg := shA, state := 1 })] } n

/-- An image whose QUANT loads the master and stores the copy. -/
def recipeA : Recipe := ⟨[], [0x0100000000000000, 0x0200000000000004]⟩
def imgBytes : List Byte := leBytes 16 0x20000 ++ leBytes 8 0x0100000000000000 ++ leBytes 8 0x0200000000000004

def partA : PartSt := { active := true, job := 9, switchPersona := true, whole := false, addr := 0x5000, berths := [5], engines := [0] }
def upPart (n : Nat) : State := posting { withJob with parts := [(1, partA)] } n
def partRun : PartSt := { partA with running := true, startT := some 900 }
def upRun (n : Nat) : State := posting { withJob with parts := [(1, partRun)] } n

def upNonce (n : Nat) : State := posting (live.modSec (fun x => { x with nonce := some 0 })) n
def freeSrc : U16 := 0x90
/-- One packet of template bytes, of at most 4 cells, each 16 tides. -/
def genA : SamplerGenCfg :=
  { part := 1, genId := 3, berth := 5, source := 0, flags := 0, const := 0, errKind := 0, period := 16, packets := 1, offset := 0,
    spacing := 200, count := 0, errFirst := 0, errInterval := 0, template := 0x20000000, replayAddr := 0, replayLen := 0 }

/-- A contribution of 64 FP32 elements of member 0 to chunk 0 of stream 7, and the same as a result packet. -/
def hdrC : Hdr :=
  { dst := 0x100F, src := 0x200F, kind := 1, fmt := 9, enc := 0, seg := 0, body := 4, scales := 0, mcast := false, job := 9, sid := 7,
    gen := 0, chunk := 0, off := 0, elems := 64, rank := 0, coarse := 0x3F80, xfer := 0, flow := 0, birth := 0, param := 0 }
def pktOf (pid : Nat) (h : Hdr) : Pkt :=
  { id := pid, input := 40, cw := 0, payload := h.bytes ++ List.replicate (64 * (h.cells - 1)) 0, cells := h.cells, whole := true,
    crcOk := true, pallets := [1], copies := [⟨288, .self, 0, false, none, 0, 0⟩] }
def pktC : Pkt := pktOf 40 hdrC
def pktR : Pkt := pktOf 41 { hdrC with kind := 2 }
def wA : CellWork := ⟨7, 0, 40, 1⟩

/-- Stream 7 LIVE with the packet here and one of its cells on tile 0. -/
def workWith (x : StreamSt) (t : TileSt) : State :=
  { withJob with streams := [(7, x)], tiles := [(0, { t with budget := 3904 })], east := { half0 with pkts := [pktC] } }
def streamA : StreamSt := { state := .live, cfg := some mfA }
def tileA : TileSt := { phys := 0, cells := [wA], running := some (.chunk 7 0) }
def work : State := workWith streamA tileA
def workStale : State := workWith { streamA with gen := 1 } tileA
def mfS : ManifestCfg := mfA
def slotS : Nat × ChunkSlot := (mfS.slotKey 7 0 0, { sid := 7, chunk := 0, counts := [(0, 256)] })
def workSpill : State := workWith streamA { tileA with slots := [slotS] }
def full : Tab ChunkSt := [(0, { masks := [(0, 3), (1, 3)] })]
def mfT : ManifestCfg := { mfA with treeE := 0x00300001 }
def workTree : State :=
  { workWith { streamA with cfg := some mfT, chunks := full } { phys := 0, slots := [(mfT.slotKey 7 0 0, { sid := 7, chunk := 0 })] } with
    tiles := [(0, { phys := 0, budget := 3904, slots := [(mfT.slotKey 7 0 0, { sid := 7, chunk := 0 })] }),
              (1, { phys := 1, budget := 3904, slots := [(mfT.slotKey 7 1 0, { sid := 7, chunk := 0 })] })] }
def workConv : State := workWith { streamA with chunks := full } { phys := 0, slots := [(mfA.slotKey 7 0 0, { sid := 7, chunk := 0 })] }
def mfF : ManifestCfg := { mfA with opctl := 0x09404991, fuseAddr := 0x20002000, fuseDesc := 9 }
def workFuse : State := workWith { streamA with cfg := some mfF } tileA
def workDrain : State := workWith streamA { tileA with drainsWaiting := [.abort 7] }
def workDraining : State := workWith streamA { tileA with draining := some (.abort 7) }
def shX : ShardSt := { half := .east, cfg := shA, state := 2, grads := [(0, [])] }
def rcA : RecChunk := { eng := 0, tile := 0 }
def workRec : State :=
  { withJob with
    jobs := [(9, { jobA with images := [(2, recipeA)] })]
    tiles := [(0, { phys := 0, budget := 3904 })]
    shards := [(3, { shX with cfg := { shA with ctl := 0x09020000 } })] }
def workPkt : State := { work with tiles := [] }
def workFetch : State := { workPkt with east := { half0 with pkts := [pktC], mcache := { fetching := [7] } } }
def workRes : State := { work with east := { half0 with pkts := [pktC, pktR] } }
def workLate : State := workWith { streamA with chunks := [(0, { clock := some 900 })] } tileA
def fencing : State := withStream { state := .fencing, cfg := some mfA, torn := some 900 }
def genEarly : State := early0.modTide (fun t => { t with cfg := ⟨modeGenerate, 0, 5, 6, 0⟩, sincePrimary := 64 })
def genLost : State := live.modTide (fun t => { t with cfg := ⟨modeGenerate, 0, 5, 0xFFFF, 0⟩, sincePrimary := 64 })
def gone : State := live.modBerth 5 (fun y => { y with up := false, downTides := 4 })
def debugLive : State := live.modSec (fun x => { x with lifecycle := 2, dbg := 1 })
def factory : State := live.modSec (fun x => { x with lifecycle := 1, dbg := 2 })
def returned : State := live.modSec (fun x => { x with lifecycle := 4, idKey := false, ownerKey := false, logKey := false })
def moving : State :=
  withJob.modMbox (fun m => { m with xfers := [(50, .holdWrite 9 0x100 [5]), (51, .holdRead 9 0x100 4), (52, .quayWrite .west 0x20000000 [5]),
    (53, .quayRead .west 0x20000000 4), (54, .tileWrite 0 0 [0])] })
def fenced : State := withJob.modFault (fun f => { f with fences := [⟨.job 9, 900, true, false, none, false⟩] })
def zA (b : Bool) : ZeroSt := { job := some 9, keysGone := true, granules := [(0, 1)], debugOpen := b, lifecycle := none }
def zeroing (b : Bool) : State := live.modSec (fun x => { x with zero := some (zA b) })
def off (n : Nat) : State := { State.reset with sec := { power := 3 }, boot := { rails := n, pwrEn := false, pgHold := false, pgQuay := false, pgOe := false } }
def atStage (n : BitVec 4) : State := early0.modBoot (fun b => { b with stage := n })
def stage5 : State := { (atStage 5) with mbox := { early0.mbox with uciReady := false } }
def stage6 : State := { (atStage 6) with east := {}, west := {} }
def stage7 : State := { (atStage 7) with east := { started := true, stageDone := 6 }, west := { started := true, stageDone := 6 } }
def stage11 : State := { (atStage 11) with mbox := { early0.mbox with locked := false } }
def stage12 : State :=
  { (atStage 12) with
    tide := { counting := true, cfg := ⟨modeRoot, 0, 0xFFFF, 0xFFFF, 0⟩ }
    east := { half0 with pool := { built := true } }
    west := { half0 with pool := { built := true } } }

/-- A control cell for this switch from a neighbour, by berth 5. -/
def cOf (b : CtrlBody) : Ctrl := ⟨5, 0, (CtrlOut.mk 0x100F 0x200F 9 1000 b).bytes⟩
theorem ctrl_got {s : State} {c : Ctrl} {b : CtrlBody} (h : (s.ctrlIn c b).2 = true) : s.ctrlIn c b = ((s.ctrlIn c b).1, true) :=
  Prod.ext rfl h

def mfR : ManifestCfg := { mfA with upAddr := 0x200F, downAddr := 0x200F, peers := 0x00100002 }
def ring (x : ChunkSt) : State := withStream { state := .live, cfg := some mfR, chunks := [(0, x)] }
def ringLive : State := ring {}
def ringOut : State := ring { released := true, out := [⟨0, 0, []⟩] }

def entryA : ReshardEntry := ⟨0x1000, 4096, 0x100F, 0x2000, false⟩
def roundA : ReshardSt := ⟨1, 66536, [entryA], [], [], [], false⟩
def roundDone : ReshardSt := { roundA with entries := [{ entryA with sent := true }] }
def collOf (r : ReshardSt) : CollSt := { ctl := 0x80000000, state := 3, job := 9, reshard := some r }
def pktX : Pkt := pktOf 42 { hdrC with kind := 5 }
def resharding (r : ReshardSt) : State := { withJob with colls := [(2, collOf r)], east := { half0 with pkts := [pktX] } }

def shG : ShardSt := { half := .east, cfg := shA, state := 1 }
def gatherA (wait : Bool) : Gather := ⟨60, 9, 3, 0, 0, 1, 6, 0x200F, false, 0xFFFFFFFF03E8, wait, some 0x200F, .east⟩
def gathering (wait : Bool) : State :=
  { withJob with jobs := [(9, { jobA with retired := some 5 })], shards := [(3, shG)], gathers := [gatherA wait] }
def pfA : Prefetch := ⟨61, 9, 6, 0, [(0, 0, 1)], 0, 0⟩
def prefetching : State := { gathering false with prefetches := [pfA] }

def waitingPkt : Pkt := { pktOf 43 hdrC with waiting := true, pallets := [] }
def comingPkt : Pkt := { pktOf 44 hdrC with whole := false }
def bridgePkt : Pkt := { pktOf 45 hdrC with whole := false, feeder := some 44 }
def pktState : State := { live with east := { half0 with pkts := [waitingPkt, comingPkt] }, west := { half0 with pkts := [bridgePkt] } }
/-- A pool with 1,024 free indices in its ring, whose pages are zero, or with a bad page. -/
def poolOf (pages : List U64) : PalletSt := { built := true, count := 1024, pages := pages }
def poolState (pages : List U64) : State := { live with east := { half0 with pool := poolOf pages } }
def bypassing : State := { gone with chart := { slot0 := { chartA with bypass := 1 }, active := true } }
def draining : State := live.modChart (fun c => { c with draining := true, drainEnd := 900 })
def arming : State := live.modChart (fun c => { c with armT := some 1001 })
def planA : PlanE := ⟨0x200F, 6, false⟩
def missing : State := (live.modChart (fun c => { c with plan := [(6, planA)] })).modBerth 6 (fun _ => { berth0 with outcome := 4 })
def with5 (f : BerthSt → BerthSt) : State := live.modBerth 5 f
def lanes0 : State := live.modOe 0 (fun o => { o with feed := true, deep := false, sparesTrained := List.range 8 })
def reqA : SpareReq := ⟨3, spareOf 5, 5, 0, false⟩
def asking (r : SpareReq) : State := with5 (fun y => { y with spareReq := some r, cwTx := 5 })
def relocking : State :=
  (live.modOe 0 (fun o => { o with relocking := true })).modBerth 259 (fun y => { y with lstate := 2, dozeAsked := true })
def hdrE : Hdr := { hdrC with kind := 6, fmt := 0, enc := 3, body := 1, coarse := 0, sid := 0, dst := 0x200F }
def frameA (mac : BitVec 48) : EthFrame := ⟨mac, 2, 0x88B5, hdrE.bytes ++ List.replicate 64 0, true⟩
def ethState : State := live.modBerth 259 (fun _ => { berth0 with eth := true, xoffAt := some 900 })
def ethFull : State :=
  { ethState with west := { half0 with pkts := List.replicate 20 { waitingPkt with input := 276, cells := 67 } } }
def ringA : RingSt := { log2 := 4, bases := [], txProd := 1 }
def hdrH : Hdr := { hdrC with src := 0x100D, dst := 0x200F }
def slotA : List Byte := hdrH.bytes ++ List.replicate 256 0
def hostState : State :=
  { withJob with west := { half0 with pool := { built := true, cache := List.range 4096 } }, port := { rings := [(0, ringA)] } }
def i3c (p : U32) : State := live.modPort (fun x => { x with i3cAddr := some 8, i3cPtr := p })
def stage8 : State := atStage 8
def stage9 : State := atStage 9
def stage10 : State := (atStage 10).modChart (fun c => { c with plan := (List.range 260).map (fun b => (b, ⟨0, 0, true⟩)) })
def rejoining : State := { live with west := { half0 with restart := 10 } }
def genState : State := { withJob with parts := [(1, { partA with running := true, startT := some 1000, gens := [(3, { cfg := genA })] })] }
def partG : PartSt := { partA with running := true, startT := some 1000, gens := [(3, { cfg := genA })] }
def goldA : GoldSt := { sid := 7, gen := 1, ack := false, table := 0x20000000, out := 0x20010000, cfg := mfA, begins := 900 }
def goldPayload : List Byte := ({ hdrC with kind := 2 } : Hdr).bytes ++ List.replicate 256 0
def goldB : GoldSt := { goldA with ready := true, expected := [⟨0, 0, goldPayload⟩], waiting := [(5, goldPayload)] }
def partGold (g : GoldSt) : PartSt := { partA with gold := some g }
def golden (g : GoldSt) : State := { withJob with parts := [(1, partGold g)] }


/-! ## Hypotheses that are met: one theorem per statement, one part per clause -/

theorem wit_EmptyQueueIdles : State.reset.pending = [] := rfl

theorem wit_EveryStepKeepsTheModesLegal : State.reset.modesLegal = true ∧ step State.reset = .next State.reset := ⟨by decide, rfl⟩

theorem wit_LifecycleNeverMovesBackwards : State.reset.modesLegal = true ∧ step State.reset = .next State.reset := ⟨by decide, rfl⟩

/-- A step with a command at the front, from legal modes. -/
theorem wit_modes_front : ({ State.reset with pending := [.nonceExpiry] } : State).modesLegal = true ∧
    step { State.reset with pending := [.nonceExpiry] } = .next State.reset := ⟨by decide, rfl⟩

theorem wit_DebugFollowsResetsAndLifecycle : State.reset.boot.rails ≠ 0 ∧
    (State.reset.boot.resetN = false ∧ State.reset.boot.rails = 5 ∧ (true || false) = true) ∧
    (State.reset.modesLegal = true ∧ step State.reset = .next State.reset) := ⟨by decide, ⟨rfl, rfl, rfl⟩, by decide, rfl⟩

theorem wit_WindowOrderDoesNotMatter :
    ([WindowAdd.place ⟨false, false, 3, -48⟩, .combine {}].Perm [.combine {}, .place ⟨false, false, 3, -48⟩]) ∧
    (-(2 ^ 104) ≤ ({} : Window).trueValue + ([WindowAdd.place ⟨false, true, 3, -48⟩].map (WindowAdd.units 0)).sum ∧
      ({} : Window).trueValue + ([WindowAdd.place ⟨false, true, 3, -48⟩].map (WindowAdd.units 0)).sum ≤ 2 ^ 104) ∧
    (-(2 ^ 104) ≤ ({ wrap := 1 } : Window).trueValue + ([].map (WindowAdd.units 0)).sum ∧
      ({ wrap := 1 } : Window).trueValue + ([].map (WindowAdd.units 0)).sum = 2 ^ 104) ∧
    ({} : Window).trueValue = ({} : Window).trueValue :=
  ⟨List.Perm.swap _ _ _, by decide +kernel, by decide +kernel, rfl⟩

theorem wit_IntegerFormatsKeepTheirRange : 0x80 < 2 ^ 8 ∧ 0x80000000 < 2 ^ 32 := by decide

theorem wit_FormatCodes : (0 = 0 ∨ (0xB ≤ 0 ∧ 0 ≤ 0xF)) ∧ (0xF = 0 ∨ (0xB ≤ 0xF ∧ 0xF ≤ 0xF)) := by decide

theorem wit_ZeroBlocksConvertToZero : Fmt.fine .e4m3 = true ∧
    (∀ v ∈ [((⟨false, true, 0, 0⟩ : Val), 0), (⟨true, false, 5, 0⟩, 0)], v.1.mag = 0 ∨ v.1.special = true) ∧
    (Fmt.hasNan .e4m3 = true ∨ ∀ v ∈ [((⟨false, true, 0, 0⟩ : Val), 0), (⟨true, false, 5, 0⟩, 0)], v.1.special = false) := by decide

/-- A message with REPLY set, one with a wrong length, and one with the reserved field nonzero. -/
theorem wit_MalformedMessagesAreNotExecuted :
    ∃ (i : Instr) (s : State) (u : Uci) (c : CmdInfo), i.uciLaw = some (u, c) ∧ s.takes u = true ∧
      (u.len.toNat < 32 ∨ u.len.toNat ≠ 32 + u.bodyLen.toNat ∨ u.hdrVer ≠ 1 ∨ u.flags ≠ 0 ∨ u.rsv = true ∨ u.bodyLen.toNat ≠ c.len) :=
  ⟨.version { uc 0 0xFF with flags := 1 }, up 0, _, _, rfl, by decide +kernel, by decide⟩

theorem wit_MalformedMessages_length :
    ∃ (i : Instr) (s : State) (u : Uci) (c : CmdInfo), i.uciLaw = some (u, c) ∧ s.takes u = true ∧ u.bodyLen.toNat ≠ c.len :=
  ⟨.version (uc 4 0xFF), up 4, _, _, rfl, by decide +kernel, by decide⟩

theorem wit_SendersThatMayNotAreDenied :
    ∃ (i : Instr) (s : State) (u : Uci) (c : CmdInfo), i.uciLaw = some (u, c) ∧ s.takes u = true ∧ s.mayIssue u c.sender = false :=
  ⟨.faultRead (uc 4 0xFF) 0, ((up 4).modChan 0 (fun x => { x with bind := some ⟨5, 15⟩ })).modChan 1 (fun x => { x with bind := some ⟨15, 5⟩ }), _, _, rfl, by decide +kernel, by decide +kernel⟩

theorem wit_SleepingPartsAdmitOnlyTheirCommands :
    (∃ (i : Instr) (s : State) (u : Uci) (c : CmdInfo), i.uciLaw = some (u, c) ∧ s.takes u = true ∧ s.sec.power = 1 ∧ c.doze = false) ∧
    (∃ (i : Instr) (s : State) (u : Uci) (c : CmdInfo), i.uciLaw = some (u, c) ∧ s.takes u = true ∧ s.sec.power = 2 ∧ c.anchor = false) :=
  ⟨⟨.chartArm (uc 8 0xFF) 0, (up 8).modSec (fun x => { x with power := 1 }), _, _, rfl, by decide +kernel, rfl, rfl⟩,
    ⟨.chartArm (uc 8 0xFF) 0, (up 8).modSec (fun x => { x with power := 2 }), _, _, rfl, by decide +kernel, rfl, rfl⟩⟩

theorem wit_MessagesNotTakenChangeNothing :
    ∃ (i : Instr) (s : State) (u : Uci) (c : CmdInfo), i.uciLaw = some (u, c) ∧ s.takes u = false :=
  ⟨.version (uc 0 0xFF), State.reset, _, _, rfl, by decide⟩

theorem wit_MemoryReadsWhatWasWritten : Mem.wf [(3, 7)] = true ∧ (∀ a, Mem.read [(3, 7)] a = Mem.read [(3, 7)] a) := ⟨rfl, fun _ => rfl⟩


theorem wit_AttestationRequestsAnswer : live.spdmPort .doe = true ∧ live.spdmPort (.rgmii 1) = true ∧ live.sec.identity = true ∧
    ((1 : Byte) ≤ 1 ∧ (1 : Byte) ≤ 6) ∧ ((1 : Byte) ≤ 6 ∧ (6 : Byte) ≤ 6) := by decide +kernel

theorem wit_TapInstructionsLoad : live.sec.power ≠ 3 ∧ (debugLive.sec.power ≠ 3 ∧ debugLive.sec.power ≠ 2 ∧ 1 ≤ debugLive.sec.dbg) ∧
    (factory.sec.power ≠ 3 ∧ 2 ≤ factory.sec.dbg ∧ factory.sec.lifecycle = 1) ∧ (srcInfo (0x108 : U16).toNat).isSome = true ∧
    (srcInfo (0 : U16).toNat).isSome = true := by decide +kernel

theorem wit_SecurityAndSupplyEventsComplete :
    ((zeroing false).sec.zero = some (zA false) ∧ (zA false).keysGone = true ∧ (zA false).debugOpen = false ∧ (zA false).lifecycle = none) ∧
    ((off 0).sec.power = 3 ∧ (off 0).boot.rails = (0 : Fin 5).val) ∧ ((off 4).sec.power = 3 ∧ (off 4).boot.rails = (4 : Fin 5).val) ∧
    (live.boot.rails ≠ 0 ∧ 1000 ≤ 1000 ∧ live.boot.rails = 5) := by decide +kernel

theorem wit_WellFormedMessagesSpellTheirHeader :
    ∃ (i : Instr) (u : Uci) (c : CmdInfo), i.uciLaw = some (u, c) ∧ i.wf = true ∧ 32 ≤ u.len.toNat :=
  ⟨.collArm (uciA false msgA) 7 2400100, _, _, rfl, by decide +kernel, by decide⟩

theorem wit_SystemQueriesComplete :
    (∃ (u : Uci) (s : State), (s.served u { code := 0x0101, len := 0, sender := .any, window := true, anchor := true, rom := true } = true)) ∧
    (∃ (u : Uci) (first : U16) (s : State), (s.served u { code := 0x0701, len := 4, window := true, anchor := true } = true)) ∧
    (∃ (u : Uci) (first : U16) (s : State), (s.served u { code := 0x0707, len := 4, window := true, anchor := true } = true)) ∧
    (∃ (u : Uci) (s : State), (s.served u { code := 0x0204, len := 0, window := true } = true)) := by
  refine ⟨⟨uc 0 0xFF, up 0, ?_⟩,
    ⟨uc 4 0xFF, 0xFFFF, up 4, ?_⟩,
    ⟨uc 4 0xFF, 0, up 4, ?_⟩,
    ⟨uc 0 0xFF, up 0, ?_⟩⟩ <;>
    first | decide +kernel | rfl | (intro a b h; exact absurd h (by decide)) | (intro p h; exact absurd h (by decide +kernel)) | exact ctrl_got (by decide +kernel)

theorem wit_StreamCommandsComplete :
    (∃ (u : Uci) (sid : U32) (m : ManifestCfg) (s : State), (s.served u { code := 0x0301, len := 128, sender := .owner, job := true } = true) ∧ (sid.toNat < 2 ^ 20) ∧ (s.manifestBad m u.job.toNat = false) ∧ ((s.stream sid.toNat).state = .free) ∧ (m.job = u.job.toNat) ∧ ((s.stream sid.toNat).pCreate = none) ∧ (s.usesUnmapped m = false) ∧ (s.sec.lifecycle ≠ 4) ∧ (s.streamOut m = false)) ∧
    (∃ (u : Uci) (sid : U32) (cOut : U16) (s : State), (s.served u { code := 0x0302, len := 8, sender := .owner, job := true, doze := false } = true) ∧ (sid.toNat < 2 ^ 20) ∧ ((s.stream sid.toNat).man.any (fun m => m.job != u.job.toNat) = false) ∧ ((s.armCauses sid.toNat (s.now + 1)).all (fun e => !e.2) = true) ∧ ((s.stream sid.toNat).armScaleBad cOut = false)) ∧
    (∃ (u : Uci) (sid : U32) (s : State), (s.served u { code := 0x0303, len := 4, sender := .owner, job := true } = true) ∧ (sid.toNat < 2 ^ 20) ∧ ((s.stream sid.toNat).man.any (fun m => m.job != u.job.toNat) = false) ∧ ((s.stream sid.toNat).state = .live) ∧ ((s.stream sid.toNat).pAbortCmd = false)) ∧
    (∃ (u : Uci) (sid : U32) (s : State), (s.served u { code := 0x0304, len := 4, sender := .owner, job := true } = true) ∧ (sid.toNat < 2 ^ 20) ∧ ((s.stream sid.toNat).man.any (fun m => m.job != u.job.toNat) = false) ∧ ((s.stream sid.toNat).state ≠ .free) ∧ ((s.stream sid.toNat).state ≠ .fencing) ∧ (((s.stream sid.toNat).state = .live → (s.stream sid.toNat).pAbortCmd = true)) ∧ ((s.stream sid.toNat).pCommit = false)) ∧
    (∃ (u : Uci) (sid : U32) (s : State), (s.served u { code := 0x0305, len := 4, sender := .owner, job := true } = true) ∧ (sid.toNat < 2 ^ 20) ∧ ((s.stream sid.toNat).man.any (fun m => m.job != u.job.toNat) = false) ∧ ((s.stream sid.toNat).state ≠ .free) ∧ ((s.stream sid.toNat).state ≠ .fencing) ∧ ((s.stream sid.toNat).pTeardown = false)) ∧
    (∃ (u : Uci) (sid : U32) (s : State), (s.served u { code := 0x0306, len := 4, sender := .owner, job := true } = true) ∧ (sid.toNat < 2 ^ 20) ∧ ((s.stream sid.toNat).man.any (fun m => m.job != u.job.toNat) = false)) ∧
    (∃ (u : Uci) (sid : U32) (pin : Byte) (s : State), (s.served u { code := 0x0307, len := 8, sender := .owner, job := true } = true) ∧ (sid.toNat < 2 ^ 20) ∧ ((s.stream sid.toNat).man.any (fun m => m.job != u.job.toNat) = false) ∧ (pin.toNat ≤ 1) ∧ ((s.stream sid.toNat).cfg.isSome = true) ∧ ((pin = 0 → s.collOf sid.toNat = none)) ∧ ((pin = 1 → s.pinsOver [sid.toNat] = false))) := by
  refine ⟨⟨uc 128 9, 0xFFFFF, mfA, upJob 128, ?_,
     ?_,
     ?_,
     ?_,
     ?_,
     ?_,
     ?_,
     ?_,
     ?_⟩,
    ⟨uc 8 9, 7, 0, upIdle 8, ?_,
     ?_,
     ?_,
     ?_,
     ?_⟩,
    ⟨uc 4 9, 7, upLive 4, ?_,
     ?_,
     ?_,
     ?_,
     ?_⟩,
    ⟨uc 4 9, 7, upIdle 4, ?_,
     ?_,
     ?_,
     ?_,
     ?_,
     ?_,
     ?_⟩,
    ⟨uc 4 9, 7, upLive 4, ?_,
     ?_,
     ?_,
     ?_,
     ?_,
     ?_⟩,
    ⟨uc 4 9, 7, upLive 4, ?_,
     ?_,
     ?_⟩,
    ⟨uc 8 9, 7, 1, upIdle 8, ?_,
     ?_,
     ?_,
     ?_,
     ?_,
     ?_,
     ?_⟩⟩ <;>
    first | decide +kernel | rfl | (intro a b h; exact absurd h (by decide)) | (intro p h; exact absurd h (by decide +kernel)) | exact ctrl_got (by decide +kernel)

theorem wit_CollectiveCommandsComplete :
    (∃ (u : Uci) (cid : U16) (ctl sids : U32) (r : CollSt) (s : State), (r = { ctl := ctlRw ctl, gen := BitVec.ofNat 8 (bitsOf sids.toNat 20 8), sidB := BitVec.ofNat 20 sids.toNat, state := 1, job := u.job.toNat }) ∧ (s.served u { code := 0x0401, len := 12, sender := .owner, job := true } = true) ∧ (cid.toNat < 4096) ∧ ((s.coll cid.toNat).state = 0) ∧ (sids.toNat < 2 ^ 28) ∧ (1 ≤ r.kind) ∧ (r.kind ≤ 10) ∧ ((r.pair = false → r.sidB = 0)) ∧ ((r.pair = true → kindReduces r.kind = true ∧ r.sidA ≠ r.sidB.toNat)) ∧ ((∀ a b : ManifestCfg, r.pair = true → r.sids.filterMap (fun i => s.mfst i) = [a, b] → a.upAddr = b.downAddr ∧ a.downAddr = b.upAddr)) ∧ (s.pinsOver r.sids = false) ∧ ((r.sids.zipIdx.flatMap (fun e => s.bindCauses u.job.toNat e.1 r.kind r.axis (e.2 == 1) r.gen)).all (fun e => !e.2) = true)) ∧
    (∃ (u : Uci) (cid : U16) (t : U64) (s : State), (s.served u { code := 0x0402, len := 16, sender := .owner, job := true, doze := false } = true) ∧ (cid.toNat < 4096) ∧ (t.toNat < 2 ^ 48) ∧ ((s.coll cid.toNat).job = u.job.toNat) ∧ (((s.coll cid.toNat).state = 1 ∨ (s.coll cid.toNat).state = 4 ∨ (s.coll cid.toNat).state = 5)) ∧ ((s.coll cid.toNat).kind ≠ 8) ∧ ((s.coll cid.toNat).teardown = false) ∧ ((s.job u.job.toNat).fenced = false) ∧ (4 ≤ tideSince (t.setWidth 48) s.now) ∧ (tideSince (t.setWidth 48) s.now ≤ 65536) ∧ (((s.coll cid.toNat).sids = [] → s.anySafe = false)) ∧ ((s.armAll (t.setWidth 48) (s.coll cid.toNat).sids).1.all (fun e => !e.2) = true)) ∧
    (∃ (u : Uci) (cid : U16) (s : State), (s.served u { code := 0x0403, len := 4, sender := .owner, job := true } = true) ∧ (cid.toNat < 4096) ∧ (((s.coll cid.toNat).state ≠ 0 → (s.coll cid.toNat).job = u.job.toNat))) ∧
    (∃ (u : Uci) (cid : U16) (s : State), (s.served u { code := 0x0404, len := 4, sender := .owner, job := true } = true) ∧ (cid.toNat < 4096) ∧ ((s.coll cid.toNat).state ≠ 0) ∧ ((s.coll cid.toNat).job = u.job.toNat) ∧ ((s.coll cid.toNat).teardown = false)) ∧
    (∃ (u : Uci) (cid : U16) (round : U32) (table : U64) (entries : U32) (s : State), (s.served u { code := 0x0405, len := 20, sender := .owner, job := true } = true) ∧ (cid.toNat < 4096) ∧ (table.toNat < 2 ^ 34) ∧ ((s.job u.job.toNat).inQuayAt table.toNat (32 * entries.toNat) = true) ∧ ((s.reshardTable table entries.toNat).all (fun e => !e.bad) = true) ∧ ((s.coll cid.toNat).job = u.job.toNat) ∧ ((s.coll cid.toNat).kind = 8) ∧ (((s.coll cid.toNat).state = 1 ∨ (s.coll cid.toNat).state = 4 ∨ (s.coll cid.toNat).state = 5)) ∧ ((s.coll cid.toNat).teardown = false) ∧ ((s.job u.job.toNat).fenced = false) ∧ (s.jobLive u.job.toNat = false) ∧ ((s.job u.job.toNat).outOf (s.job u.job.toNat).step = 0) ∧ ((s.coll cid.toNat).reshard = none) ∧ (s.reshardIn (s.reshardTable table entries.toNat) .east ≤ 2 ^ 32) ∧ (s.reshardIn (s.reshardTable table entries.toNat) .west ≤ 2 ^ 32) ∧ (s.halfOut (Half.ofNum (bitsOf table.toNat 33 1)) = false)) := by
  refine ⟨⟨uc 12 9, 4095, 0x10000007, 0x00500000, { ctl := 0x10000007, gen := 5, sidB := 0, state := 1, job := 9 }, upIdle 12, ?_,
     ?_,
     ?_,
     ?_,
     ?_,
     ?_,
     ?_,
     ?_,
     ?_,
     ?_,
     ?_,
     ?_⟩,
    ⟨uc 16 9, 1, 1004, upColl 16, ?_,
     ?_,
     ?_,
     ?_,
     ?_,
     ?_,
     ?_,
     ?_,
     ?_,
     ?_,
     ?_,
     ?_⟩,
    ⟨uc 4 9, 1, upColl 4, ?_,
     ?_,
     ?_⟩,
    ⟨uc 4 9, 1, upColl 4, ?_,
     ?_,
     ?_,
     ?_,
     ?_⟩,
    ⟨uc 20 9, 2, 1, 0x20000000, 0, upReshard 20, ?_,
     ?_,
     ?_,
     ?_,
     ?_,
     ?_,
     ?_,
     ?_,
     ?_,
     ?_,
     ?_,
     ?_,
     ?_,
     ?_,
     ?_,
     ?_⟩⟩ <;>
    first | decide +kernel | rfl | (intro a b h; exact absurd h (by decide)) | (intro p h; exact absurd h (by decide +kernel)) | exact ctrl_got (by decide +kernel)

theorem wit_IdentityAndOwnersComplete :
    (∃ (u : Uci) (job owner : Byte) (s : State), (s.served u { code := 0x0102, len := 4, window := true } = true) ∧ (job.toNat < 64) ∧ ((owner.toNat ≤ 9 ∨ owner = 0xF)) ∧ (s.jobLive job.toNat = false) ∧ (s.jobUpdating job.toNat = false) ∧ ((s.job job.toNat).granules = [])) ∧
    (∃ (u : Uci) (mode trim : Byte) (parent backup : U16) (start : U64) (s : State), (s.served u { code := 0x0103, len := 16, window := true } = true) ∧ (tideFits mode parent backup start = true) ∧ ((s.tide.running = true → s.anyLive = false ∧ start = 0))) ∧
    (∃ (u : Uci) (berth asym : U16) (s : State), (s.served u { code := 0x0104, len := 4, window := true } = true) ∧ (berth.toNat < 260)) ∧
    (∃ (u : Uci) (s : State), (s.served u { code := 0x0105, len := 0 } = true) ∧ (s.anyLive = false) ∧ (s.tide.cfg.mode = modeFollow) ∧ (s.tide.running = true)) := by
  refine ⟨⟨uc 4 0xFF, 63, 9, up 4, ?_,
     ?_,
     ?_,
     ?_,
     ?_,
     ?_⟩,
    ⟨uc 16 0xFF, 2, 7, 259, 0, 0, up 16, ?_,
     ?_,
     ?_⟩,
    ⟨uc 4 0xFF, 259, 0xFFFF, up 4, ?_,
     ?_⟩,
    ⟨uc 0 0xFF, upFollow 0, ?_,
     ?_,
     ?_,
     ?_⟩⟩ <;>
    first | decide +kernel | rfl | (intro a b h; exact absurd h (by decide)) | (intro p h; exact absurd h (by decide +kernel)) | exact ctrl_got (by decide +kernel)

theorem wit_BerthAndRingCommandsComplete :
    (∃ (u : Uci) (lsx mode : Byte) (etherType : U16) (ownMac peerMac : BitVec 48) (s : State), (s.served u { code := 0x0106, len := 16, window := true } = true) ∧ (lsx.toNat < 4) ∧ (mode.toNat < 2) ∧ ((s.tide.running = true → (s.half (berthHalf (256 + lsx.toNat % 4))).restart ≠ 0))) ∧
    (∃ (u : Uci) (half mode : Byte) (salt : U64) (pages : List U64) (s : State), (s.served u { code := 0x0107, len := 1456, window := true } = true) ∧ (half.toNat < 2) ∧ (mode.toNat < 2) ∧ (pages.length = 180) ∧ (pages.any pageBad = false) ∧ (((s.half (Half.ofNum half.toNat)).started = true ∨ (s.half (Half.ofNum half.toNat)).restart ≠ 0)) ∧ (pages.any (s.pageTaken (Half.ofNum half.toNat)) = false) ∧ ((s.tide.running = true → (s.half (Half.ofNum half.toNat)).restart ≠ 0))) ∧
    (∃ (u : Uci) (target : U16) (state : Byte) (dozeDelay : U32) (s : State), (s.served u { code := 0x0108, len := 8, window := true } = true) ∧ (laneStateOk target.toNat state.toNat dozeDelay.toNat = true) ∧ ((state = 1 ∨ state = 2 → (laneBerths target.toNat).any (fun b => s.isParent b) = false)) ∧ ((state = 2 → (laneBerths target.toNat).any (fun b => s.onRing b) = false)) ∧ ((s.inWindow = true → 8 ≤ s.boot.stage.toNat)) ∧ ((laneBerths target.toNat).any (fun b => s.halfOut (berthHalf b)) = false)) ∧
    (∃ (u : Uci) (berth : U16) (loop pattern : Byte) (s : State), (s.served u { code := 0x0109, len := 4, window := true } = true) ∧ (berth.toNat < 260) ∧ (loop.toNat < 4) ∧ (pattern.toNat < 2) ∧ ((loop = 1 ∨ loop = 2 → (s.berth berth.toNat).up = true → s.quarantined berth.toNat = true)) ∧ ((s.inWindow = true → 8 ≤ s.boot.stage.toNat)) ∧ (s.halfOut (berthHalf berth.toNat) = false) ∧ (((s.berth berth.toNat).loopKind ≠ loop.setWidth 2 ∨ (s.berth berth.toNat).loopPattern ≠ pattern))) ∧
    (∃ (u : Uci) (berth : U16) (loop pattern : Byte) (s : State), (s.served u { code := 0x0109, len := 4, window := true } = true) ∧ (berth.toNat < 260) ∧ (loop.toNat < 4) ∧ (pattern.toNat < 2) ∧ ((loop = 1 ∨ loop = 2 → (s.berth berth.toNat).up = true → s.quarantined berth.toNat = true)) ∧ ((s.inWindow = true → 8 ≤ s.boot.stage.toNat)) ∧ (s.halfOut (berthHalf berth.toNat) = false) ∧ ((s.berth berth.toNat).loopKind = loop.setWidth 2) ∧ ((s.berth berth.toNat).loopPattern = pattern)) ∧
    (∃ (u : Uci) (log2 enable : Byte) (txBase txProd txCons rxBase rxProd rxCons : U64) (s : State), (s.served u { code := 0x010A, len := 56, sender := .func } = true) ∧ (4 ≤ log2.toNat) ∧ (log2.toNat ≤ 12) ∧ (enable.toNat < 2) ∧ (txBase.toNat % 4096 = 0) ∧ (rxBase.toNat % 4096 = 0) ∧ (txProd.toNat % 4 = 0) ∧ (txCons.toNat % 4 = 0) ∧ (rxProd.toNat % 4 = 0) ∧ (rxCons.toNat % 4 = 0) ∧ ((s.senderOf u).toNat ∈ s.port.busMaster) ∧ (s.halfOut .west = false)) := by
  refine ⟨⟨uc 16 0xFF, 3, 1, 0x88B5, 1, 2, early 16, ?_,
     ?_,
     ?_,
     ?_⟩,
    ⟨uc 1456 0xFF, 1, 1, 5, List.replicate 180 0x20000000, earlyHalf 1456, ?_,
     ?_,
     ?_,
     ?_,
     ?_,
     ?_,
     ?_,
     ?_⟩,
    ⟨uc 8 0xFF, 0x800F, 2, 0, up 8, ?_,
     ?_,
     ?_,
     ?_,
     ?_,
     ?_⟩,
    ⟨uc 4 0xFF, 259, 3, 1, up 4, ?_,
     ?_,
     ?_,
     ?_,
     ?_,
     ?_,
     ?_,
     ?_⟩,
    ⟨uc 4 0xFF, 259, 0, 0, up 4, ?_,
     ?_,
     ?_,
     ?_,
     ?_,
     ?_,
     ?_,
     ?_,
     ?_⟩,
    ⟨uc 56 0xFF, 4, 1, 0x1000, 4, 8, 0, 12, 16, up 56, ?_,
     ?_,
     ?_,
     ?_,
     ?_,
     ?_,
     ?_,
     ?_,
     ?_,
     ?_,
     ?_,
     ?_⟩⟩ <;>
    first | decide +kernel | rfl | (intro a b h; exact absurd h (by decide)) | (intro p h; exact absurd h (by decide +kernel)) | exact ctrl_got (by decide +kernel)

theorem wit_ResetAndFirmwareCommandsComplete :
    (∃ (u : Uci) (scope : Byte) (h : Half) (s : State), (s.served u { code := 0x010B, len := 4, window := true } = true) ∧ ((scope = 1 ∨ scope = 2)) ∧ (h = Half.ofNum (scope.toNat - 1)) ∧ ((s.half h.other).inUse = true) ∧ ((s.half h.other).resetAt = none) ∧ ((s.half h).resetAt = none) ∧ ((s.half h).inUse = true)) ∧
    (∃ (u : Uci) (s : State), (s.served u { code := 0x010B, len := 4, window := true, anchor := true } = true)) ∧
    (∃ (u : Uci) (size : U32) (s : State), (s.served u { code := 0x010C, len := 4, window := true, anchor := true, rom := true } = true) ∧ (4096 ≤ size.toNat) ∧ (size.toNat ≤ 2 ^ 24) ∧ ((s.hostLoad = true → s.boot.waitHost = true)) ∧ ((s.boot.fwSize.isSome = true → s.hostLoad = true ∧ s.boot.fwWho = (s.senderOf u).toNat))) ∧
    (∃ (u : Uci) (offset : U32) (len : U16) (data : List Byte) (s : State), (s.served u { code := 0x010D, len := 8 + word4 len.toNat, window := true, anchor := true, rom := true } = true) ∧ (1 ≤ len.toNat) ∧ (len.toNat ≤ 4056) ∧ (data.length = len.toNat) ∧ (s.loading u = true) ∧ ((s.hostLoad = true → s.boot.waitHost = true)) ∧ (offset.toNat + len.toNat ≤ s.boot.fwSize.getD 0) ∧ (offset.toNat = s.boot.fwNext)) ∧
    (∃ (u : Uci) (img : ImageInfo) (s : State), (s.served u { code := 0x010E, len := 0, window := true, anchor := true, rom := true } = true) ∧ (s.loading u = true) ∧ (s.boot.fwSize = some s.boot.fwNext) ∧ (s.imageOk img s.hostLoad = true) ∧ ((s.hostLoad = true → s.boot.waitHost = true))) ∧
    (∃ (u : Uci) (svn : U32) (s : State), (s.served u { code := 0x010F, len := 4, window := true, anchor := true } = true) ∧ (svn.toNat ≤ s.boot.svn) ∧ (s.sec.minSvn.toNat ≤ svn.toNat)) := by
  refine ⟨⟨uc 4 0xFF, 2, .west, up 4, ?_,
     ?_,
     ?_,
     ?_,
     ?_,
     ?_,
     ?_⟩,
    ⟨uc 4 0xFF, up 4, ?_⟩,
    ⟨uc 4 0xFF, 4096, up 4, ?_,
     ?_,
     ?_,
     ?_,
     ?_⟩,
    ⟨uc 12 0xFF, 0, 4, [1, 2, 3, 4], upFw 12 4096 0, ?_,
     ?_,
     ?_,
     ?_,
     ?_,
     ?_,
     ?_,
     ?_⟩,
    ⟨uc 0 0xFF, imgA, upFw 0 4096 4096, ?_,
     ?_,
     ?_,
     ?_,
     ?_⟩,
    ⟨uc 4 0xFF, 1, up 4, ?_,
     ?_,
     ?_⟩⟩ <;>
    first | decide +kernel | rfl | (intro a b h; exact absurd h (by decide)) | (intro p h; exact absurd h (by decide +kernel)) | exact ctrl_got (by decide +kernel)

theorem wit_ChartCommandsComplete :
    (∃ (u : Uci) (section_ : Byte) (index count : U16) (entries : List Byte) (s : State), (s.served u { code := 0x0201, len := 8 + word4 entries.length, window := true } = true) ∧ (chartWriteOk section_.toNat index.toNat count.toNat entries = true) ∧ ((section_ ≠ 8 → s.tide.running = true → s.chartBusy = false))) ∧
    (∃ (u : Uci) (t : U64) (s : State), (s.served u { code := 0x0202, len := 8, doze := false } = true) ∧ (t.toNat < 2 ^ 48) ∧ (s.dateLineClash (s.chartOf (!s.chart.epoch)) = false) ∧ ((List.range 64).any (fun j => s.moving j && s.active.reroutes (s.chartOf (!s.chart.epoch)) j) = false) ∧ (s.chartBusy = false) ∧ (tideReached (s.now + 3) (t.setWidth 48) = false) ∧ (s.anySafe = false)) ∧
    (∃ (u : Uci) (slot section_ : Byte) (index count : U16) (e : Nat × Nat) (s : State), (s.served u { code := 0x0203, len := 8, window := true } = true) ∧ (slot.toNat < 2) ∧ (chartEntry section_.toNat = some e) ∧ (index.toNat + (if section_.toNat = 5 then 1 else count.toNat) ≤ e.2)) ∧
    (∃ (u : Uci) (index : U16) (s : State), (s.served u { code := 0x0205, len := 4, window := true } = true) ∧ (index.toNat < 260) ∧ ((s.berth index.toNat).outcome = 0)) ∧
    (∃ (u : Uci) (index : U16) (b : BundleE) (s : State), (s.served u { code := 0x0205, len := 4, window := true } = true) ∧ (index.toNat < 16) ∧ (Tab.get? s.active.bundles index.toNat = some b) ∧ (b.role ≠ 0) ∧ (b.berths ≠ []) ∧ (b.berths.any (fun k => (s.berth k).outcome != 0) = false)) ∧
    (∃ (u : Uci) (section_ half : Byte) (index count : U16) (entries : List Byte) (s : State), (s.served u { code := 0x0206, len := 8 + word4 entries.length, window := true } = true) ∧ (tmWriteOk section_.toNat half.toNat index.toNat count.toNat entries = true) ∧ (((s.half (Half.ofNum half.toNat)).tmShadow.puts section_.toNat index.toNat (chunksOf (((tmEntry section_.toNat).map (fun e => e.1)).getD 1) count.toNat entries)).twoPolicers = false) ∧ ((s.half (Half.ofNum half.toNat)).tmArmed = false)) ∧
    (∃ (u : Uci) (half : Byte) (s : State), (s.served u { code := 0x0207, len := 4, doze := false } = true) ∧ (half.toNat ≤ 2) ∧ ((halvesOf half.toNat).any (fun h => (s.half h).tmShadow.partitions.any (fun e => !ratesOk e.2)) = false) ∧ ((halvesOf half.toNat).any (fun h => (s.half h).tmArmed) = false) ∧ ((halvesOf half.toNat).all (fun h => decide ((s.half h).tmShadow.reserved ≤ 147456)) = true) ∧ ((halvesOf half.toNat).any (fun h => s.halfSafe h || s.halfOut h) = false)) := by
  refine ⟨⟨uc 12 0xFF, 3, 255, 1, [3, 0, 0, 0], up 12, ?_,
     ?_,
     ?_⟩,
    ⟨uc 8 0xFF, 1004, up 8, ?_,
     ?_,
     ?_,
     ?_,
     ?_,
     ?_,
     ?_⟩,
    ⟨uc 8 0xFF, 1, 8, 259, 1, (8, 260), up 8, ?_,
     ?_,
     ?_,
     ?_⟩,
    ⟨uc 4 0xFF, 5, up 4, ?_,
     ?_,
     ?_⟩,
    ⟨uc 4 0xFF, 0, bunA, upTap 4, ?_,
     ?_,
     ?_,
     ?_,
     ?_,
     ?_⟩,
    ⟨uc 12 0xFF, 1, 1, 7, 1, [1, 0, 0, 0x80], up 12, ?_,
     ?_,
     ?_,
     ?_⟩,
    ⟨uc 4 0xFF, 2, up 4, ?_,
     ?_,
     ?_,
     ?_,
     ?_,
     ?_⟩⟩ <;>
    first | decide +kernel | rfl | (intro a b h; exact absurd h (by decide)) | (intro p h; exact absurd h (by decide +kernel)) | exact ctrl_got (by decide +kernel)

theorem wit_AllocationCommandsComplete :
    (∃ (u : Uci) (stack : Byte) (first count : U32) (s : State), (s.served u { code := 0x0501, len := 12, job := true } = true) ∧ (granulesBad stack.toNat first.toNat count.toNat = false) ∧ (s.jobs.any (fun e => e.1 != u.job.toNat && e.2.granules.any (fun g => runsMeet g.1 g.2 (stack.toNat * 2 ^ 16 + first.toNat) count.toNat)) = false) ∧ (stack.toNat ∉ s.fault.badStacks) ∧ (s.sec.lifecycle ≠ 4)) ∧
    (∃ (u : Uci) (stack : Byte) (first count : U32) (s : State), (s.served u { code := 0x0502, len := 12, job := true } = true) ∧ (granulesBad stack.toNat first.toNat count.toNat = false) ∧ ((rangeFrom (stack.toNat * 2 ^ 16 + first.toNat) count.toNat).all (fun g => (s.job u.job.toNat).owns g) = true) ∧ (s.shards.any (fun e => (e.2.state != 0 || e.2.pCfg.isSome) && e.2.job == u.job.toNat && runsMeet (s.planeRange e.2).1 (s.planeRange e.2).2 ((stack.toNat * 2 ^ 16 + first.toNat) * 2 ^ 21) (count.toNat * 2 ^ 21)) = false)) ∧
    (∃ (u : Uci) (half : Byte) (base size : U64) (s : State), (s.served u { code := 0x0503, len := 24, job := true } = true) ∧ (half.toNat < 2) ∧ (base.toNat % 4096 = 0) ∧ (size.toNat % 4096 = 0) ∧ (base.toNat + size.toNat ≤ 2 ^ 33) ∧ ((size.toNat = 0 ∨ 0x2000_0000 ≤ base.toNat)) ∧ ((s.quayUsed u.job.toNat (Half.ofNum half.toNat)).all (fun r => insideRange base.toNat size.toNat r) = true) ∧ ((s.half (Half.ofNum half.toNat)).pool.pages.any (fun p => bytesMeet base.toNat size.toNat p.toNat 4096) = false) ∧ (s.jobs.any (fun e => e.1 != u.job.toNat && (e.2.quayOf (Half.ofNum half.toNat)).any (fun q => bytesMeet base.toNat size.toNat q.1 q.2)) = false)) := by
  refine ⟨⟨uc 12 9, 15, 0, 2, upJob 12, ?_,
     ?_,
     ?_,
     ?_,
     ?_⟩,
    ⟨uc 12 9, 0, 0, 4, upJob 12, ?_,
     ?_,
     ?_,
     ?_⟩,
    ⟨uc 24 9, 1, 0x20000000, 0x1000, upJob 24, ?_,
     ?_,
     ?_,
     ?_,
     ?_,
     ?_,
     ?_,
     ?_,
     ?_⟩⟩ <;>
    first | decide +kernel | rfl | (intro a b h; exact absurd h (by decide)) | (intro p h; exact absurd h (by decide +kernel)) | exact ctrl_got (by decide +kernel)

theorem wit_JobCommandsComplete :
    (∃ (u : Uci) (seed : U64) (s : State), (s.served u { code := 0x0504, len := 8, sender := .owner, job := true } = true) ∧ (s.stepHeld u.job.toNat = false)) ∧
    (∃ (u : Uci) (step : U64) (s : State), (s.served u { code := 0x0505, len := 8, sender := .owner, job := true } = true) ∧ (step.toNat < 2 ^ 48) ∧ (s.stepHeld u.job.toNat = false)) ∧
    (∃ (u : Uci) (index : U32) (half : Byte) (r : ShardCfg) (h : Half) (x : ShardSt) (s : State), (s.served u { code := 0x0506, len := 72, sender := .owner, job := true } = true) ∧ (half.toNat < 2) ∧ (h = Half.ofNum half.toNat) ∧ (x = { half := h, cfg := r }) ∧ (index.toNat < 2 ^ 20) ∧ (s.shardBad h r = false) ∧ (x.job = u.job.toNat) ∧ ((s.shard? (shardKey h index.toNat)).any (fun o => (o.state != 0 || o.pCfg.isSome) && o.job != u.job.toNat) = false) ∧ ((s.job u.job.toNat).inHold (s.planeRange x).1 (s.planeRange x).2 = true) ∧ ((s.shard? (shardKey h index.toNat)).any (fun o => o.state == 2) = false) ∧ ((s.shard? (shardKey h index.toNat)).any (fun o => o.pCfg.isSome) = false) ∧ (s.halfOut h = false)) ∧
    (∃ (u : Uci) (version : U64) (s : State), (s.served u { code := 0x0507, len := 8, sender := .owner, job := true } = true) ∧ (version.toNat < 2 ^ 48) ∧ ((s.job u.job.toNat).retired.isSome = true) ∧ ((s.job u.job.toNat).isOld (version.setWidth 48) = false) ∧ (version.setWidth 48 ∉ (s.job u.job.toNat).closed) ∧ (version.setWidth 48 ∉ (s.job u.job.toNat).pClose)) ∧
    (∃ (u : Uci) (version : U64) (group : U16) (ranges : List (U32 × U32 × U32)) (rs : List (Nat × Nat × Nat)) (r : List (Nat × Nat × Nat) × State) (s : State), (r = rs.foldl (fun (a : List (Nat × Nat × Nat) × State) r => a.2.prefetchRange u.job.toNat (version.setWidth 48) group a.1 r) ([], (s.taken u).fresh.2)) ∧ (rs = ranges.map (fun r => (r.1.toNat, r.2.1.toNat, r.2.2.toNat))) ∧ (s.served u { code := 0x0508, len := 16 + 12 * rs.length, sender := .owner, job := true, doze := false } = true) ∧ (version.toNat < 2 ^ 48) ∧ (rs.any (fun r => decide (2 ^ 20 ≤ r.1 ∨ 2 ^ 20 < r.2.1 + r.2.2)) = false) ∧ ((s.job u.job.toNat).fenced = false) ∧ (((s.prefetches.filter (fun p => p.job == u.job.toNat)).map (fun p => p.bytesE)).sum + (rs.map (s.prefetchBytes u.job.toNat .east)).sum ≤ 2 ^ 30) ∧ (((s.prefetches.filter (fun p => p.job == u.job.toNat)).map (fun p => p.bytesW)).sum + (rs.map (s.prefetchBytes u.job.toNat .west)).sum ≤ 2 ^ 30) ∧ (s.halfOut .east = false) ∧ (s.halfOut .west = false)) ∧
    (∃ (u : Uci) (index : U32) (half : Byte) (version : U64) (cCopy : U16) (amax : U32) (s : State), (s.served u { code := 0x050D, len := 24, sender := .owner, job := true } = true) ∧ (index.toNat < 2 ^ 20) ∧ (half.toNat < 2) ∧ (version.toNat < 2 ^ 48) ∧ (bf16Ok cCopy.toNat = true) ∧ ((s.shard? (shardKey (Half.ofNum half.toNat) index.toNat)).any (fun o => (o.state != 0 || o.pCfg.isSome) && o.job != u.job.toNat) = false) ∧ ((s.shard? (shardKey (Half.ofNum half.toNat) index.toNat)).all (fun o => o.state == 0 && o.pCfg.isNone) = false) ∧ ((s.shard? (shardKey (Half.ofNum half.toNat) index.toNat)).any (fun o => o.state == 2) = false) ∧ ((s.job u.job.toNat).outstanding.any (fun e => e.2 != 0) = false) ∧ (((s.job u.job.toNat).retired.isSome = true → (s.job u.job.toNat).firstVersion ≠ version.setWidth 48 → s.jobLive u.job.toNat = false)) ∧ (s.halfOut (Half.ofNum half.toNat) = false)) := by
  refine ⟨⟨uc 8 9, 5, upJob 8, ?_,
     ?_⟩,
    ⟨uc 8 9, 0xFFFFFFFFFFFF, upJob 8, ?_,
     ?_,
     ?_⟩,
    ⟨uc 72 9, 3, 0, shA, .east, { half := .east, cfg := shA }, upJob 72, ?_,
     ?_,
     ?_,
     ?_,
     ?_,
     ?_,
     ?_,
     ?_,
     ?_,
     ?_,
     ?_,
     ?_⟩,
    ⟨uc 8 9, 6, upVer 8, ?_,
     ?_,
     ?_,
     ?_,
     ?_,
     ?_⟩,
    ⟨uc 28 9, 6, 0, [(3, 0, 1)], [(3, 0, 1)], _, upJob 28, rfl,
     ?_,
     ?_,
     ?_,
     ?_,
     ?_,
     ?_,
     ?_,
     ?_,
     ?_⟩,
    ⟨uc 24 9, 3, 0, 5, 0x3F80, 0, upShard 24, ?_,
     ?_,
     ?_,
     ?_,
     ?_,
     ?_,
     ?_,
     ?_,
     ?_,
     ?_,
     ?_⟩⟩ <;>
    first | decide +kernel | rfl | (intro a b h; exact absurd h (by decide)) | (intro p h; exact absurd h (by decide +kernel)) | exact ctrl_got (by decide +kernel)

theorem wit_HostTransfersComplete :
    (∃ (u : Uci) (addr : U64) (len : U32) (data : List Byte) (s : State), (s.served u { code := 0x0509, len := 16 + word4 len.toNat, sender := .owner, job := true, doze := false } = true) ∧ (1 ≤ len.toNat) ∧ (len.toNat ≤ 4048) ∧ (addr.toNat < 2 ^ 41) ∧ (data.length = len.toNat) ∧ ((s.job u.job.toNat).inHold addr.toNat len.toNat = true) ∧ (s.holdOut addr.toNat = false)) ∧
    (∃ (u : Uci) (addr : U64) (len : U32) (s : State), (s.served u { code := 0x050A, len := 12, sender := .owner, job := true, doze := false } = true) ∧ (1 ≤ len.toNat) ∧ (len.toNat ≤ 4064) ∧ (addr.toNat < 2 ^ 41) ∧ ((s.job u.job.toNat).inHold addr.toNat len.toNat = true) ∧ (s.holdOut addr.toNat = false)) ∧
    (∃ (u : Uci) (addr : U64) (len : U32) (data : List Byte) (s : State), (s.served u { code := 0x050B, len := 16 + word4 len.toNat, sender := .owner, job := true, doze := false } = true) ∧ (1 ≤ len.toNat) ∧ (len.toNat ≤ 4048) ∧ (addr.toNat < 2 ^ 34) ∧ (data.length = len.toNat) ∧ ((s.job u.job.toNat).inQuayAt addr.toNat len.toNat = true) ∧ (s.halfOut (quayHalf addr.toNat) = false)) ∧
    (∃ (u : Uci) (addr : U64) (len : U32) (s : State), (s.served u { code := 0x050C, len := 12, sender := .owner, job := true, doze := false } = true) ∧ (1 ≤ len.toNat) ∧ (len.toNat ≤ 4064) ∧ (addr.toNat < 2 ^ 34) ∧ ((s.job u.job.toNat).inQuayAt addr.toNat len.toNat = true) ∧ (s.halfOut (quayHalf addr.toNat) = false)) := by
  refine ⟨⟨uc 20 9, 0x100, 2, [1, 2], upJob 20, ?_,
     ?_,
     ?_,
     ?_,
     ?_,
     ?_,
     ?_⟩,
    ⟨uc 12 9, 0x100, 4064, upJob 12, ?_,
     ?_,
     ?_,
     ?_,
     ?_,
     ?_⟩,
    ⟨uc 20 9, 0x20000000, 1, [7], upJob 20, ?_,
     ?_,
     ?_,
     ?_,
     ?_,
     ?_,
     ?_⟩,
    ⟨uc 12 9, 0x20000FFF, 1, upJob 12, ?_,
     ?_,
     ?_,
     ?_,
     ?_,
     ?_⟩⟩ <;>
    first | decide +kernel | rfl | (intro a b h; exact absurd h (by decide)) | (intro p h; exact absurd h (by decide +kernel)) | exact ctrl_got (by decide +kernel)

theorem wit_RecipeCommandsComplete :
    (∃ (u : Uci) (image : U16) (offset : U32) (len : U16) (data : List Byte) (s : State), (s.served u { code := 0x0601, len := 16 + word4 len.toNat, sender := .owner, job := true, doze := false } = true) ∧ (image.toNat ≤ 0xEF) ∧ (1 ≤ len.toNat) ∧ (len.toNat ≤ 4048) ∧ (data.length = len.toNat) ∧ (offset.toNat + len.toNat ≤ recipeMemory) ∧ ((s.job u.job.toNat).fenced = false) ∧ (s.shards.any (fun e => e.2.state == 2 && e.2.job == u.job.toNat && e.2.image == image.toNat) = false) ∧ (Tab.get? (s.job u.job.toNat).imgArmed image.toNat = none) ∧ (s.anySafe = false)) ∧
    (∃ (u : Uci) (image : U16) (offset : U32) (len : U16) (data : List Byte) (r : Recipe) (s : State), (s.served u { code := 0x0601, len := 16 + word4 len.toNat, sender := .owner, job := true, doze := false } = true) ∧ (image.toNat ≤ 0xEF) ∧ (1 ≤ len.toNat) ∧ (len.toNat ≤ 4048) ∧ (data.length = len.toNat) ∧ (offset.toNat + len.toNat ≤ recipeMemory) ∧ ((s.job u.job.toNat).fenced = false) ∧ (s.shards.any (fun e => e.2.state == 2 && e.2.job == u.job.toNat && e.2.image == image.toNat) = false) ∧ (Tab.get? (s.job u.job.toNat).imgArmed image.toNat = none) ∧ (s.anySafe = false) ∧ (recipeOf (((rangeFrom offset.toNat len.toNat).zip data).foldl (fun (t : List (Nat × Byte)) e => Tab.set t e.1 e.2) (Tab.get [] (s.job u.job.toNat).loading image.toNat)) = some r) ∧ (r.bad = false) ∧ ((s.job u.job.toNat).recipeUsed (some image.toNat) none + r.bytes ≤ recipeMemory)) ∧
    (∃ (u : Uci) (block : Byte) (scalars : List U32) (s : State), (s.served u { code := 0x0602, len := 260, sender := .owner, job := true } = true) ∧ (scalars.length = 64) ∧ ((s.job u.job.toNat).fenced = false) ∧ ((s.job u.job.toNat).recipeUsed none (some block.toNat) ≤ recipeMemory)) ∧
    (∃ (u : Uci) (image : U16) (s : State), (s.served u { code := 0x0604, len := 4, sender := .owner, job := true } = true) ∧ (image.toNat ≤ 0xEF) ∧ ((s.job u.job.toNat).fenced = false) ∧ (s.shards.any (fun e => (e.2.state != 0 || e.2.pCfg.isSome) && e.2.job == u.job.toNat && (e.2.image == image.toNat || e.2.pCfg.any (fun c => bitsOf c.ctl.toNat 16 8 == image.toNat))) = false)) ∧
    (∃ (u : Uci) (shard : U32) (s : State), (s.served u { code := 0x0603, len := 4, sender := .owner, job := true } = true) ∧ (shard.toNat < 2 ^ 20) ∧ (s.shardForeign u.job.toNat shard.toNat = false)) := by
  refine ⟨⟨uc 20 9, 0xEF, 65532, 4, [1, 2, 3, 4], upJob 20, ?_,
     ?_,
     ?_,
     ?_,
     ?_,
     ?_,
     ?_,
     ?_,
     ?_,
     ?_⟩,
    ⟨uc 48 9, 2, 0, 32, imgBytes, recipeA, upJob 48, ?_,
     ?_,
     ?_,
     ?_,
     ?_,
     ?_,
     ?_,
     ?_,
     ?_,
     ?_,
     ?_,
     ?_,
     ?_⟩,
    ⟨uc 260 9, 255, List.replicate 64 0, upJob 260, ?_,
     ?_,
     ?_,
     ?_⟩,
    ⟨uc 4 9, 0xEF, upJob 4, ?_,
     ?_,
     ?_,
     ?_⟩,
    ⟨uc 4 9, 0xFFFFF, upJob 4, ?_,
     ?_,
     ?_⟩⟩ <;>
    first | decide +kernel | rfl | (intro a b h; exact absurd h (by decide)) | (intro p h; exact absurd h (by decide +kernel)) | exact ctrl_got (by decide +kernel)

theorem wit_FaultCommandsComplete :
    (∃ (u : Uci) (source n : U16) (wLog2 : Byte) (s : State), (s.served u { code := 0x0702, len := 8, window := true } = true) ∧ ((srcInfo source.toNat).any (fun i => !i.fixed) = true) ∧ (n ≠ 0) ∧ (4 ≤ wLog2.toNat) ∧ (wLog2.toNat ≤ 30)) ∧
    (∃ (u : Uci) (scope : Byte) (maskIndex : U16) (s : State), (s.served u { code := 0x0703, len := 8 } = true) ∧ (scope.toNat ≤ 3) ∧ ((scope.toNat = 0 → maskIndex.toNat ≤ 8)) ∧ (s.scopeSafe scope.toNat maskIndex.toNat = true) ∧ ((s.fault.therm && !s.fault.hot.isEmpty) = false) ∧ ((scope.toNat ≠ 3 → s.fault.pkgSafe = false)) ∧ ((scope.toNat = 0 → s.leaving maskIndex.toNat ≠ [])) ∧ ((scope.toNat ≠ 0 → s.stillSevere scope.toNat = false ∧ s.blockFailed scope.toNat = false ∧ s.latchMissing scope.toNat = false))) ∧
    (∃ (u : Uci) (kind : Byte) (index : U16) (o : FenceObj) (s : State), (s.served u { code := 0x0704, len := 8 } = true) ∧ (fenceObj kind.toNat index.toNat = some o) ∧ (s.fault.fences.find? (fun f => f.obj == o) = none) ∧ ((match o with | .engine h _ => s.halfOut h | .berth b => s.halfOut (berthHalf b.val) | .job _ => false) = false)) ∧
    (∃ (u : Uci) (kind : Byte) (index : U16) (o : FenceObj) (f : FenceSt) (s : State), (s.served u { code := 0x0704, len := 8 } = true) ∧ (fenceObj kind.toNat index.toNat = some o) ∧ (s.fault.fences.find? (fun f => f.obj == o) = some f) ∧ (f.internal = false) ∧ (f.enableAt = none) ∧ ((match o with | .engine h _ => s.halfOut h | .berth b => s.halfOut (berthHalf b.val) | .job _ => false) = false)) := by
  refine ⟨⟨uc 8 0xFF, freeSrc, 1, 30, up 8, ?_,
     ?_,
     ?_,
     ?_,
     ?_⟩,
    ⟨uc 8 0xFF, 0, 8, upSafe 8, ?_,
     ?_,
     ?_,
     ?_,
     ?_,
     ?_,
     ?_,
     ?_⟩,
    ⟨uc 8 0xFF, 1, 259, .berth 259, up 8, ?_,
     ?_,
     ?_,
     ?_⟩,
    ⟨uc 8 0xFF, 2, 9, .job 9, ⟨.job 9, 900, true, true, none, false⟩, upFence 8, ?_,
     ?_,
     ?_,
     ?_,
     ?_,
     ?_⟩⟩ <;>
    first | decide +kernel | rfl | (intro a b h; exact absurd h (by decide)) | (intro p h; exact absurd h (by decide +kernel)) | exact ctrl_got (by decide +kernel)

theorem wit_RepairCommandsComplete :
    (∃ (u : Uci) (berth : U16) (lane spareIdx engine tile : Byte) (s : State), (s.served u { code := 0x0705, len := 8 } = true) ∧ (berth.toNat < 256) ∧ (lane.toNat < 4) ∧ (spareIdx.toNat = spareOf berth.toNat) ∧ (s.spareFree berth.toNat = true) ∧ ((s.berth berth.toNat).spareReq = none) ∧ ((s.berth berth.toNat).up = true) ∧ (s.halfOut (berthHalf berth.toNat) = false)) ∧
    (∃ (u : Uci) (berth : U16) (lane spareIdx engine tile : Byte) (s : State), (s.served u { code := 0x0705, len := 8 } = true) ∧ (engine.toNat < 40) ∧ (tile.toNat < 8) ∧ (s.unmapped (engHalf engine.toNat) (engine.toNat % 20) = false) ∧ ((s.spareTile (engHalf engine.toNat) (engine.toNat % 20)).isSome = true) ∧ ((s.tile (tileKey (engHalf engine.toNat) (engine.toNat % 20) tile.toNat)).pSub = none) ∧ (s.halfOut (engHalf engine.toNat) = false)) ∧
    (∃ (u : Uci) (half logical physical : Byte) (s : State), (s.served u { code := 0x0706, len := 4 } = true) ∧ (half.toNat < 2) ∧ (logical.toNat < 20) ∧ (physical.toNat < 20) ∧ ((List.range 20).all (fun e => e == logical.toNat || (Tab.get (s.physEng (Half.ofNum half.toNat) e) (s.half (Half.ofNum half.toNat)).pEngMap e != physical.toNat && s.physEng (Half.ofNum half.toNat) e != physical.toNat)) = true) ∧ (8 ≤ ((s.half (Half.ofNum half.toNat)).inService physical.toNat).length) ∧ (physical.toNat ∉ (s.half (Half.ofNum half.toNat)).badEngines) ∧ (s.halfOut (Half.ofNum half.toNat) = false)) ∧
    (∃ (u : Uci) (engine tile : Byte) (first count : U16) (s : State), (s.served u { code := 0x0708, len := 8, doze := false } = true) ∧ (engine.toNat < 40) ∧ (tile.toNat < 8) ∧ (1 ≤ count.toNat) ∧ (count.toNat ≤ 240) ∧ (first.toNat + count.toNat ≤ 65536) ∧ (s.tileLive (tileKey (engHalf engine.toNat) (engine.toNat % 20) tile.toNat) = false) ∧ (s.unmapped (engHalf engine.toNat) (engine.toNat % 20) = false) ∧ (s.halfOut (engHalf engine.toNat) = false)) ∧
    (∃ (u : Uci) (engine tile : Byte) (first count : U16) (images : List (BitVec 128)) (s : State), (s.served u { code := 0x0709, len := 8 + 16 * count.toNat, doze := false } = true) ∧ (engine.toNat < 40) ∧ (tile.toNat < 8) ∧ (1 ≤ count.toNat) ∧ (count.toNat ≤ 240) ∧ (first.toNat + count.toNat ≤ 65536) ∧ (images.length = count.toNat) ∧ (images.all imageOk = true) ∧ (s.tileLive (tileKey (engHalf engine.toNat) (engine.toNat % 20) tile.toNat) = false) ∧ (s.unmapped (engHalf engine.toNat) (engine.toNat % 20) = false) ∧ (s.halfOut (engHalf engine.toNat) = false)) ∧
    (∃ (u : Uci) (half : Byte) (first : U32) (count : U16) (s : State), (s.served u { code := 0x070A, len := 12, window := true } = true) ∧ (half.toNat < 2) ∧ (1 ≤ count.toNat) ∧ (count.toNat ≤ 1016) ∧ (first.toNat + count.toNat ≤ 184320) ∧ (s.halfOut (Half.ofNum half.toNat) = false)) ∧
    (∃ (u : Uci) (half : Byte) (s : State), (s.served u { code := 0x070B, len := 4 } = true) ∧ (half.toNat < 2) ∧ (s.halfOut (Half.ofNum half.toNat) = false)) := by
  refine ⟨⟨uc 8 0xFF, 5, 3, BitVec.ofNat 8 (spareOf 5), 0, 0, upLane 8, ?_,
     ?_,
     ?_,
     ?_,
     ?_,
     ?_,
     ?_,
     ?_⟩,
    ⟨uc 8 0xFF, 0, 0, 0, 39, 7, up 8, ?_,
     ?_,
     ?_,
     ?_,
     ?_,
     ?_,
     ?_⟩,
    ⟨uc 4 0xFF, 1, 19, 19, up 4, ?_,
     ?_,
     ?_,
     ?_,
     ?_,
     ?_,
     ?_,
     ?_⟩,
    ⟨uc 8 0xFF, 39, 7, 65535, 1, up 8, ?_,
     ?_,
     ?_,
     ?_,
     ?_,
     ?_,
     ?_,
     ?_,
     ?_⟩,
    ⟨uc 24 0xFF, 0, 0, 0, 1, [0], up 24, ?_,
     ?_,
     ?_,
     ?_,
     ?_,
     ?_,
     ?_,
     ?_,
     ?_,
     ?_,
     ?_⟩,
    ⟨uc 12 0xFF, 1, 184319, 1, up 12, ?_,
     ?_,
     ?_,
     ?_,
     ?_,
     ?_⟩,
    ⟨uc 4 0xFF, 0, up 4, ?_,
     ?_,
     ?_⟩⟩ <;>
    first | decide +kernel | rfl | (intro a b h; exact absurd h (by decide)) | (intro p h; exact absurd h (by decide +kernel)) | exact ctrl_got (by decide +kernel)

theorem wit_PowerAndSecurityCommandsComplete :
    (∃ (u : Uci) (state : Byte) (s : State), (s.served u { code := 0x0801, len := 4, sender := .privSec, window := true, anchor := true } = true) ∧ (state.toNat ≤ 2) ∧ (powerStep s.sec.power.toNat state.toNat = true) ∧ (s.inWindow = false) ∧ ((state.toNat = 1 → s.dozeBlocked = false ∧ s.safeInForce = false)) ∧ ((state.toNat = 2 → s.anchorBlocked = false)) ∧ ((s.sec.power.toNat = 2 → s.fault.pkgSafe = false)) ∧ (s.sec.pPower = none)) ∧
    (∃ (u : Uci) (s : State), (s.served u { code := 0x0802, len := 0, sender := .privSec, window := true, anchor := true } = true) ∧ (s.sec.authFails < 8)) ∧
    (∃ (u : Uci) (s : State), (s.served u { code := 0x0804, len := 0, sender := .privSec, window := true, anchor := true } = true) ∧ (s.sec.dbg ≠ 0) ∧ (s.securityPending = false)) ∧
    (∃ (u : Uci) (scope : Byte) (z : ZeroSt) (s : State), (s.served u { code := 0x0806, len := 4, sender := .privSec, job := scope == 0, window := true } = true) ∧ (scope.toNat < 2) ∧ (z = { job := if scope = 0 then some u.job.toNat else none, keysGone := false, granules := [], debugOpen := false, lifecycle := none }) ∧ (s.zeroLive z = false) ∧ (s.zeroBusy z = false) ∧ (s.securityPending = false)) ∧
    (∃ (u : Uci) (s : State), (s.served u { code := 0x0807, len := 0, sender := .privSec, window := true, anchor := true } = true) ∧ (s.standbyReady = true)) := by
  refine ⟨⟨uc 4 0xFF, 1, up 4, ?_,
     ?_,
     ?_,
     ?_,
     ?_,
     ?_,
     ?_,
     ?_⟩,
    ⟨uc 0 0xFF, up 0, ?_,
     ?_⟩,
    ⟨uc 0 0xFF, upDebug 0, ?_,
     ?_,
     ?_⟩,
    ⟨uc 4 9, 0, { job := some 9, keysGone := false, granules := [], debugOpen := false, lifecycle := none }, upJob 4, ?_,
     ?_,
     ?_,
     ?_,
     ?_,
     ?_⟩,
    ⟨uc 0 0xFF, up 0, ?_,
     ?_⟩⟩ <;>
    first | decide +kernel | rfl | (intro a b h; exact absurd h (by decide)) | (intro p h; exact absurd h (by decide +kernel)) | exact ctrl_got (by decide +kernel)

theorem wit_SignedCommandsComplete :
    (∃ (u : Uci) (target : Byte) (signature : BitVec 768) (s : State), (s.served u { code := 0x0803, len := 100, sender := .privSec, window := true, anchor := true } = true) ∧ (target = 1) ∧ (s.sec.dbg = 0) ∧ (2 ≤ s.sec.lifecycle.toNat) ∧ (s.sec.lifecycle.toNat ≤ 4) ∧ ((s.sec.power = 0 ∨ s.sec.power = 2)) ∧ (s.anyLive = false) ∧ (s.shards.any (fun e => e.2.state == 2) = false) ∧ (s.securityPending = false) ∧ ((s.sec.lifecycle.toNat = 3 → s.sec.ownerKey = true))) ∧
    (∃ (u : Uci) (target : Byte) (signature : BitVec 768) (s : State), (s.served u { code := 0x0805, len := 100, sender := .privSec, window := true, anchor := true } = true) ∧ (1 ≤ target.toNat) ∧ (target.toNat ≤ 4) ∧ (s.mayMove target.toNat = true) ∧ (s.securityPending = false)) := by
  refine ⟨⟨uc 100 0xFF, 1, 0, upNonce 100, ?_,
     ?_,
     ?_,
     ?_,
     ?_,
     ?_,
     ?_,
     ?_,
     ?_,
     ?_⟩,
    ⟨uc 100 0xFF, 4, 0, upNonce 100, ?_,
     ?_,
     ?_,
     ?_,
     ?_⟩⟩ <;>
    first | decide +kernel | rfl | (intro a b h; exact absurd h (by decide)) | (intro p h; exact absurd h (by decide +kernel)) | exact ctrl_got (by decide +kernel)

theorem wit_TelemetryCommandsComplete :
    (∃ (u : Uci) (set : Byte) (first count : U16) (s : State), (s.served u { code := 0x0901, len := 8, sender := if set.toNat = 4 then .owner else .priv, job := set.toNat == 4, window := true } = true) ∧ (set.toNat ≤ 5) ∧ (first.toNat + count.toNat ≤ (counterKeys set.toNat u.job.toNat).length)) ∧
    (∃ (u : Uci) (k : Byte) (threshold : U32) (s : State), (s.served u { code := 0x0902, len := 8, sender := .owner, job := true } = true) ∧ ((k = 0 ∨ (6 ≤ k.toNat ∧ k.toNat ≤ 16)))) ∧
    (∃ (u : Uci) (sid : U32) (j : Byte) (key : U32) (s : State), (s.served u { code := 0x0903, len := 12, sender := .owner, job := true } = true) ∧ (sid.toNat < 2 ^ 20) ∧ ((s.stream sid.toNat).man.any (fun m => m.job != u.job.toNat) = false) ∧ ((j = 0xFF ∨ j.toNat ≤ 16)) ∧ (key.toNat < 2 ^ 20) ∧ ((s.stream sid.toNat).cfg.any (fun m => m.op == 1) = true) ∧ ((s.stream sid.toNat).cfg.any (fun m => s.streamOut m) = false)) ∧
    (∃ (u : Uci) (index : U32) (s : State), (s.served u { code := 0x0904, len := 8, sender := .owner, job := true } = true) ∧ (index.toNat < 2 ^ 20) ∧ ((s.stream index.toNat).man.any (fun m => m.job != u.job.toNat) = false)) ∧
    (∃ (u : Uci) (index : U32) (s : State), (s.served u { code := 0x0904, len := 8, sender := .owner, job := true } = true) ∧ (index.toNat < 2 ^ 20) ∧ (s.shardForeign u.job.toNat index.toNat = false)) ∧
    (∃ (u : Uci) (half session source dir vc : Byte) (analysis : U16) (key : U32) (flow : U16) (job : Byte) (s : State), (s.served u { code := 0x0905, len := 16 } = true) ∧ (half.toNat < 2) ∧ (session.toNat < 8) ∧ (source.toNat ≤ 3) ∧ (mirrorBad source.toNat dir.toNat vc.toNat analysis.toNat key.toNat job.toNat = false) ∧ ((source ≠ 0 → s.analysisBerth analysis.toNat = true)) ∧ (s.halfOut (Half.ofNum half.toNat) = false)) := by
  refine ⟨⟨uc 8 9, 4, 0, 2, upJob 8, ?_,
     ?_,
     ?_⟩,
    ⟨uc 8 9, 6, 1, upJob 8, ?_,
     ?_⟩,
    ⟨uc 12 9, 7, 16, 0xFFFFF, upIdle 12, ?_,
     ?_,
     ?_,
     ?_,
     ?_,
     ?_,
     ?_⟩,
    ⟨uc 8 9, 7, upIdle 8, ?_,
     ?_,
     ?_⟩,
    ⟨uc 8 9, 0xFFFFF, upIdle 8, ?_,
     ?_,
     ?_⟩,
    ⟨uc 16 0xFF, 0, 7, 1, 3, 7, 5, 259, 0, 0, upTap 16, ?_,
     ?_,
     ?_,
     ?_,
     ?_,
     ?_,
     ?_⟩⟩ <;>
    first | decide +kernel | rfl | (intro a b h; exact absurd h (by decide)) | (intro p h; exact absurd h (by decide +kernel)) | exact ctrl_got (by decide +kernel)

theorem wit_SamplerCommandsComplete :
    (∃ (u : Uci) (part persona whole : Byte) (addr : U32) (berths : BitVec 264) (engines : U64) (p : PartSt) (s : State), (s.served u { code := 0x0A01, len := 56, sender := if whole == 1 then .priv else .owner, job := true } = true) ∧ (p = { job := u.job.toNat, switchPersona := persona == 1, whole := whole == 1, addr := addr, berths := maskOf 260 (whole == 1) berths.toNat, engines := maskOf 40 (whole == 1) engines.toNat }) ∧ (part.toNat < 4) ∧ (persona.toNat < 2) ∧ (whole.toNat < 2) ∧ (berths.toNat < 2 ^ 260) ∧ (engines.toNat < 2 ^ 40) ∧ ((whole = 1 → s.streams.any (fun e => e.2.state != .free || e.2.pCreate.isSome) = false ∧ s.shards.any (fun e => e.2.state != 0 || e.2.pCfg.isSome) = false)) ∧ (s.fault.fences.any (fun f => !f.internal && decide (f.obj ∈ p.objects)) = false) ∧ (Tab.get? s.parts part.toNat = none) ∧ (p.berths ≠ []) ∧ (p.engines ≠ []) ∧ (p.berths.any (fun b => (s.berth b).eth) = false) ∧ (s.parts.any (fun e => e.2.berths.any (fun b => decide (b ∈ p.berths)) || e.2.engines.any (fun g => decide (g ∈ p.engines))) = false) ∧ (p.berths.any (fun b => s.halfOut (berthHalf b)) = false) ∧ (p.engines.any (fun e => s.halfOut (engHalf e)) = false)) ∧
    (∃ (u : Uci) (g : SamplerGenCfg) (p : PartSt) (s : State), (s.served u { code := 0x0A02, len := 64, sender := .owner, job := true } = true) ∧ (Tab.get? s.parts g.part.toNat = some p) ∧ (p.job = u.job.toNat) ∧ (p.active = true) ∧ (p.pDestroy = false) ∧ ((p.whole = true → privileged (s.senderOf u) = true)) ∧ (genFieldsBad g = false) ∧ ((s.job u.job.toNat).inQuayAt (genArea g).1 (genArea g).2 = true) ∧ (s.genLongest g ≤ g.spacing.toNat) ∧ (s.genLate g = false) ∧ (g.berth.toNat ∈ p.berths) ∧ (p.running = false) ∧ (p.genFits g.berth.toNat = true) ∧ (p.gens.any (fun e => s.genOverlap g e.2.cfg) = false)) ∧
    (∃ (u : Uci) (part : Byte) (berth trigger : U16) (pre : Byte) (post : U16) (mode : Byte) (ring : U64) (entries : U32) (p : PartSt) (s : State), (s.served u { code := 0x0A03, len := 28, sender := .owner, job := true } = true) ∧ (Tab.get? s.parts part.toNat = some p) ∧ (p.job = u.job.toNat) ∧ (p.active = true) ∧ (p.pDestroy = false) ∧ ((p.whole = true → privileged (s.senderOf u) = true)) ∧ (berth.toNat < 260) ∧ (trigger.toNat < 2 ^ 11) ∧ (pre.toNat ≤ 15) ∧ (mode.toNat < 2) ∧ (entries.toNat ≤ 65536) ∧ ((s.job u.job.toNat).inQuayAt ring.toNat (4608 * entries.toNat) = true) ∧ (berth.toNat ∈ p.berths)) ∧
    (∃ (u : Uci) (part ack : Byte) (sid : U32) (gen : Byte) (table out : U64) (m : ManifestCfg) (p : PartSt) (s : State), (s.served u { code := 0x0A04, len := 152, sender := .owner, job := true } = true) ∧ (Tab.get? s.parts part.toNat = some p) ∧ (p.job = u.job.toNat) ∧ (p.active = true) ∧ (p.pDestroy = false) ∧ ((p.whole = true → privileged (s.senderOf u) = true)) ∧ (sid.toNat < 2 ^ 20) ∧ (ack.toNat < 2) ∧ (s.manifestBad m u.job.toNat = false) ∧ (m.job = u.job.toNat) ∧ ((s.job u.job.toNat).inQuayAt table.toNat 1 = true) ∧ ((s.job u.job.toNat).inQuayAt out.toNat 1 = true)) ∧
    (∃ (u : Uci) (part : Byte) (t : U64) (p : PartSt) (s : State), (s.served u { code := 0x0A05, len := 16, sender := .owner, job := true } = true) ∧ (Tab.get? s.parts part.toNat = some p) ∧ (p.job = u.job.toNat) ∧ (p.active = true) ∧ (p.pDestroy = false) ∧ ((p.whole = true → privileged (s.senderOf u) = true)) ∧ (t.toNat < 2 ^ 48) ∧ (4 ≤ tideSince (BitVec.ofNat 48 t.toNat) s.now) ∧ (tideSince (BitVec.ofNat 48 t.toNat) s.now ≤ 65536) ∧ (p.gens.any (fun e => s.genLate e.2.cfg) = false) ∧ (p.gens.any (fun e => p.gens.any (fun f => s.genOverlap e.2.cfg f.2.cfg)) = false) ∧ (p.berths.any (fun b => s.berthSafe b) = false)) ∧
    (∃ (u : Uci) (part : Byte) (p : PartSt) (s : State), (s.served u { code := 0x0A06, len := 4, sender := .owner, job := true } = true) ∧ (Tab.get? s.parts part.toNat = some p) ∧ (p.job = u.job.toNat) ∧ (p.active = true) ∧ (p.pDestroy = false) ∧ ((p.whole = true → privileged (s.senderOf u) = true)) ∧ (p.running = true)) ∧
    (∃ (u : Uci) (part : Byte) (p : PartSt) (s : State), (s.served u { code := 0x0A07, len := 4, sender := .owner, job := true } = true) ∧ (Tab.get? s.parts part.toNat = some p) ∧ (p.job = u.job.toNat) ∧ (p.active = true) ∧ (p.pDestroy = false) ∧ ((p.whole = true → privileged (s.senderOf u) = true))) ∧
    (∃ (u : Uci) (part : Byte) (p : PartSt) (s : State), (s.served u { code := 0x0A08, len := 4, sender := .owner, job := true } = true) ∧ (Tab.get? s.parts part.toNat = some p) ∧ (p.job = u.job.toNat) ∧ (p.active = true) ∧ (p.pDestroy = false) ∧ ((p.whole = true → privileged (s.senderOf u) = true))) := by
  refine ⟨⟨uc 56 9, 3, 1, 0, 1, 1, 1, { job := 9, switchPersona := true, whole := false, addr := 1, berths := [0], engines := [0] }, upJob 56, ?_,
     ?_,
     ?_,
     ?_,
     ?_,
     ?_,
     ?_,
     ?_,
     ?_,
     ?_,
     ?_,
     ?_,
     ?_,
     ?_,
     ?_,
     ?_⟩,
    ⟨uc 64 9, genA, partA, upPart 64, ?_,
     ?_,
     ?_,
     ?_,
     ?_,
     ?_,
     ?_,
     ?_,
     ?_,
     ?_,
     ?_,
     ?_,
     ?_,
     ?_⟩,
    ⟨uc 28 9, 1, 5, 0x7FF, 15, 0, 1, 0x20000000, 0, partA, upPart 28, ?_,
     ?_,
     ?_,
     ?_,
     ?_,
     ?_,
     ?_,
     ?_,
     ?_,
     ?_,
     ?_,
     ?_,
     ?_⟩,
    ⟨uc 152 9, 1, 1, 0xFFFFF, 1, 0x20000000, 0x20000FFF, mfA, partA, upPart 152, ?_,
     ?_,
     ?_,
     ?_,
     ?_,
     ?_,
     ?_,
     ?_,
     ?_,
     ?_,
     ?_,
     ?_⟩,
    ⟨uc 16 9, 1, 1004, partA, upPart 16, ?_,
     ?_,
     ?_,
     ?_,
     ?_,
     ?_,
     ?_,
     ?_,
     ?_,
     ?_,
     ?_,
     ?_⟩,
    ⟨uc 4 9, 1, partRun, upRun 4, ?_,
     ?_,
     ?_,
     ?_,
     ?_,
     ?_,
     ?_⟩,
    ⟨uc 4 9, 1, partA, upPart 4, ?_,
     ?_,
     ?_,
     ?_,
     ?_,
     ?_⟩,
    ⟨uc 4 9, 1, partA, upPart 4, ?_,
     ?_,
     ?_,
     ?_,
     ?_,
     ?_⟩⟩ <;>
    first | decide +kernel | rfl | (intro a b h; exact absurd h (by decide)) | (intro p h; exact absurd h (by decide +kernel)) | exact ctrl_got (by decide +kernel)

theorem wit_TideEventsComplete :
    (∃ (faults : List HwFault) (s : State), (s.tide.counting = true) ∧ (s.tide.running = true)) ∧
    (∃ (faults : List HwFault) (s : State), (s.tide.counting = true) ∧ (s.tide.running = false) ∧ (s.boot.resetDue = false)) ∧
    (∃ (time low high : Nat) (s : State), (s.tide.cfg.mode = modeFollow) ∧ (8 ≤ low) ∧ (8 ≤ high) ∧ (high ≤ 200)) ∧
    (∃ (now : Nat) (s : State), (s.tide.running = true) ∧ (s.tide.cfg.mode = modeFollow) ∧ (s.tide.holdover = false) ∧ (s.tide.lastFollowed + 8002 ≤ now)) ∧
    (∃ (b : Berth) (cyc : Nat) (frac : BitVec 4) (s : State), ((s.berth b.val).up = true) ∧ ((s.berth b.val).eth = false) ∧ (s.berthSafe b.val = false) ∧ (cyc < s.tide.len) ∧ (s.tide.beyondStamp cyc = false) ∧ ((∀ p, (s.berth b.val).alignAt = some p → p + (if s.isParent b.val || s.servesChild b.val then 1 else 256) ≤ s.tide.periods))) ∧
    (∃ (b : Berth) (c : AlignCell) (cyc : Nat) (frac : BitVec 4) (v t : State) (s : State), ((s.berth b.val).up = true) ∧ ((s.berth b.val).eth = false) ∧ (s.berthSafe b.val = false) ∧ (s.tide.beyondStamp cyc = false) ∧ (v = s.modBerth b.val (fun y => y.noteAlign s.tide.periods (s.isParent b.val))) ∧ (t = (if c.counting then v.modBerth b.val (fun y => { y with lastAlign := some (c, s.tide.start + cyc) }) else v))) ∧
    (∃ (s : State), (s.tide.counting = true) ∧ (s.tide.running = true) ∧ (s.tide.cfg.mode = modeGenerate) ∧ (64 ≤ s.tide.sincePrimary)) ∧
    (∃ (s : State), (s.tide.counting = true) ∧ (s.tide.running = false) ∧ (s.tide.cfg.mode = modeGenerate) ∧ (64 ≤ s.tide.sincePrimary) ∧ (s.tide.onBackup = false) ∧ (s.tide.cfg.backup.toNat ≠ 0xFFFF)) ∧
    (∃ (h : Half) (eng : Fin 20) (tile : Fin 8) (k : Nat) (u : TileWork) (t : State) (s : State), (k = tileKey h eng.val tile.val) ∧ ((s.tile k).running = some u) ∧ (t = ((s.modTile k (fun t => { t with running := none })).raiseWith h (s.physEng h eng.val) (engineDetail (s.tile k).phys 3 0xFFFF u.sid)).modTide (fun t => { t with overrun := true, overruns := satAdd 32 t.overruns 1 }))) := by
  refine ⟨⟨[], live, ?_,
     ?_⟩,
    ⟨[.pkgLine 1], early0, ?_,
     ?_,
     ?_⟩,
    ⟨8000, 8, 200, follow, ?_,
     ?_,
     ?_,
     ?_⟩,
    ⟨8002, follow, ?_,
     ?_,
     ?_,
     ?_⟩,
    ⟨5, 3999, 15, live, ?_,
     ?_,
     ?_,
     ?_,
     ?_,
     ?_⟩,
    ⟨5, ⟨0, 0, 0, false, false, false, 3⟩, 3999, 15, (live.modBerth 5 (fun y => y.noteAlign 1000 (live.isParent 5))), (live.modBerth 5 (fun y => y.noteAlign 1000 (live.isParent 5))), live, ?_,
     ?_,
     ?_,
     ?_,
     ?_,
     ?_⟩,
    ⟨genLost, ?_,
     ?_,
     ?_,
     ?_⟩,
    ⟨genEarly, ?_,
     ?_,
     ?_,
     ?_,
     ?_,
     ?_⟩,
    ⟨.east, 0, 0, 0, .chunk 7 0, (((work.modTile 0 (fun t => { t with running := none })).raiseWith .east 0 (engineDetail 0 3 0xFFFF 7)).modTide (fun t => { t with overrun := true, overruns := satAdd 32 t.overruns 1 })), work, ?_,
     ?_,
     ?_⟩⟩ <;>
    first | decide +kernel | rfl | (intro a b h; exact absurd h (by decide)) | (intro p h; exact absurd h (by decide +kernel)) | exact ctrl_got (by decide +kernel)

theorem wit_CapturingReadsComplete :
    (∃ (who : BitVec 4) (cyc : Nat) (s : State), (s.portOk who = true) ∧ (s.tide.running = true)) ∧
    (∃ (who : BitVec 4) (cyc : Nat) (s : State), (s.portOk who = true) ∧ (s.tide.running = false)) ∧
    (∃ (who : BitVec 4) (s : State), (s.portOk who = true)) ∧
    (∃ (who : BitVec 4) (s : State), (s.portOk who = true)) ∧
    (∃ (who : BitVec 4) (s : State), (s.portOk who = true)) := by
  refine ⟨⟨8, 4000, live, ?_,
     ?_⟩,
    ⟨8, 1, early0, ?_,
     ?_⟩,
    ⟨8, live, ?_⟩,
    ⟨9, live, ?_⟩,
    ⟨0, live, ?_⟩⟩ <;>
    first | decide +kernel | rfl | (intro a b h; exact absurd h (by decide)) | (intro p h; exact absurd h (by decide +kernel)) | exact ctrl_got (by decide +kernel)

theorem wit_EngineEventsComplete :
    (∃ (h : Half) (eng : Fin 20) (tile : Fin 8) (cyc k : Nat) (w : CellWork) (m : ManifestCfg) (ph : Half) (p : Pkt) (err : Option TileFault) (s : State), (k = tileKey h eng.val tile.val) ∧ (s.blocked k cyc 3 = false) ∧ (s.nextCell k = some w) ∧ (s.mfst w.sid = some m) ∧ (s.findPkt w.pid = some (ph, p)) ∧ (s.cellFresh w = true) ∧ (s.fits k cyc (1 + s.cellExtra w) = true)) ∧
    (∃ (h : Half) (eng : Fin 20) (tile : Fin 8) (cyc k : Nat) (w : CellWork) (m : ManifestCfg) (ph : Half) (p : Pkt) (err : Option TileFault) (s : State), (k = tileKey h eng.val tile.val) ∧ (s.blocked k cyc 3 = false) ∧ (s.nextCell k = some w) ∧ (s.mfst w.sid = some m) ∧ (s.findPkt w.pid = some (ph, p)) ∧ (s.cellFresh w = false) ∧ (s.fits k cyc 1 = true)) ∧
    (∃ (h : Half) (eng : Fin 20) (tile : Fin 8) (slot : Fin 16) (cyc k : Nat) (e : Nat × ChunkSlot) (m : ManifestCfg) (err : Option TileFault) (s : State), (k = tileKey h eng.val tile.val) ∧ (s.blocked k cyc 2 = false) ∧ (s.fits k cyc costSpill = true) ∧ ((s.tile k).slots.find? (fun e => e.1 % 16 == slot.val && (s.mfst e.2.sid).any (fun m => (s.stream e.2.sid).state == .live && s.needsSpill m e.2 k)) = some e) ∧ (s.mfst e.2.sid = some m)) ∧
    (∃ (sid : Sid) (chunk : U16) (srcHalf : Half) (srcEng : Fin 20) (srcTile : Fin 8) (cyc j k : Nat) (m : ManifestCfg) (err : Option TileFault) (s : State), (j = tileKey srcHalf srcEng.val srcTile.val) ∧ (s.mfst sid.toNat = some m) ∧ (m.windowTiles.find? (fun k => s.nextKid sid.toNat m chunk.toNat k == some j) = some k) ∧ (s.blocked k cyc 2 = false) ∧ (s.combineOver sid.toNat m chunk.toNat k j = false) ∧ (s.fits k cyc (s.combineCost sid.toNat m chunk.toNat j) = true)) ∧
    (∃ (sid : Sid) (chunk : U16) (cyc : Nat) (m : ManifestCfg) (s : State), (s.mfst sid.toNat = some m) ∧ (s.convReady sid.toNat m chunk.toNat = true) ∧ (s.blocked m.root cyc 1 = false) ∧ (s.fits m.root cyc costConvert = true)) ∧
    (∃ (sid : Sid) (chunk : U16) (cyc : Nat) (m : ManifestCfg) (f : TileFault) (s : State), (s.mfst sid.toNat = some m) ∧ (s.convReady sid.toNat m chunk.toNat = true) ∧ (s.blocked m.root cyc 1 = false) ∧ (s.fits m.root cyc costConvert = true)) ∧
    (∃ (sid : Sid) (chunk : U16) (m : ManifestCfg) (s : State), (s.mfst sid.toNat = some m) ∧ (m.fuse ≠ 0) ∧ ((s.stream sid.toNat).state = .live) ∧ (chunk.toNat < m.chunkCount) ∧ (((s.stream sid.toNat).chunk chunk.toNat).fuseLoaded = false)) ∧
    (∃ (h : Half) (eng : Fin 20) (tile : Fin 8) (cyc k : Nat) (d : DrainFor) (rest : List DrainFor) (s : State), (k = tileKey h eng.val tile.val) ∧ ((s.tile k).drainsWaiting = d :: rest) ∧ ((s.tile k).draining = none) ∧ (s.fits k cyc costDrain = true)) ∧
    (∃ (h : Half) (eng : Fin 20) (tile : Fin 8) (k : Nat) (d : DrainFor) (s : State), (k = tileKey h eng.val tile.val) ∧ ((s.tile k).draining = some d)) ∧
    (∃ (h : Half) (index : BitVec 20) (chunk : U16) (eng : Fin 20) (tile : Fin 8) (cyc key k : Nat) (x : ShardSt) (r : Recipe) (rc : RecChunk) (ue : Option (BitVec 41)) (s : State), (key = shardKey h index.toNat) ∧ (k = tileKey h eng.val tile.val) ∧ (s.shard? key = some x) ∧ (x.state = 2) ∧ (s.blocked k cyc 4 = false) ∧ (x.image ∉ (s.job x.job).imageBad) ∧ (s.imageOf x = some r) ∧ (s.nextSection x chunk.toNat eng.val tile.val = some rc) ∧ ((!rc.quant && rc.pc == 0 && x.stamped chunk.toNat (s.job x.job).step.toNat) = false)) := by
  refine ⟨⟨.east, 0, 0, 200, 0, wA, mfA, .east, pktC, some ⟨3, true, false⟩, work, ?_,
     ?_,
     ?_,
     ?_,
     ?_,
     ?_,
     ?_⟩,
    ⟨.east, 0, 0, 200, 0, wA, mfA, .east, pktC, some ⟨3, true, false⟩, workStale, ?_,
     ?_,
     ?_,
     ?_,
     ?_,
     ?_,
     ?_⟩,
    ⟨.east, 0, 0, 0, 200, 0, slotS, mfS, none, workSpill, ?_,
     ?_,
     ?_,
     ?_,
     ?_⟩,
    ⟨7, 0, .east, 0, 1, 200, 1, 0, mfT, none, workTree, ?_,
     ?_,
     ?_,
     ?_,
     ?_,
     ?_⟩,
    ⟨7, 0, 200, mfA, workConv, ?_,
     ?_,
     ?_,
     ?_⟩,
    ⟨7, 0, 200, mfA, ⟨0, false, false⟩, workConv, ?_,
     ?_,
     ?_,
     ?_⟩,
    ⟨7, 0, mfF, workFuse, ?_,
     ?_,
     ?_,
     ?_,
     ?_⟩,
    ⟨.east, 0, 0, 200, 0, .abort 7, [], workDrain, ?_,
     ?_,
     ?_,
     ?_⟩,
    ⟨.east, 0, 0, 0, .abort 7, workDraining, ?_,
     ?_⟩,
    ⟨.east, 3, 0, 0, 0, 200, 3, 0, shX, recipeA, rcA, none, workRec, ?_,
     ?_,
     ?_,
     ?_,
     ?_,
     ?_,
     ?_,
     ?_,
     ?_⟩⟩ <;>
    first | decide +kernel | rfl | (intro a b h; exact absurd h (by decide)) | (intro p h; exact absurd h (by decide +kernel)) | exact ctrl_got (by decide +kernel)

theorem wit_StreamEventsComplete :
    (∃ (h : Half) (pid : Nat) (p : Pkt) (s : State), (s.readyPkt h pid 1 = some p) ∧ (s.queuedPkt pid = false)) ∧
    (∃ (h : Half) (sid : Sid) (t : State) (s : State), (sid.toNat ∈ (s.half h).mcache.fetching) ∧ (t = s.modHalf h (fun x => { x with mcache := x.mcache.fill sid.toNat }))) ∧
    (∃ (h : Half) (pid : Nat) (p : Pkt) (s : State), (s.readyPkt h pid 2 = some p)) ∧
    (∃ (sid : Sid) (chunk : U16) (m : ManifestCfg) (t : TideNo) (s : State), (s.mfst sid.toNat = some m) ∧ (((s.stream sid.toNat).chunk chunk.toNat).clock = some t) ∧ ((s.stream sid.toNat).state = .live) ∧ (tideReached (s.now + 1) (t + BitVec.ofNat 48 m.patience) = true) ∧ (s.chunkHere sid.toNat m chunk.toNat = false)) ∧
    (∃ (sid : Sid) (s : State), ((s.stream sid.toNat).state = .fencing) ∧ ((s.east.pkts ++ s.west.pkts).any (fun p => p.ofStream sid.toNat) = false) ∧ (s.tiles.any (fun e => e.2.draining == some (.abort sid.toNat) || e.2.drainsWaiting.contains (.abort sid.toNat)) = false) ∧ ((s.stream sid.toNat).resends = [])) ∧
    (∃ (sid : Sid) (t : TideNo) (s : State), ((s.stream sid.toNat).state = .fencing) ∧ ((s.stream sid.toNat).torn = some t) ∧ (tideReached s.now (t + 64) = true)) ∧
    (∃ (addr : U32) (t : State) (s : State), (s.peerGone addr.toNat = true) ∧ (t = { s with lost := Tab.set s.lost addr.toNat s.now })) := by
  refine ⟨⟨.east, 40, pktC, workPkt, ?_,
     ?_⟩,
    ⟨.east, 7, (workFetch.modHalf .east (fun x => { x with mcache := x.mcache.fill 7 })), workFetch, ?_,
     ?_⟩,
    ⟨.east, 41, pktR, workRes, ?_⟩,
    ⟨7, 0, mfA, 900, workLate, ?_,
     ?_,
     ?_,
     ?_,
     ?_⟩,
    ⟨7, fencing, ?_,
     ?_,
     ?_,
     ?_⟩,
    ⟨7, 900, fencing, ?_,
     ?_,
     ?_⟩,
    ⟨0x200F, _, gone, ?_,
     rfl⟩⟩ <;>
    first | decide +kernel | rfl | (intro a b h; exact absurd h (by decide)) | (intro p h; exact absurd h (by decide +kernel)) | exact ctrl_got (by decide +kernel)

theorem wit_StreamCellsComplete :
    (∃ (c : Ctrl) (sid : Sid) (gen : Byte) (t : State) (m : ManifestCfg) (s : State), (s.ctrlIn c (.streamStart sid gen) = (t, true)) ∧ (t.mfst sid.toNat = some m) ∧ (m.hasDown = true) ∧ (c.src = m.downAddr)) ∧
    (∃ (c : Ctrl) (sid : Sid) (gen : Byte) (failChunk : U16) (status : BitVec 4) (t : State) (m : ManifestCfg) (s : State), (s.ctrlIn c (.streamAbort sid gen failChunk status) = (t, true)) ∧ (t.mfst sid.toNat = some m) ∧ ((t.stream sid.toNat).gen = gen) ∧ ((t.stream sid.toNat).state = .live) ∧ (c.src ∈ t.peersOf m) ∧ (2 ≤ status) ∧ (status ≤ 8)) ∧
    (∃ (c : Ctrl) (sid : Sid) (gen : Byte) (failChunk : U16) (t : State) (m : ManifestCfg) (s : State), (s.ctrlIn c (.poison sid gen failChunk) = (t, true)) ∧ (t.mfst sid.toNat = some m) ∧ ((t.stream sid.toNat).gen = gen) ∧ (((t.stream sid.toNat).state = .live ∨ (t.stream sid.toNat).state = .retaining)) ∧ (((2 ≤ m.ringN ∧ c.src = m.upAddr) ∨ c.src ∈ t.childAddrs m))) ∧
    (∃ (c : Ctrl) (sid : Sid) (gen : Byte) (chunk count : U16) (t : State) (m : ManifestCfg) (good : Nat → Bool) (s : State), (s.ctrlIn c (.resultAck sid gen chunk count) = (t, true)) ∧ (t.mfst sid.toNat = some m) ∧ ((t.stream sid.toNat).gen = gen) ∧ (count ≠ 0) ∧ (c.src ∈ t.consumers m) ∧ (good = (fun i => ((t.stream sid.toNat).chunk i).released && !((t.stream sid.toNat).chunk i).freed))) ∧
    (∃ (c : Ctrl) (sid : Sid) (gen : Byte) (chunk : U16) (elemOff : BitVec 12) (seg : BitVec 2) (t : State) (m : ManifestCfg) (s : State), (s.ctrlIn c (.resendReq sid gen chunk elemOff seg) = (t, true)) ∧ ((t.stream sid.toNat).cfg = some m) ∧ (((t.stream sid.toNat).state = .live ∨ (t.stream sid.toNat).state = .retaining)) ∧ ((t.stream sid.toNat).gen = gen) ∧ (m.releaser = true) ∧ (((t.stream sid.toNat).chunk chunk.toNat).freed = false) ∧ (((t.stream sid.toNat).chunk chunk.toNat).retained.any (fun p => p.elemOff == elemOff.toNat && p.seg == seg.toNat) = true)) ∧
    (∃ (c : Ctrl) (sid : Sid) (gen : Byte) (chunk : U16) (elemOff : BitVec 12) (seg : BitVec 2) (addr : BitVec 33) (t u : State) (m : ManifestCfg) (s : State), (s.ctrlIn c (.resendReq sid gen chunk elemOff seg) = (t, true)) ∧ ((t.stream sid.toNat).cfg = some m) ∧ (((t.stream sid.toNat).state = .live ∨ (t.stream sid.toNat).state = .retaining)) ∧ ((t.stream sid.toNat).gen = gen) ∧ (m.releaser = true) ∧ (((t.stream sid.toNat).chunk chunk.toNat).freed = false) ∧ (((t.stream sid.toNat).chunk chunk.toNat).retained.any (fun p => p.elemOff == elemOff.toNat && p.seg == seg.toNat) = true) ∧ (u = t.raiseWith m.home 36 (accessDetail (m.home.num * 2 ^ 33 + addr.toNat)))) := by
  refine ⟨⟨cOf (.streamStart 7 0), 7, 0, (State.ctrlIn (ringLive) (cOf (.streamStart 7 0)) (.streamStart (7) (0))).1, mfR, ringLive, ctrl_got (by decide +kernel),
     ?_,
     ?_,
     ?_⟩,
    ⟨cOf (.streamAbort 7 0 0 8), 7, 0, 0, 8, (State.ctrlIn (ringLive) (cOf (.streamAbort 7 0 0 8)) (.streamAbort (7) (0) (0) (8))).1, mfR, ringLive, ctrl_got (by decide +kernel),
     ?_,
     ?_,
     ?_,
     ?_,
     ?_,
     ?_⟩,
    ⟨cOf (.poison 7 0 0), 7, 0, 0, (State.ctrlIn (ringLive) (cOf (.poison 7 0 0)) (.poison (7) (0) (0))).1, mfR, ringLive, ctrl_got (by decide +kernel),
     ?_,
     ?_,
     ?_,
     ?_⟩,
    ⟨cOf (.resultAck 7 0 0 1), 7, 0, 0, 1, (State.ctrlIn (ringOut) (cOf (.resultAck 7 0 0 1)) (.resultAck (7) (0) (0) (1))).1, mfR, _, ringOut, ctrl_got (by decide +kernel),
     ?_,
     ?_,
     ?_,
     ?_,
     rfl⟩,
    ⟨cOf (.resendReq 7 0 0 0 0), 7, 0, 0, 0, 0, (State.ctrlIn (ringOut) (cOf (.resendReq 7 0 0 0 0)) (.resendReq (7) (0) (0) (0) (0))).1, mfR, ringOut, ctrl_got (by decide +kernel),
     ?_,
     ?_,
     ?_,
     ?_,
     ?_,
     ?_⟩,
    ⟨cOf (.resendReq 7 0 0 0 0), 7, 0, 0, 0, 0, 7, (State.ctrlIn (ringOut) (cOf (.resendReq 7 0 0 0 0)) (.resendReq (7) (0) (0) (0) (0))).1, _, mfR, ringOut, ctrl_got (by decide +kernel),
     ?_,
     ?_,
     ?_,
     ?_,
     ?_,
     ?_,
     rfl⟩⟩ <;>
    first | decide +kernel | rfl | (intro a b h; exact absurd h (by decide)) | (intro p h; exact absurd h (by decide +kernel)) | exact ctrl_got (by decide +kernel)

theorem wit_ReshardEventsComplete :
    (∃ (h : Half) (pid : Nat) (p : Pkt) (cid : Nat) (j : CollSt) (r : ReshardSt) (s : State), (s.readyPkt h pid 5 = some p) ∧ (s.reshardOf p.hdr.job = some (cid, j, r)) ∧ (r.writing = false)) ∧
    (∃ (c : Ctrl) (round : U32) (t : State) (cid : Nat) (j : CollSt) (r : ReshardSt) (s : State), (s.ctrlIn c (.reshardEnd round) = (t, true)) ∧ (t.reshardOf c.job.toNat = some (cid, j, r)) ∧ (r.round = round)) ∧
    (∃ (cid : BitVec 12) (entry : Nat) (r : ReshardSt) (e : ReshardEntry) (t : State) (s : State), ((s.coll cid.toNat).reshard = some r) ∧ (r.entries[entry]? = some e) ∧ (e.sent = false) ∧ (r.writing = false) ∧ ((s.coll cid.toNat).state = 3) ∧ (t = ((if (s.job (s.coll cid.toNat).job).inHold e.srcAddr e.length then (List.range (e.length / 4096)).map (fun i => 4096 * i) else []).foldl (fun (u : State) o => if addrSwitch e.dstSwitch.toNat == addrSwitch s.own then u.stage cid.toNat (e.dstAddr + o) (u.holdRead (s.coll cid.toNat).job (e.srcAddr + o) 4096) else u.inject (holdHalf e.srcAddr) ((u.half (holdHalf e.srcAddr)).stackPort (holdStack e.srcAddr)) (u.reshardHdr (s.coll cid.toNat) e.dstSwitch (e.dstAddr + o) 4096) (u.holdRead (s.coll cid.toNat).job (e.srcAddr + o) 4096) false) s).modReshard cid.toNat (fun r => { r with entries := setAt r.entries entry { e with sent := true } }))) ∧
    (∃ (cid : BitVec 12) (r : ReshardSt) (s : State), ((s.coll cid.toNat).reshard = some r) ∧ ((s.coll cid.toNat).state = 3) ∧ (r.ready = true) ∧ (r.writing = false)) ∧
    (∃ (cid : BitVec 12) (r : ReshardSt) (s : State), ((s.coll cid.toNat).reshard = some r) ∧ ((s.coll cid.toNat).state = 3) ∧ (r.writing = true)) ∧
    (∃ (cid : BitVec 12) (r : ReshardSt) (s : State), ((s.coll cid.toNat).reshard = some r) ∧ (r.writing = false) ∧ (tideReached s.now r.deadline = true)) := by
  refine ⟨⟨.east, 42, pktX, 2, collOf roundA, roundA, resharding roundA, ?_,
     ?_,
     ?_⟩,
    ⟨cOf (.reshardEnd 1), 1, (State.ctrlIn (resharding roundA) (cOf (.reshardEnd 1)) (.reshardEnd (1))).1, 2, collOf roundA, roundA, resharding roundA, ctrl_got (by decide +kernel),
     ?_,
     ?_⟩,
    ⟨2, 0, roundA, entryA, _, resharding roundA, ?_,
     ?_,
     ?_,
     ?_,
     ?_,
     rfl⟩,
    ⟨2, roundDone, resharding roundDone, ?_,
     ?_,
     ?_,
     ?_⟩,
    ⟨2, { roundDone with writing := true }, resharding { roundDone with writing := true }, ?_,
     ?_,
     ?_⟩,
    ⟨2, { roundA with deadline := 1000 }, resharding { roundA with deadline := 1000 }, ?_,
     ?_,
     ?_⟩⟩ <;>
    first | decide +kernel | rfl | (intro a b h; exact absurd h (by decide)) | (intro p h; exact absurd h (by decide +kernel)) | exact ctrl_got (by decide +kernel)

theorem wit_GatherEventsComplete :
    (∃ (c : Ctrl) (tensor first : BitVec 20) (count : U16) (version : TideNo) (dest : U32) (mcast : Bool) (t : State) (k : Nat) (x : ShardSt) (s : State), (s.ctrlIn c (.gatherReq tensor first count version dest mcast) = (t, true)) ∧ (t.fresh.2.gatherReason c.job.toNat tensor.toNat first.toNat count.toNat version = none) ∧ (t.fresh.2.shardOf c.job.toNat tensor.toNat first.toNat count.toNat = some (k, x))) ∧
    (∃ (gid : Nat) (g : Gather) (x : ShardSt) (s : State), (s.gathers.find? (fun g => g.id == gid && !g.waiting) = some g) ∧ (s.shard? g.shard = some x)) ∧
    (∃ (gid : Nat) (g : Gather) (x : ShardSt) (a : BitVec 41) (s : State), (s.gathers.find? (fun g => g.id == gid && !g.waiting) = some g) ∧ (s.shard? g.shard = some x)) ∧
    (∃ (gid : Nat) (g : Gather) (s : State), (s.gathers.find? (fun g => g.id == gid && g.waiting) = some g) ∧ (tideReached s.now (g.asked + 65536) = true)) ∧
    (∃ (id : Nat) (p : Prefetch) (s : State), (s.prefetches.find? (fun p => p.id == id) = some p)) ∧
    (∃ (id : Nat) (p : Prefetch) (a : BitVec 41) (t : State) (s : State), (s.prefetches.find? (fun p => p.id == id) = some p) ∧ (t = { s with prefetches := s.prefetches.filter (fun q => q.id != id) })) := by
  refine ⟨⟨cOf (.gatherReq 0 0 1 6 0x200F false), 0, 0, 1, 6, 0x200F, false, (State.ctrlIn (gathering false) (cOf (.gatherReq 0 0 1 6 0x200F false)) (.gatherReq (0) (0) (1) (6) (0x200F) (false))).1, 3, shG, gathering false, ctrl_got (by decide +kernel),
     ?_,
     ?_⟩,
    ⟨60, gatherA false, shG, gathering false, ?_,
     ?_⟩,
    ⟨60, gatherA false, shG, 9, gathering false, ?_,
     ?_⟩,
    ⟨60, gatherA true, gathering true, ?_,
     ?_⟩,
    ⟨61, pfA, prefetching, ?_⟩,
    ⟨61, pfA, 9, _, prefetching, ?_,
     rfl⟩⟩ <;>
    first | decide +kernel | rfl | (intro a b h; exact absurd h (by decide)) | (intro p h; exact absurd h (by decide +kernel)) | exact ctrl_got (by decide +kernel)

theorem wit_SwitchEventsComplete :
    (∃ (h : Half) (sub : Fin 384) (cw : U32) (head : List Byte) (b : Nat) (s : State), (sub.val < 288) ∧ (inputBerth h sub.val = some b) ∧ (cwType cw ≠ 3)) ∧
    (∃ (h : Half) (sub : Fin 384) (cw : U32) (head : List Byte) (b : Nat) (s : State), (sub.val < 288) ∧ (inputBerth h sub.val = some b) ∧ (cwType cw = 3)) ∧
    (∃ (h : Half) (sub : Fin 384) (cw : U32) (head : List Byte) (s : State), (288 ≤ sub.val) ∧ ((s.half h).started = true)) ∧
    (∃ (h : Half) (pid : Nat) (p : Pkt) (t : State) (s : State), ((s.half h).pkt? pid = some p) ∧ (p.waiting = true) ∧ (t = (s.allocatePkt h pid).launch h pid)) ∧
    (∃ (h : Half) (pid : Nat) (rest : List Byte) (crc : U32) (p : Pkt) (s : State), ((s.half h).pkt? pid = some p) ∧ (p.whole = false) ∧ (p.feeder.isSome = false)) ∧
    (∃ (h : Half) (pid : Nat) (rest : List Byte) (crc : U32) (p : Pkt) (s : State), ((s.half h).pkt? pid = some p) ∧ (p.whole = false) ∧ (p.feeder.isSome = true)) ∧
    (∃ (h : Half) (s : State), ((s.half h).started = true)) ∧
    (∃ (h : Half) (p : PalletSt) (good : List Nat) (s : State), (p = (s.half h).pool) ∧ (p.built = true) ∧ (p.p6 = false) ∧ (p.cache.length < 1024) ∧ (1024 ≤ p.count) ∧ (p.spanOk p.head = true) ∧ (good = ((rangeFrom p.head 1024).map (fun i => leNat ((s.quay h).readBytes (p.entryAt i) 4))).filter (fun e => decide (e < 184320)))) ∧
    (∃ (h : Half) (p : PalletSt) (s : State), (p = (s.half h).pool) ∧ (p.built = true) ∧ (p.p6 = false) ∧ (p.cache.length < 1024) ∧ (1024 ≤ p.count) ∧ (p.spanOk p.head = false)) := by
  refine ⟨⟨.east, 5, 0, [], 5, live, ?_,
     ?_,
     ?_⟩,
    ⟨.east, 5, 0xC0000000, [], 5, live, ?_,
     ?_,
     ?_⟩,
    ⟨.east, 288, 0, [], live, ?_,
     ?_⟩,
    ⟨.east, 43, waitingPkt, _, pktState, ?_,
     ?_,
     rfl⟩,
    ⟨.east, 44, [], 0, comingPkt, pktState, ?_,
     ?_,
     ?_⟩,
    ⟨.west, 45, [], 0, bridgePkt, pktState, ?_,
     ?_,
     ?_⟩,
    ⟨.west, live, ?_⟩,
    ⟨.east, poolOf [], _, poolState [], ?_,
     ?_,
     ?_,
     ?_,
     ?_,
     ?_,
     rfl⟩,
    ⟨.east, poolOf [1], poolState [1], ?_,
     ?_,
     ?_,
     ?_,
     ?_,
     ?_⟩⟩ <;>
    first | decide +kernel | rfl | (intro a b h; exact absurd h (by decide)) | (intro p h; exact absurd h (by decide +kernel)) | exact ctrl_got (by decide +kernel)

theorem wit_FabricEventsComplete :
    (∃ (bundle : Fin 16) (e : BundleE) (s : State), (Tab.get? s.active.bundles bundle.val = some e) ∧ (s.tide.running = true) ∧ (s.active.bypass.getLsbD bundle.val = true) ∧ (1 ≤ e.role) ∧ (e.role ≤ 6) ∧ (e.berths.all (fun b => s.downFour b) = true)) ∧
    (∃ (s : State), (s.chart.draining = true) ∧ (tideReached s.now s.chart.drainEnd = true) ∧ (s.holdsEpoch (!s.chart.epoch) = false)) ∧
    (∃ (t : TideNo) (s : State), (s.chart.armT = some t) ∧ (tideReached (s.now + 1) t = true)) ∧
    (∃ (b : Berth) (s : State), ((s.berth b.val).up = true) ∧ ((s.berth b.val).eth = false) ∧ (s.berthSafe b.val = false) ∧ ((∀ p, (s.berth b.val).discoverAt = some p → p + 256 ≤ s.tide.periods))) ∧
    (∃ (b : Berth) (c : DiscoverCell) (s : State), ((s.berth b.val).up = true) ∧ ((s.berth b.val).eth = false) ∧ (s.berthSafe b.val = false)) ∧
    (∃ (b : Berth) (p : PlanE) (s : State), ((s.berth b.val).up = true) ∧ ((s.berth b.val).eth = false) ∧ ((s.berth b.val).seen = none) ∧ (Tab.get? s.chart.plan b.val = some p) ∧ (p.unused = false) ∧ ((s.berth b.val).outcome ≠ 3) ∧ ((s.berth b.val).upTide.toNat + 64 ≤ s.tide.periods)) ∧
    (∃ (h : Half) (j : Fin 96) (t : State) (s : State), (t = (s.raiseLine h 42).modHalves (fun _ x => { x with pBridgeDown := insertNew j.val x.pBridgeDown }))) := by
  refine ⟨⟨0, bunA, bypassing, ?_,
     ?_,
     ?_,
     ?_,
     ?_,
     ?_⟩,
    ⟨draining, ?_,
     ?_,
     ?_⟩,
    ⟨1001, arming, ?_,
     ?_⟩,
    ⟨5, live, ?_,
     ?_,
     ?_,
     ?_⟩,
    ⟨5, ⟨0, 0, 1, 0, false, false⟩, live, ?_,
     ?_,
     ?_⟩,
    ⟨6, planA, missing, ?_,
     ?_,
     ?_,
     ?_,
     ?_,
     ?_,
     ?_⟩,
    ⟨.east, 95, _, live, rfl⟩⟩ <;>
    first | decide +kernel | rfl | (intro a b h; exact absurd h (by decide)) | (intro p h; exact absurd h (by decide +kernel)) | exact ctrl_got (by decide +kernel)

theorem wit_CreditAndThrottleComplete :
    (∃ (b : Berth) (job : Byte) (grants : List U16) (tide : TideNo) (s : State), ((s.berth b.val).up = true) ∧ (s.berthSafe b.val = false)) ∧
    (∃ (c : Ctrl) (mask level : Byte) (dur : U16) (t : State) (s : State), (s.ctrlIn c (.throttle mask level dur) = (t, true))) := by
  refine ⟨⟨5, 0xFF, [1,2,3,4,5,6,7,8], 0, live, ?_,
     ?_⟩,
    ⟨cOf (.throttle 0xFF 128 10), 0xFF, 128, 10, (State.ctrlIn (live) (cOf (.throttle 0xFF 128 10)) (.throttle (0xFF) (128) (10))).1, live, ctrl_got (by decide +kernel)⟩⟩ <;>
    first | decide +kernel | rfl | (intro a b h; exact absurd h (by decide)) | (intro p h; exact absurd h (by decide +kernel)) | exact ctrl_got (by decide +kernel)

theorem wit_LinkEventsComplete :
    (∃ (b : Berth) (point : BitVec 10) (s : State), ((s.berth b.val).up = true) ∧ (s.berthSafe b.val = false)) ∧
    (∃ (b : Berth) (s : State), ((s.berth b.val).up = true) ∧ ((s.berth b.val).inRetry = true)) ∧
    (∃ (b : Berth) (s : State), ((s.berth b.val).up = true) ∧ ((s.berth b.val).eth = false) ∧ ((s.berth b.val).lstate ≠ 1) ∧ ((s.berth b.val).quiet + 2 ≤ s.tide.periods)) ∧
    (∃ (b : Berth) (s : State), ((s.berth b.val).eth = false) ∧ ((s.berth b.val).lstate ≠ 2) ∧ (s.lanesOn b.val = true)) ∧
    (∃ (b : Berth) (t : State) (s : State), (t = s.notBreakwater b.val) ∧ ((t.berth b.val).up = true) ∧ ((t.berth b.val).lstate = 0) ∧ (t.isParent b.val = false) ∧ ((t.berth b.val).dozeAsked = true)) ∧
    (∃ (b : Berth) (t : State) (s : State), (t = s.notBreakwater b.val) ∧ ((t.berth b.val).up = true) ∧ ((t.berth b.val).lstate = 0) ∧ (t.isParent b.val = false) ∧ ((t.berth b.val).isIdle = true) ∧ (t.wanted b.val = false)) ∧
    (∃ (b : Berth) (t : State) (s : State), (t = s.notBreakwater b.val) ∧ ((t.berth b.val).up = true) ∧ ((t.berth b.val).lstate = 1)) ∧
    (∃ (b : Berth) (enter : Bool) (t : State) (s : State), (t = s.notBreakwater b.val) ∧ ((t.berth b.val).up = true)) ∧
    (∃ (b : Berth) (lane : Fin 4) (spare : Fin 8) (cwcnt : BitVec 7) (r : SpareReq) (s : State), ((s.berth b.val).spareReq = some r) ∧ (r.lane = lane.val) ∧ (r.spare = spare.val) ∧ (r.at_ = cwcnt)) ∧
    (∃ (b : Berth) (lane : Fin 4) (spare : Fin 8) (cwcnt : BitVec 7) (s : State), ((s.berth b.val).up = true) ∧ (s.spareFree b.val = true) ∧ (spare.val = spareOf b.val) ∧ ((s.berth b.val).spareReq = none)) ∧
    (∃ (b : Berth) (lane : Fin 4) (s : State), ((s.berth b.val).up = true) ∧ ((((s.berth b.val).lane lane.val).failed = true → (s.berth b.val).spareReq.isSome = true))) ∧
    (∃ (b : Berth) (lane : Fin 4) (s : State), ((s.berth b.val).up = true) ∧ (((s.berth b.val).lane lane.val).failed = true) ∧ ((s.berth b.val).spareReq.isNone = true)) ∧
    (∃ (b : Berth) (r : SpareReq) (s : State), ((s.berth b.val).spareReq = some r) ∧ (r.acked = true) ∧ ((s.berth b.val).cwTx = r.at_)) ∧
    (∃ (b : Berth) (r : SpareReq) (s : State), ((s.berth b.val).spareReq = some r) ∧ (r.acked = false) ∧ (64 ≤ r.rounds)) := by
  refine ⟨⟨5, 0x3FF, live, ?_,
     ?_⟩,
    ⟨5, with5 (fun y => { y with inRetry := true }), ?_,
     ?_⟩,
    ⟨5, with5 (fun y => { y with quiet := 2 }), ?_,
     ?_,
     ?_,
     ?_⟩,
    ⟨5, lanes0, ?_,
     ?_,
     ?_⟩,
    ⟨5, _, with5 (fun y => { y with dozeAsked := true }), rfl,
     ?_,
     ?_,
     ?_,
     ?_⟩,
    ⟨5, _, live, rfl,
     ?_,
     ?_,
     ?_,
     ?_,
     ?_⟩,
    ⟨5, _, with5 (fun y => { y with lstate := 1 }), rfl,
     ?_,
     ?_⟩,
    ⟨5, true, _, live, rfl,
     ?_⟩,
    ⟨5, 3, ⟨spareOf 5, by decide⟩, 5, reqA, asking reqA, ?_,
     ?_,
     ?_,
     ?_⟩,
    ⟨5, 3, ⟨spareOf 5, by decide⟩, 5, lanes0, ?_,
     ?_,
     ?_,
     ?_⟩,
    ⟨5, 3, live, ?_,
     ?_⟩,
    ⟨5, 3, with5 (fun y => y.modLane 3 (fun l => { l with failed := true })), ?_,
     ?_,
     ?_⟩,
    ⟨5, { reqA with acked := true }, asking { reqA with acked := true }, ?_,
     ?_,
     ?_⟩,
    ⟨5, { reqA with rounds := 64 }, asking { reqA with rounds := 64 }, ?_,
     ?_,
     ?_⟩⟩ <;>
    first | decide +kernel | rfl | (intro a b h; exact absurd h (by decide)) | (intro p h; exact absurd h (by decide +kernel)) | exact ctrl_got (by decide +kernel)

theorem wit_LaserAndDozeComplete :
    (∃ (oe : Fin 16) (s : State), ((s.oe oe.val).feed = false)) ∧
    (∃ (b : Berth) (s : State), ((s.berth b.val).up = true) ∧ ((s.berth b.val).eth = false) ∧ ((s.berth b.val).lstate = 0) ∧ (((s.berth b.val).dozeAllowed = true ∨ s.sec.power = 1)) ∧ (s.isParent b.val = false) ∧ ((s.berth b.val).isIdle = true) ∧ (s.wanted b.val = false) ∧ (s.berthSafe b.val = false) ∧ ((s.berth b.val).orderedSet = 0)) ∧
    (∃ (target : U16) (s : State), (target.toNat < 16) ∧ ((s.oe target.toNat).relocking = true)) ∧
    (∃ (target : U16) (s : State), (256 ≤ target.toNat) ∧ (target.toNat < 260) ∧ ((s.berth target.toNat).lstate = 2) ∧ ((s.berth target.toNat).dozeAsked = true)) := by
  refine ⟨⟨15, live, ?_⟩,
    ⟨5, with5 (fun y => { y with dozeAllowed := true }), ?_,
     ?_,
     ?_,
     ?_,
     ?_,
     ?_,
     ?_,
     ?_,
     ?_⟩,
    ⟨0, relocking, ?_,
     ?_⟩,
    ⟨259, relocking, ?_,
     ?_,
     ?_,
     ?_⟩⟩ <;>
    first | decide +kernel | rfl | (intro a b h; exact absurd h (by decide)) | (intro p h; exact absurd h (by decide +kernel)) | exact ctrl_got (by decide +kernel)

theorem wit_EthernetEventsComplete :
    (∃ (lsx : Fin 4) (f : EthFrame) (s : State), (s.ethOn (lsxBerth lsx) = true) ∧ (s.berthSafe (lsxBerth lsx) = false) ∧ (s.tide.running = true) ∧ (f.dstMac = (s.berth (lsxBerth lsx)).ownMac) ∧ (f.etherType = (s.berth (lsxBerth lsx)).etherType) ∧ (f.fcsOk = true) ∧ (s.storeFill (lsxBerth lsx) + frameBytes f.payload.length ≤ 262144) ∧ ((Hdr.ofBytes (f.payload.take 64)).kind = 6) ∧ (f.payload.length = 64 * (1 + (Hdr.ofBytes (f.payload.take 64)).body))) ∧
    (∃ (lsx : Fin 4) (f : EthFrame) (s : State), (s.ethOn (lsxBerth lsx) = true) ∧ (s.berthSafe (lsxBerth lsx) = false) ∧ (s.tide.running = true) ∧ ((f.dstMac ≠ (s.berth (lsxBerth lsx)).ownMac ∨ f.etherType ≠ (s.berth (lsxBerth lsx)).etherType))) ∧
    (∃ (lsx : Fin 4) (quanta : U16) (s : State), (s.ethOn (lsxBerth lsx) = true) ∧ (s.berthSafe (lsxBerth lsx) = false)) ∧
    (∃ (lsx : Fin 4) (t : TideNo) (s : State), ((s.berth (lsxBerth lsx)).xoffAt = some t) ∧ (s.ethOn (lsxBerth lsx) = true) ∧ (tideReached s.now (t + 8) = true) ∧ (65536 < s.storeFill (lsxBerth lsx))) := by
  refine ⟨⟨3, frameA 0, ethState, ?_,
     ?_,
     ?_,
     ?_,
     ?_,
     ?_,
     ?_,
     ?_,
     ?_⟩,
    ⟨3, frameA 1, ethState, ?_,
     ?_,
     ?_,
     ?_⟩,
    ⟨3, 5, ethState, ?_,
     ?_⟩,
    ⟨3, 900, ethFull, ?_,
     ?_,
     ?_,
     ?_⟩⟩ <;>
    first | decide +kernel | rfl | (intro a b h; exact absurd h (by decide)) | (intro p h; exact absurd h (by decide +kernel)) | exact ctrl_got (by decide +kernel)

theorem wit_HostEventsComplete :
    (∃ (f : Fin 8) (producer rxConsumer : U32) (r : RingSt) (s : State), (Tab.get? s.port.rings f.val = some r) ∧ (r.running = true) ∧ (s.tide.running = true) ∧ (s.portOk (BitVec.ofNat 4 f.val) = true) ∧ ((producer - r.txCons).toNat ≤ 2 ^ r.log2)) ∧
    (∃ (f : Fin 8) (slot : List Byte) (cells : U16) (r : RingSt) (hd : Hdr) (t : State) (s : State), (hd = Hdr.ofBytes (padTo 64 (slot.take 64))) ∧ (Tab.get? s.port.rings f.val = some r) ∧ (r.running = true) ∧ (r.waiting ≠ 0) ∧ (s.tide.running = true) ∧ (s.west.inUse = true) ∧ (s.halfSafe .west = false) ∧ (s.portOk (BitVec.ofNat 4 f.val) = true) ∧ (s.hostFault f.val hd cells.toNat = none) ∧ (r.allows (2 * hd.tc 6) hd.cells = true) ∧ (t = s.injectAs .west (128 + 8 * 17 + 4 + spreadIndex hd.spreadKey s.active.salt 4) true none hd ((slot.drop 64).take (64 * (hd.cells - 1))) false) ∧ ((t.west.pkt? s.nextId).all (fun p => !p.waiting) = true)) ∧
    (∃ (f : Fin 8) (slot : List Byte) (cells : U16) (r : RingSt) (k : Ctr) (s : State), (Tab.get? s.port.rings f.val = some r) ∧ (r.running = true) ∧ (r.waiting ≠ 0) ∧ (s.tide.running = true) ∧ (s.west.inUse = true) ∧ (s.halfSafe .west = false) ∧ (s.portOk (BitVec.ofNat 4 f.val) = true) ∧ (s.hostFault f.val (Hdr.ofBytes (padTo 64 (slot.take 64))) cells.toNat = some k)) ∧
    (∃ (f : Fin 8) (s : State), (s.portOk (BitVec.ofNat 4 f.val) = true)) ∧
    (∃ (s : State), (s.boot.resetN = true)) := by
  refine ⟨⟨0, 1, 0, ringA, hostState, ?_,
     ?_,
     ?_,
     ?_,
     ?_⟩,
    ⟨0, slotA, 5, ringA, _, _, hostState, rfl,
     ?_,
     ?_,
     ?_,
     ?_,
     ?_,
     ?_,
     ?_,
     ?_,
     ?_,
     rfl,
     ?_⟩,
    ⟨0, slotA, 6, ringA, .hdrBad, hostState, ?_,
     ?_,
     ?_,
     ?_,
     ?_,
     ?_,
     ?_,
     ?_⟩,
    ⟨7, live, ?_⟩,
    ⟨live, ?_⟩⟩ <;>
    first | decide +kernel | rfl | (intro a b h; exact absurd h (by decide)) | (intro p h; exact absurd h (by decide +kernel)) | exact ctrl_got (by decide +kernel)

theorem wit_ManagementPortEventsComplete :
    (∃ (bytes : List Byte) (off : Nat) (ws : List (List Byte)) (s : State), (s.port.i3cAddr.isSome = true) ∧ (s.portOk 8 = true) ∧ (4 ≤ bytes.length) ∧ (off = leNat (bytes.take 4)) ∧ (ws = (if off % 4 = 0 then wholeWords (bytes.drop 4) else []))) ∧
    (∃ (words : Nat) (off : Nat) (s : State), (s.port.i3cAddr.isSome = true) ∧ (s.portOk 8 = true) ∧ (off = s.port.i3cPtr.toNat) ∧ (off % 4 = 0)) ∧
    (∃ (words : Nat) (off : Nat) (s : State), (s.port.i3cAddr.isSome = true) ∧ (s.portOk 8 = true) ∧ (off = s.port.i3cPtr.toNat) ∧ (off % 4 ≠ 0)) ∧
    (∃ (addr : BitVec 7) (s : State), (s.portOk 8 = true)) ∧
    (∃ (s : State), (s.portOk 8 = true)) ∧
    (∃ (tag : Byte) (offset : U32) (length : U16) (s : State), (s.portOk 9 = true) ∧ (rgmiiOk offset length = true)) ∧
    (∃ (tag : Byte) (offset : U32) (length : U16) (s : State), (s.portOk 9 = true) ∧ (rgmiiOk offset length = false)) ∧
    (∃ (tag : Byte) (offset : U32) (length : U16) (data : List Byte) (s : State), (s.portOk 9 = true) ∧ (rgmiiOk offset length = true) ∧ (data.length = length.toNat)) ∧
    (∃ (tag : Byte) (offset : U32) (length : U16) (data : List Byte) (s : State), (s.portOk 9 = true) ∧ (rgmiiOk offset length = false)) ∧
    (∃ (ms : Nat) (s : State), (1 ≤ ms)) := by
  refine ⟨⟨[0x18, 0x30, 4, 0], _, _, i3c 0, ?_,
     ?_,
     ?_,
     rfl,
     rfl⟩,
    ⟨1, _, i3c 0x43018, ?_,
     ?_,
     rfl,
     ?_⟩,
    ⟨1, _, i3c 0x43019, ?_,
     ?_,
     rfl,
     ?_⟩,
    ⟨0x7F, live, ?_⟩,
    ⟨live, ?_⟩,
    ⟨1, 0x43018, 4, live, ?_,
     ?_⟩,
    ⟨1, 0x43018, 3, live, ?_,
     ?_⟩,
    ⟨1, 0x43020, 4, [1, 0, 0, 0], live, ?_,
     ?_,
     ?_⟩,
    ⟨1, 0x43021, 4, [1, 0, 0, 0], live, ?_,
     ?_⟩,
    ⟨1, live, ?_⟩⟩ <;>
    first | decide +kernel | rfl | (intro a b h; exact absurd h (by decide)) | (intro p h; exact absurd h (by decide +kernel)) | exact ctrl_got (by decide +kernel)

theorem wit_AttestationComplete :
    (∃ (p : SpdmPort) (s : State), (s.spdmPort p = true)) ∧
    (∃ (p : SpdmPort) (s : State), (s.spdmPort p = true)) ∧
    (∃ (p : SpdmPort) (asym hash : U32) (s : State), (s.spdmPort p = true)) ∧
    (∃ (p : SpdmPort) (s : State), (s.spdmPort p = true)) ∧
    (∃ (p : SpdmPort) (offset length : U16) (part : List Byte) (s : State), (s.spdmPort p = true) ∧ (part = (Config.certChain.drop offset.toNat).take length.toNat)) ∧
    (∃ (p : SpdmPort) (slot : Byte) (offset length : U16) (s : State), (s.spdmPort p = true) ∧ (slot ≠ 0)) ∧
    (∃ (p : SpdmPort) (nonce : BitVec 256) (s : State), (s.spdmPort p = true) ∧ (s.sec.identity = true)) ∧
    (∃ (p : SpdmPort) (slot : Byte) (nonce : BitVec 256) (s : State), (s.spdmPort p = true) ∧ (s.sec.identity = false)) ∧
    (∃ (p : SpdmPort) (index : Byte) (nonce : BitVec 256) (s : State), (s.spdmPort p = true) ∧ (1 ≤ index) ∧ (index ≤ 6)) ∧
    (∃ (p : SpdmPort) (nonce : BitVec 256) (s : State), (s.spdmPort p = true)) ∧
    (∃ (p : SpdmPort) (index : Byte) (nonce : BitVec 256) (s : State), (s.spdmPort p = true) ∧ (s.sec.identity = true) ∧ (1 ≤ index) ∧ (index ≤ 6)) := by
  refine ⟨⟨.doe, live, ?_⟩,
    ⟨.rgmii 1, live, ?_⟩,
    ⟨.doe, 0x80, 2, live, ?_⟩,
    ⟨.doe, live, ?_⟩,
    ⟨.doe, 0, 16, _, live, ?_,
     rfl⟩,
    ⟨.doe, 1, 0, 1, live, ?_,
     ?_⟩,
    ⟨.doe, 0, live, ?_,
     ?_⟩,
    ⟨.doe, 0, 0, returned, ?_,
     ?_⟩,
    ⟨.doe, 6, 0, live, ?_,
     ?_,
     ?_⟩,
    ⟨.doe, 0, live, ?_⟩,
    ⟨.doe, 1, 0, live, ?_,
     ?_,
     ?_,
     ?_⟩⟩ <;>
    first | decide +kernel | rfl | (intro a b h; exact absurd h (by decide)) | (intro p h; exact absurd h (by decide +kernel)) | exact ctrl_got (by decide +kernel)

theorem wit_TapInstructionsComplete :
    (∃ (s : State), (s.tapOn = true)) ∧
    (∃ (s : State), (s.tapOn = true)) ∧
    (∃ (scanIn : List Bool) (s : State), (s.tapOn = true)) ∧
    (∃ (scanIn : List Bool) (s : State), (s.tapOn = true)) ∧
    (∃ (s : State), (s.tapOn = true)) ∧
    (∃ (s : State), (s.tapOn = true)) ∧
    (∃ (p : Fin 2) (halt : Bool) (s : State), (s.debugAt 1 = true)) ∧
    (∃ (h : Half) (halt : Bool) (s : State), (s.debugAt 1 = true) ∧ (s.sec.power ≠ 2)) ∧
    (∃ (h : Half) (s : State), (s.debugAt 1 = true) ∧ (s.sec.power ≠ 2)) ∧
    (∃ (h : Half) (offset : BitVec 33) (s : State), (s.debugAt 1 = true) ∧ (s.sec.power ≠ 2)) ∧
    (∃ (source : U16) (t : State) (s : State), (s.factoryOpen = true) ∧ ((srcInfo source.toNat).isSome = true) ∧ (source.toNat < 0x80) ∧ (t = s.modTap (fun x => { x with ir := 0x20, tdo := [], injected := x.injected ++ [source.toNat] }))) ∧
    (∃ (source : U16) (t : State) (s : State), (s.factoryOpen = true) ∧ ((srcInfo source.toNat).isSome = true) ∧ (0x80 ≤ source.toNat) ∧ (source.toNat < 0xC0) ∧ (t = s.modTap (fun x => { x with ir := 0x20, tdo := [], injected := x.injected ++ [source.toNat] }))) ∧
    (∃ (source : U16) (t : State) (s : State), (s.factoryOpen = true) ∧ ((srcInfo source.toNat).isSome = true) ∧ (0xC0 ≤ source.toNat) ∧ (t = s.modTap (fun x => { x with ir := 0x20, tdo := [], injected := x.injected ++ [source.toNat] }))) ∧
    (∃ (addr : U16) (value : U32) (s : State), (s.factoryOpen = true)) ∧
    (∃ (s : State), (s.factoryOpen = true)) := by
  refine ⟨⟨live, ?_⟩,
    ⟨live, ?_⟩,
    ⟨[true], live, ?_⟩,
    ⟨[true], live, ?_⟩,
    ⟨live, ?_⟩,
    ⟨live, ?_⟩,
    ⟨1, true, debugLive, ?_⟩,
    ⟨.west, false, debugLive, ?_,
     ?_⟩,
    ⟨.west, debugLive, ?_,
     ?_⟩,
    ⟨.west, 0x1FFFFFFFC, debugLive, ?_,
     ?_⟩,
    ⟨0x40, factory.modTap (fun x => { x with ir := 0x20, tdo := [], injected := x.injected ++ [0x40] }), factory, ?_,
     ?_,
     ?_,
     ?_⟩,
    ⟨0x81, factory.modTap (fun x => { x with ir := 0x20, tdo := [], injected := x.injected ++ [0x81] }), factory, ?_,
     ?_,
     ?_,
     ?_,
     ?_⟩,
    ⟨0x108, factory.modTap (fun x => { x with ir := 0x20, tdo := [], injected := x.injected ++ [0x108] }), factory, ?_,
     ?_,
     ?_,
     ?_⟩,
    ⟨0, 1, factory, ?_⟩,
    ⟨factory, ?_⟩⟩ <;>
    first | decide +kernel | rfl | (intro a b h; exact absurd h (by decide)) | (intro p h; exact absurd h (by decide +kernel)) | exact ctrl_got (by decide +kernel)

theorem wit_MailboxEventsComplete :
    (∃ (who : BitVec 4) (ch : Fin 64) (len : BitVec 13) (s : State), (s.portOk who = true) ∧ (s.isSender ch.val who = true) ∧ ((s.chan ch.val).full = false) ∧ (1 ≤ len.toNat) ∧ (len.toNat ≤ 4096)) ∧
    (∃ (who : BitVec 4) (ch : Fin 64) (s : State), (s.portOk who = true) ∧ (s.isSender ch.val who = false) ∧ (s.isReceiver ch.val who = true)) ∧
    (∃ (who : BitVec 4) (ch : Fin 64) (offset : BitVec 12) (data : List Byte) (s : State), (s.portOk who = true) ∧ (slotAccessOk who offset.toNat data.length = true) ∧ (s.isSender ch.val who = true) ∧ ((s.chan ch.val).full = false)) ∧
    (∃ (who : BitVec 4) (ch : Fin 64) (offset : BitVec 12) (data : List Byte) (s : State), (s.portOk who = true) ∧ (slotAccessOk who offset.toNat data.length = true) ∧ (s.isSender ch.val who = true) ∧ ((s.chan ch.val).full = true)) ∧
    (∃ (who : BitVec 4) (s : State), (s.portOk who = true)) ∧
    (∃ (who : BitVec 4) (offset : BitVec 20) (value : U32) (s : State), (s.portOk who = true) ∧ (offset.toNat % 4 = 0)) ∧
    (∃ (id : Nat) (job addr : Nat) (data : List Byte) (s : State), (s.xferStarted id = true) ∧ (Tab.get? s.mbox.xfers id = some (.holdWrite job addr data)) ∧ (s.halfSafe (holdHalfOf addr) = false)) ∧
    (∃ (id : Nat) (job addr len : Nat) (s : State), (s.xferStarted id = true) ∧ (Tab.get? s.mbox.xfers id = some (.holdRead job addr len))) ∧
    (∃ (id : Nat) (h : Half) (addr : Nat) (data : List Byte) (s : State), (s.xferStarted id = true) ∧ (Tab.get? s.mbox.xfers id = some (.quayWrite h addr data))) ∧
    (∃ (id : Nat) (h : Half) (addr len : Nat) (s : State), (s.xferStarted id = true) ∧ (Tab.get? s.mbox.xfers id = some (.quayRead h addr len))) ∧
    (∃ (id : Nat) (k first : Nat) (images : List (BitVec 128)) (s : State), (s.xferStarted id = true) ∧ (Tab.get? s.mbox.xfers id = some (.tileWrite k first images))) := by
  refine ⟨⟨0, 0, 4096, live, ?_,
     ?_,
     ?_,
     ?_,
     ?_⟩,
    ⟨0, 1, live, ?_,
     ?_,
     ?_⟩,
    ⟨0, 0, 0xFFC, [1, 2, 3, 4], live, ?_,
     ?_,
     ?_,
     ?_⟩,
    ⟨0, 0, 0, [1, 2, 3, 4], posted, ?_,
     ?_,
     ?_,
     ?_⟩,
    ⟨9, live, ?_⟩,
    ⟨8, 0x43020, 1, live, ?_,
     ?_⟩,
    ⟨50, 9, 0x100, [5], moving, ?_,
     ?_,
     ?_⟩,
    ⟨51, 9, 0x100, 4, moving, ?_,
     ?_⟩,
    ⟨52, .west, 0x20000000, [5], moving, ?_,
     ?_⟩,
    ⟨53, .west, 0x20000000, 4, moving, ?_,
     ?_⟩,
    ⟨54, 0, 0, [0], moving, ?_,
     ?_⟩⟩ <;>
    first | decide +kernel | rfl | (intro a b h; exact absurd h (by decide)) | (intro p h; exact absurd h (by decide +kernel)) | exact ctrl_got (by decide +kernel)

theorem wit_FaultEventsComplete :
    (∃ (who : BitVec 4) (s : State), (privileged who = true)) ∧
    (∃ (sensor : Fin 18) (celsius : Nat) (s : State), (s.watched sensor.val = true)) ∧
    (∃ (sensor : Fin 18) (celsius : Nat) (s : State), (s.watched sensor.val = true) ∧ (125 ≤ celsius)) ∧
    (∃ (o : FenceObj) (s : State), (s.fault.fences.any (fun f => f.obj == o && f.active && !f.empty) = true) ∧ (s.objEmpty o = true)) ∧
    (∃ (o : FenceObj) (f : FenceSt) (t : State) (s : State), (s.fault.fences.find? (fun f => f.obj == o && f.active && !f.empty) = some f) ∧ (tideReached s.now (f.boundary + 64) = true) ∧ (t = [Half.east, Half.west].foldl (fun s h => ((s.half h).pkts.filter (fun p => pktOn h p o)).foldl (fun s p => (s.jobDrop p.hdr.job).dropPkt h p.id) s) ((s.liveOn o).foldl (fun s n => s.askAbort n ⟨7, 0xFFFF, 0xFF, false, none⟩) s))) := by
  refine ⟨⟨0, live, ?_⟩,
    ⟨0, 106, live, ?_⟩,
    ⟨0, 125, live, ?_,
     ?_⟩,
    ⟨.job 9, fenced, ?_,
     ?_⟩,
    ⟨.job 9, ⟨.job 9, 900, true, false, none, false⟩, _, fenced, ?_,
     ?_,
     rfl⟩⟩ <;>
    first | decide +kernel | rfl | (intro a b h; exact absurd h (by decide)) | (intro p h; exact absurd h (by decide +kernel)) | exact ctrl_got (by decide +kernel)

theorem wit_SecurityAndPowerEventsComplete :
    (∃ (z : ZeroSt) (s : State), (s.sec.zero = some z) ∧ (z.keysGone = true) ∧ (z.debugOpen = false) ∧ (z.lifecycle = none)) ∧
    (∃ (z : ZeroSt) (t : State) (s : State), (s.sec.zero = some z) ∧ (z.keysGone = true) ∧ ((z.debugOpen = true ∨ z.lifecycle.isSome = true)) ∧ (t = ((((s.zeroFill z).zeroUnfence z).modSec (fun x => { x with zero := none })).modSec (fun x => { x with pDebug := if z.debugOpen then some 1 else x.pDebug, pLifecycle := match z.lifecycle with | some l => some l | none => x.pLifecycle })))) ∧
    (∃ (group : Fin 5) (s : State), (s.sec.power = 3) ∧ (s.boot.rails = group.val) ∧ (group.val < 4)) ∧
    (∃ (s : State), (s.sec.power = 3) ∧ (s.boot.rails = 4)) ∧
    (∃ (s : State), (s.boot.rails ≠ 0)) ∧
    (∃ (lowNs : Nat) (s : State), (1000 ≤ lowNs) ∧ (s.boot.rails = 5)) := by
  refine ⟨⟨zA false, zeroing false, ?_,
     ?_,
     ?_,
     ?_⟩,
    ⟨zA true, _, zeroing true, ?_,
     ?_,
     ?_,
     rfl⟩,
    ⟨3, off 3, ?_,
     ?_,
     ?_⟩,
    ⟨off 4, ?_,
     ?_⟩,
    ⟨live, ?_⟩,
    ⟨1000, live, ?_,
     ?_⟩⟩ <;>
    first | decide +kernel | rfl | (intro a b h; exact absurd h (by decide)) | (intro p h; exact absurd h (by decide +kernel)) | exact ctrl_got (by decide +kernel)

theorem wit_StartupEventsComplete :
    (∃ (t : State) (s : State), (s.boot.resetN = false) ∧ (s.boot.rails = 5) ∧ (t = (((s.modBoot (fun b => { b with resetN := true })).modFault (fun f => { f with boots := f.boots + 1 })).toStage 4).modTide (fun t => { t with counting := true }))) ∧
    (∃ (f : FlashView) (i : ImageInfo) (t : State) (s : State), (s.boot.stage = 5) ∧ (s.mbox.uciReady = false) ∧ (s.boot.waitHost = false) ∧ (s.boot.failed = false) ∧ (t = s.modBoot (fun b => { b with bank0 := s.bankSeen s.boot.bank0 f.bank0, bank1 := s.bankSeen s.boot.bank1 f.bank1, block := f.block })) ∧ ((if s.boot.committed then s.bankSeen s.boot.bank1 f.bank1 else s.bankSeen s.boot.bank0 f.bank0).good = some i)) ∧
    (∃ (h : Half) (s : State), (s.atStage h 6 = true) ∧ (s.boot.powerGood = true) ∧ ((s.half h).started = false) ∧ ((s.half h).stageDone < 6)) ∧
    (∃ (h : Half) (s : State), (s.atStage h 6 = true) ∧ (s.boot.powerGood = true) ∧ ((s.half h).started = false) ∧ ((s.half h).stageDone < 6)) ∧
    (∃ (h : Half) (stacksOk : Byte) (t : State) (s : State), (s.atStage h 7 = true) ∧ ((s.half h).started = true) ∧ ((s.half h).trained = false) ∧ (t = ((s.modQuay h (fun _ => [])).modHalf h (fun x => { x with trained := true, stageDone := 7, restart := if x.restart = 0 then 0 else 8 })).modBoot (fun b => match h with | .east => { b with eastUp := true } | .west => { b with westUp := true }))) ∧
    (∃ (feeds : List (Bool × Bool)) (due : List Half) (t : State) (s : State), (due = s.lanesDue 8) ∧ (due ≠ []) ∧ (t = [256, 257, 258, 259].foldl (fun (s : State) b => s.ethUp b) ((((List.range 260).foldl (fun (s : State) b => if berthHalf b ∈ due then s.modBerth b (fun y => if y.up then y else { y with lstate := 3 }) else s) ((List.range 16).foldl (fun (s : State) k => if berthHalf (16 * k) ∈ due then s.bringUpOe k (feeds.getD k (false, false)) else s) s)).modBoot (fun b => { b with lanesUp := true, stagePeriod := ((List.range 260).foldl (fun (s : State) b => if berthHalf b ∈ due then s.modBerth b (fun y => if y.up then y else { y with lstate := 3 }) else s) ((List.range 16).foldl (fun (s : State) k => if berthHalf (16 * k) ∈ due then s.bringUpOe k (feeds.getD k (false, false)) else s) s)).tide.periods })).modHalves (fun _ x => if x.restart = 8 then { x with restart := 9 } else x)))) ∧
    (∃ (due : List Half) (bs : List Nat) (t : State) (s : State), (due = [Half.east, Half.west].filter (fun h => s.atStage h 9)) ∧ (bs = (List.range 260).filter (fun b => decide (berthHalf b ∈ due) && s.planned b)) ∧ (due ≠ []) ∧ (bs.all (fun b => s.berthSettled b) = true) ∧ (t = (bs.filter (fun b => (s.berth b).outcome == 4)).foldl (fun (s : State) b => s.setOutcome b 3) s)) ∧
    (∃ (s : State), (s.boot.stage = 10) ∧ (s.chartReady = true) ∧ (s.boot.failed = false) ∧ (s.dateLineClash s.chart.slot0 = false)) ∧
    (∃ (t : State) (s : State), (s.boot.stage = 11) ∧ (s.boot.failed = false) ∧ (s.mbox.locked = false) ∧ (t = ((s.modMbox (fun m => { m with locked := true, chans := (((s.boot.block.map (fun (c : ConfigBlock) => c.bindings)).getD []).filter (fun e => decide (32 ≤ e.1.val))).foldl (fun (t : Tab ChanSt) e => Tab.upd {} t e.1.val (fun c => { c with bind := some e.2 })) m.chans })).buildPool .east).buildPool .west)) ∧
    (∃ (now : Nat) (n : TideNo) (s : State), (s.boot.stage = 12) ∧ (s.tideReady = true) ∧ (s.boot.failed = false) ∧ (s.tide.running = false) ∧ (s.dateLineClash s.chart.slot0 = false) ∧ (s.firstTideAt now = some n)) ∧
    (∃ (h : Half) (t : State) (s : State), ((s.half h).restart = 10) ∧ (t = (({ (s.modHalf h (fun x => { x with restart := 0, tm := (s.half h.other).tm, tmShadow := (s.half h.other).tmShadow, tmArmed := (s.half h.other).tmArmed })) with streams := Tab.mapV (s.modHalf h (fun x => { x with restart := 0, tm := (s.half h.other).tm, tmShadow := (s.half h.other).tmShadow, tmArmed := (s.half h.other).tmArmed })).streams (fun _ x => match h with | .east => { x with statE := {} } | .west => { x with statW := {} }) } : State).buildPool h).modBoot (fun b => { b with stage := 0xD }))) := by
  refine ⟨⟨_, State.reset, ?_,
     ?_,
     rfl⟩,
    ⟨⟨some imgA, none, none⟩, imgA, _, stage5, ?_,
     ?_,
     ?_,
     ?_,
     rfl,
     ?_⟩,
    ⟨.west, stage6, ?_,
     ?_,
     ?_,
     ?_⟩,
    ⟨.west, stage6, ?_,
     ?_,
     ?_,
     ?_⟩,
    ⟨.east, 0xFE, _, stage7, ?_,
     ?_,
     ?_,
     rfl⟩,
    ⟨[], _, _, stage8, rfl,
     ?_,
     rfl⟩,
    ⟨_, _, _, stage9, rfl,
     rfl,
     ?_,
     ?_,
     rfl⟩,
    ⟨stage10, ?_,
     ?_,
     ?_,
     ?_⟩,
    ⟨_, stage11, ?_,
     ?_,
     ?_,
     rfl⟩,
    ⟨0, 0, stage12, ?_,
     ?_,
     ?_,
     ?_,
     ?_,
     ?_⟩,
    ⟨.west, _, rejoining, ?_,
     rfl⟩⟩ <;>
    first | decide +kernel | rfl | (intro a b h; exact absurd h (by decide)) | (intro p h; exact absurd h (by decide +kernel)) | exact ctrl_got (by decide +kernel)

theorem wit_SamplerEventsComplete :
    (∃ (part : Fin 4) (gen : Fin 16) (slot : Nat) (p : PartSt) (x : GenSt) (t : TideNo) (s : State), (Tab.get? s.parts part.val = some p) ∧ (Tab.get? p.gens gen.val = some x) ∧ (p.startT = some t) ∧ (p.running = true) ∧ (x.over = false) ∧ (tideReached s.now (x.due t).1 = true) ∧ ((s.now = (x.due t).1 → (x.due t).2 ≤ slot))) ∧
    (∃ (b : Berth) (genId : Byte) (seq : U32) (departure : U64) (cyc : Nat) (frac : BitVec 4) (n : Nat) (p : PartSt) (t : State) (s : State), ((s.berth b.val).up = true) ∧ (s.berthSafe b.val = false) ∧ (t = s.freeCredit (berthHalf b.val) (some (creditKey (berthPort b.val) 0)) 1) ∧ (t.partOf b.val = some (n, p))) ∧
    (∃ (part : Fin 4) (g : GoldSt) (ps : List OutPkt) (t : State) (s : State), ((Tab.get? s.parts part.val).bind (fun p => p.gold) = some g) ∧ (g.ready = false) ∧ (tideReached s.now g.begins = true) ∧ (ps = s.goldResult g) ∧ (t = ps.zipIdx.foldl (fun (s : State) e => s.quayWriteAt (g.out + storedBytes * e.2) (goldStored e.1)) s)) ∧
    (∃ (part : Fin 4) (b : Berth) (payload : List Byte) (p : PartSt) (g : GoldSt) (e : OutPkt) (same : Bool) (s : State), (Tab.get? s.parts part.val = some p) ∧ (p.gold = some g) ∧ (g.counterpart payload = some e) ∧ (g.ready = true) ∧ ((b.val, payload) ∈ g.waiting) ∧ (same = (goldPart e.payload == goldPart payload)) ∧ ((g.ack = false ∨ p.switchPersona = true ∨ same = false))) := by
  refine ⟨⟨1, 3, 3761, partG, { cfg := genA }, 1000, genState, ?_,
     ?_,
     ?_,
     ?_,
     ?_,
     ?_,
     ?_⟩,
    ⟨5, 3, 0, 0, 5, 1, 1, partA, _, upPart 4, ?_,
     ?_,
     rfl,
     ?_⟩,
    ⟨1, goldA, _, _, golden goldA, ?_,
     ?_,
     ?_,
     rfl,
     rfl⟩,
    ⟨1, 5, goldPayload, partGold goldB, goldB, ⟨0, 0, goldPayload⟩, _, golden goldB, ?_,
     ?_,
     ?_,
     ?_,
     ?_,
     rfl,
     ?_⟩⟩ <;>
    first | decide +kernel | rfl | (intro a b h; exact absurd h (by decide)) | (intro p h; exact absurd h (by decide +kernel)) | exact ctrl_got (by decide +kernel)

end Sys2Proof.Tests
end

/-! The memories: what a read gives after a write of several bytes and after a range is made zero, and that a memory in canonical
form has no second spelling (O17; log entry 2). -/

namespace Sys2Proof.Machine

theorem Mem.wfFrom_cons_iff {lo k : Nat} {v : Byte} {m : Mem} :
    Mem.wfFrom lo ((k, v) :: m) = true ↔ lo ≤ k ∧ v ≠ 0 ∧ Mem.wfFrom (k + 1) m = true := by
  simp [Mem.wfFrom, and_assoc]

@[simp] theorem Mem.read_cons_same (k : Nat) (v : Byte) (m : Mem) : Mem.read ((k, v) :: m) k = v := by
  simp [Mem.read]

theorem Mem.read_cons_other {k c : Nat} (v : Byte) (m : Mem) (h : k ≠ c) : Mem.read ((k, v) :: m) c = m.read c := by
  simp [Mem.read, h]

theorem Mem.read_write (m : Mem) (a c : Nat) (b : Byte) (w : m.wf = true) :
    (m.write a b).read c = if c = a then b else m.read c := by
  split
  next h => subst h; exact Mem.read_write_same m c b w
  next h => exact Mem.read_write_other m a c b h

theorem Mem.read_writeBytes (m : Mem) (a : Nat) (bs : List Byte) (c : Nat) (w : m.wf = true) :
    (m.writeBytes a bs).read c = if a ≤ c ∧ c < a + bs.length then bs.getD (c - a) 0 else m.read c := by
  induction bs generalizing m a with
  | nil =>
    have outside : ¬ (a ≤ c ∧ c < a + 0) := by omega
    simp only [Mem.writeBytes, List.length_nil, outside, if_false]
  | cons b bs ih =>
    rw [Mem.writeBytes, ih _ _ (Mem.wf_write m a b w), Mem.read_write m a c b w]
    obtain below | rfl | above := Nat.lt_trichotomy c a
    · simp [show ¬ a + 1 ≤ c by omega, show ¬ a ≤ c by omega, show c ≠ a by omega]
    · simp
    · obtain ⟨d, rfl⟩ : ∃ d, c = a + 1 + d := ⟨c - (a + 1), by omega⟩
      simp [show a + 1 + d - a = d + 1 by omega, show a + 1 + d < a + (bs.length + 1) ↔ d < bs.length by omega,
        show a ≤ a + 1 + d by omega, show a + 1 + d ≠ a by omega]

/-- Dropping the cells of some addresses makes just those addresses read 0. -/
theorem Mem.read_filter (m : Mem) (p : Nat → Bool) (c : Nat) :
    Mem.read (m.filter (fun e => p e.1)) c = if p c then m.read c else 0 := by
  induction m with
  | nil => simp [Mem.read]
  | cons e m ih =>
    obtain ⟨k, v⟩ := e
    by_cases hk : k = c
    · subst hk
      by_cases hp : p k = true <;> simp [hp, ih]
    · by_cases hp : p k = true <;> simp [hp, Mem.read_cons_other _ _ hk, ih]

theorem Mem.read_zeroRange (m : Mem) (a n c : Nat) :
    (m.zeroRange a n).read c = if a ≤ c ∧ c < a + n then 0 else m.read c := by
  rw [Mem.zeroRange, Mem.read_filter m (fun k => k < a || a + n ≤ k) c]
  by_cases inside : a ≤ c ∧ c < a + n
  · simp [inside]
  · have outside : c < a ∨ a + n ≤ c := by omega
    simp [inside, outside]

/-- Of two memories that read alike neither starts first: its first address would read a nonzero byte there, and 0 in the other. -/
theorem Mem.head_le_of_read_eq {lo k l : Nat} {v u : Byte} {m n : Mem} (wm : Mem.wfFrom lo ((k, v) :: m) = true)
    (wn : Mem.wfFrom lo ((l, u) :: n) = true) (h : ∀ a, Mem.read ((k, v) :: m) a = Mem.read ((l, u) :: n) a) : l ≤ k := by
  obtain ⟨-, hv, -⟩ := Mem.wfFrom_cons_iff.mp wm
  obtain ⟨-, hu, wn⟩ := Mem.wfFrom_cons_iff.mp wn
  by_contra early
  have zero : Mem.read ((l, u) :: n) k = 0 :=
    Mem.read_below (lo := l) _ (Mem.wfFrom_cons_iff.mpr ⟨le_rfl, hu, wn⟩) (by omega)
  exact hv (by rw [← Mem.read_cons_same k v m, h, zero])

theorem Mem.ext_of_wfFrom {lo : Nat} (m n : Mem) (wm : Mem.wfFrom lo m = true) (wn : Mem.wfFrom lo n = true)
    (h : ∀ a, m.read a = n.read a) : m = n := by
  induction m generalizing lo n with
  | nil =>
    cases n with
    | nil => rfl
    | cons e n =>
      obtain ⟨l, u⟩ := e
      obtain ⟨-, hu, -⟩ := Mem.wfFrom_cons_iff.mp wn
      exact absurd ((Mem.read_cons_same l u n).symm.trans (h l).symm) hu
  | cons e m ih =>
    obtain ⟨k, v⟩ := e
    cases n with
    | nil =>
      obtain ⟨-, hv, -⟩ := Mem.wfFrom_cons_iff.mp wm
      exact absurd ((Mem.read_cons_same k v m).symm.trans (h k)) hv
    | cons e n =>
      obtain ⟨l, u⟩ := e
      obtain rfl : k = l :=
        le_antisymm (Mem.head_le_of_read_eq wn wm fun a => (h a).symm) (Mem.head_le_of_read_eq wm wn h)
      obtain ⟨-, -, wm⟩ := Mem.wfFrom_cons_iff.mp wm
      obtain ⟨-, -, wn⟩ := Mem.wfFrom_cons_iff.mp wn
      have bytes : v = u := by simpa only [Mem.read_cons_same] using h k
      have tails : m = n := ih n wm wn fun a => by
        by_cases ha : k = a
        · rw [Mem.read_below m wm (by omega), Mem.read_below n wn (by omega)]
        · simpa only [Mem.read_cons_other _ _ ha] using h a
      rw [bytes, tails]

/-- A memory in canonical form is determined by what its addresses read as. -/
theorem Mem.ext_of_wf (m n : Mem) (wm : m.wf = true) (wn : n.wf = true) (h : ∀ a, m.read a = n.read a) : m = n :=
  Mem.ext_of_wfFrom m n wm wn h

/-- Settles O17: `Mem.read_writeBytes` is by induction on the bytes, `Mem.read_zeroRange` is `Mem.read_filter` at the range, and
`Mem.ext_of_wf` is by induction on the cells. -/
theorem memoryReadsWhatWasWritten : Obligations.MemoryReadsWhatWasWritten :=
  ⟨Mem.read_writeBytes, fun m a n c _ => Mem.read_zeroRange m a n c, Mem.ext_of_wf⟩

end Sys2Proof.Machine

/-! The registers whose read captures others: the read of an identity whose port reaches the BAR is answered, and captures (O36; 02 R55,
13 R343). -/

namespace Sys2Proof.Machine

theorem not_refused_of_portOk {who : BitVec 4} {s : State} (port : s.portOk who = true) : ¬ (!s.portOk who) = true := by
  simp [port]

theorem execTideNowLoRead_of_portOk {who : BitVec 4} {s : State} (cyc : Nat) (port : s.portOk who = true) :
    execTideNowLoRead who cyc s =
      if s.tide.running then
        .next ((s.modTide (fun t => { t with
          capHi := BitVec.ofNat 16 (s.now.toNat / 2 ^ 32)
          capCycle := BitVec.ofNat 12 (min cyc 4095) })).answer who.toNat [BitVec.ofNat 32 s.now.toNat])
      else .next ((s.modTide (fun t => { t with capHi := 0, capCycle := 0 })).answer who.toNat [0]) :=
  if_neg (not_refused_of_portOk port)

/-- Settles O36: behind the one guard, the port, a read of the tide word depends on whether the tide runs, a read of a fault word on
which of the three it is. -/
theorem capturingReadsComplete : Obligations.CapturingReadsComplete := by
  refine ⟨fun who cyc s port running => ?tideRuns, fun who cyc s port early => ?beforeFirstTide, fun who s port => ?lighthouseEast,
    fun who s port => ?lighthouseWest, fun who s port => ?packageWord⟩
  case tideRuns => exact (execTideNowLoRead_of_portOk cyc port).trans (if_pos running)
  case beforeFirstTide => exact (execTideNowLoRead_of_portOk cyc port).trans (if_neg (by simp [early]))
  case lighthouseEast => exact if_neg (not_refused_of_portOk port)
  case lighthouseWest => exact if_neg (not_refused_of_portOk port)
  case packageWord => exact if_neg (not_refused_of_portOk port)

end Sys2Proof.Machine

/-! The events of the tide (O35). Each meaning begins with the test that leaves the state as it is (log entry 4); the premises of an
event's part say that this test fails, and what is then left is the effect. -/

namespace Sys2Proof.Machine

theorem State.idleBoundary_of_not_resetDue {s : State} (stays : s.boot.resetDue = false) : s.idleBoundary = s.modTide TideSt.advance :=
  if_neg (by simp [stays])

theorem execTideBoundary_of_counting {s : State} (faults : List HwFault) (counts : s.tide.counting = true) :
    execTideBoundary faults s =
      .next (if s.tide.running then (faults.foldl (fun (s : State) f => s.hwFault f) s).boundary else s.idleBoundary) := by
  cases running : s.tide.running <;> simp [execTideBoundary, counts, running]

/-- What 64 tides without a complete exchange on the primary parent do, before the first tide as after it (02 R38, 15 R398). -/
theorem execExchangeTimeout_of_lost {s : State} (counts : s.tide.counting = true) (generate : s.tide.cfg.mode = modeGenerate)
    (lost : 64 ≤ s.tide.sincePrimary) :
    execExchangeTimeout s =
      if s.tide.cfg.backup.toNat = 0xFFFF ∨ (64 ≤ s.tide.sinceBackup ∧ (s.tide.running ∨ s.tide.onBackup)) then
        .next (if s.tide.running then s.enterHoldover else s)
      else .next (s.modTide (fun t => { t with onBackup := true })) :=
  if_neg (by simp [counts, generate, lost])

/-- Settles O35: an alignment cell is due by a split on whether the berth has sent one, and both parts of EXCHANGE_TIMEOUT are
`execExchangeTimeout_of_lost`. -/
theorem tideEventsComplete : Obligations.TideEventsComplete := by
  refine ⟨?boundary, ?boundaryBeforeFirstTide, ?tideInEdge, ?tideInLost, ?alignTx, ?align, ?exchangeTimeout,
    ?exchangeTimeoutBeforeFirstTide, ?tideOverrun⟩
  case boundary =>
    intro faults s counts running
    exact (execTideBoundary_of_counting faults counts).trans (by rw [if_pos running])
  case boundaryBeforeFirstTide =>
    intro faults s counts early stays
    exact (execTideBoundary_of_counting faults counts).trans (by simp [early, State.idleBoundary_of_not_resetDue stays])
  case tideInEdge =>
    intro time low high s follow wasLow staysHigh pulseEnds
    exact if_neg (by simp [follow]; omega)
  case tideInLost =>
    intro now s running follow _ late
    exact if_neg (by simp [running, follow, late])
  case alignTx =>
    intro b cyc frac s up notEth notSafe inTide inStamp due
    cases sent : (s.berth b.val).alignAt with
    | none => exact if_neg (by simp [up, notEth, notSafe, inTide, inStamp, sent])
    | some p => exact if_neg (by simpa [up, notEth, notSafe, inTide, inStamp, sent] using due p sent)
  case align =>
    rintro b c cyc frac v t s up notEth notSafe inStamp rfl rfl
    exact if_neg (by simp [up, notEth, notSafe, inStamp])
  case exchangeTimeout =>
    intro s counts running generate lost
    exact (execExchangeTimeout_of_lost counts generate lost).trans (by simp [running, apply_ite Host.Outcome.next])
  case exchangeTimeoutBeforeFirstTide =>
    intro s counts early generate lost onPrimary hasBackup
    exact (execExchangeTimeout_of_lost counts generate lost).trans (if_neg (by simp [early, onPrimary, hasBackup]))
  case tideOverrun =>
    rintro h eng tile k u t s rfl served rfl
    change execTideOverrun h eng tile s = _
    rw [execTideOverrun, served] <;> rfl

end Sys2Proof.Machine

/-! The number formats: which integers the integer formats read and write, what the codes name, and what a block of zeros converts to
(O10, O11, O12; 03 R58, R63, R65, R76, R78). -/

namespace Sys2Proof.Machine

/-! ## The integer formats -/

theorem sext_eq_toInt (w x : Nat) : sext w x = (BitVec.ofNat w x).toInt := by
  cases w with
  | zero => simp [sext, Nat.mod_one, BitVec.toInt_eq_toNat_cond]
  | succ w =>
    rw [BitVec.toInt_eq_toNat_cond, BitVec.toNat_ofNat]
    have double : x % 2 ^ (w + 1) < 2 ^ w ↔ 2 * (x % 2 ^ (w + 1)) < 2 ^ (w + 1) := by omega
    simp [sext, double]

@[simp] theorem Val.sig_ofSig (special : Bool) (sig e : Int) : (Val.ofSig special sig e).sig = sig := by
  simp only [Val.ofSig, Val.sig, decide_eq_true_eq, Int.ofNat_eq_natCast]
  split <;> omega

theorem decodeElement_of_isInt {c : Fmt} (int : c.isInt = true) (bits : Nat) :
    decodeElement c bits = Val.ofSig false (sext c.width bits) 0 :=
  if_pos int

/-- An integer element is read as the two's complement of its width, over the full range (03 R63). -/
theorem decodeElement_isInt_reads_twos {c : Fmt} (int : c.isInt = true) (bits : Nat) :
    (decodeElement c bits).special = false ∧ (decodeElement c bits).e = 0 ∧
    (decodeElement c bits).sig = (BitVec.ofNat c.width bits).toInt := by
  rw [decodeElement_of_isInt int, ← sext_eq_toInt]
  exact ⟨rfl, rfl, Val.sig_ofSig _ _ _⟩

theorem Fmt.maxExp_of_isInt {c : Fmt} (int : c.isInt = true) : c.maxExp = 0 := by
  cases c with
  | int8 | int32 => rfl
  | _ => cases int

/-- The largest magnitude of an integer format leaves out the least integer of its width (03 R63). -/
theorem Fmt.maxSig_lt_of_isInt {c : Fmt} (int : c.isInt = true) : c.maxSig < 2 ^ (c.width - 1) := by
  cases c with
  | int8 | int32 => decide
  | _ => cases int

theorem Fmt.width_pos (c : Fmt) : 0 < c.width := by
  cases c <;> decide

@[simp] theorem leScaled_same_exp (a b : Nat) (e : Int) : leScaled a e b e = decide (a ≤ b) := by
  simp [leScaled]

theorem encodeElem_of_isInt {c : Fmt} (int : c.isInt = true) (neg : Bool) (k : Nat) (q : Int) :
    encodeElem c neg k q = if neg then 2 ^ c.width - k else k :=
  if_pos int

@[simp] theorem signedZero_of_isInt {c : Fmt} (int : c.isInt = true) (neg : Bool) : signedZero c neg = 0 := by
  simp [signedZero, int]

@[simp] theorem convertElement_zero (c : Fmt) (mode : Nat) (neg : Bool) (qe x : Int) (r : Nat) :
    convertElement c mode neg 0 qe x r = (0, false, false) :=
  if_pos rfl

/-- A converted integer element is 0, or a magnitude of the format's range with the value's sign. -/
theorem convertElement_of_isInt {c : Fmt} (int : c.isInt = true) (mode : Nat) (neg : Bool) (qm : Nat) (qe x : Int) (r : Nat) :
    (convertElement c mode neg qm qe x r).1 = 0 ∨
    ∃ k, 0 < k ∧ k ≤ c.maxSig ∧ (convertElement c mode neg qm qe x r).1 = if neg then 2 ^ c.width - k else k := by
  by_cases zero : qm = 0
  · exact .inl (by rw [zero, convertElement_zero])
  simp only [convertElement, zero, int, Fmt.maxExp_of_isInt int, if_true, if_false, ite_self, leScaled_same_exp, decide_eq_true_eq,
    encodeElem_of_isInt int, signedZero_of_isInt int, Bool.not_true, Bool.false_and, Bool.false_eq_true]
  generalize held : (if roundMag qm (qe - x) 0 mode r ≤ c.maxSig then roundMag qm (qe - x) 0 mode r else c.maxSig) = k
  have bounded : k ≤ c.maxSig := by rw [← held]; split <;> omega
  by_cases flushed : k = 0
  · exact .inl (by rw [if_pos flushed])
  · exact .inr ⟨k, Nat.pos_of_ne_zero flushed, bounded, by rw [if_neg flushed]⟩

/-- An integer format is written symmetrically: never as the least integer of its width (03 R63). -/
theorem convertElement_isInt_symmetric {c : Fmt} (int : c.isInt = true) (mode : Nat) (neg : Bool) (qm : Nat) (qe x : Int) (r : Nat) :
    (convertElement c mode neg qm qe x r).1 < 2 ^ c.width ∧ (convertElement c mode neg qm qe x r).1 ≠ 2 ^ (c.width - 1) := by
  have range := Fmt.maxSig_lt_of_isInt int
  have double : 2 ^ c.width = 2 * 2 ^ (c.width - 1) := (mul_pow_sub_one (Nat.ne_of_gt c.width_pos) 2).symm
  obtain zero | ⟨k, positive, bounded, written⟩ := convertElement_of_isInt int mode neg qm qe x r
  · rw [zero]; omega
  · rw [written]; cases neg <;> simp only [if_true, if_false, Bool.false_eq_true] <;> omega

/-- Settles O10: both formats read by `decodeElement_isInt_reads_twos` and write by `convertElement_isInt_symmetric`. -/
theorem integerFormatsKeepTheirRange : Obligations.IntegerFormatsKeepTheirRange := by
  refine ⟨fun b _ => decodeElement_isInt_reads_twos (c := .int8) rfl b, fun b _ => decodeElement_isInt_reads_twos (c := .int32) rfl b,
    fun mode neg qm qe x r => ?written, rfl⟩
  case written =>
    obtain ⟨fits8, ne8⟩ := convertElement_isInt_symmetric (c := .int8) rfl mode neg qm qe x r
    obtain ⟨fits32, ne32⟩ := convertElement_isInt_symmetric (c := .int32) rfl mode neg qm qe x r
    exact ⟨fits8, ne8, fits32, ne32⟩

/-! ## A block of zeros -/

@[simp] theorem rtoQuotientBy_zero (e : Int) (sc : Nat) (ce : Int) : rtoQuotientBy 0 e sc ce = (0, 0) :=
  if_pos rfl

@[simp] theorem chooseFineExp_zero (c : Fmt) (ae : Int) : chooseFineExp c 0 ae = -127 :=
  if_pos rfl

/-- A block's largest quotient is that of a zero when every value that is not special is zero (03 R78). -/
theorem foldl_maxQuo_of_zeros {vs : List (Val × Nat)} {quo : Val × Nat → Nat × Int}
    (zeros : ∀ v ∈ vs, v.1.special = true ∨ quo v = (0, 0)) :
    vs.foldl (fun a v => if v.1.special then a else maxQuo a (quo v)) (0, 0) = (0, 0) := by
  induction vs with
  | nil => rfl
  | cons v vs ih =>
    obtain ⟨head, tail⟩ := List.forall_mem_cons.mp zeros
    have kept : (if v.1.special then ((0, 0) : Nat × Int) else maxQuo (0, 0) (quo v)) = (0, 0) := by
      split
      next => rfl
      next finite => rw [head.resolve_left finite]; rfl
    rw [List.foldl_cons, kept, ih tail]

/-- A block with no nonzero value, not special as a whole, converts its special values to the format's NaN and the others to 0
(03 R65, R78). -/
theorem convertBlockBy_of_zeros {c : Fmt} (mode sc : Nat) (ce : Int) {vs : List (Val × Nat)} (fine : c.fine = true)
    (zeros : ∀ v ∈ vs, v.1.mag = 0 ∨ v.1.special = true) (own : c.hasNan = true ∨ ∀ v ∈ vs, v.1.special = false) :
    convertBlockBy c mode sc ce vs = ⟨vs.map (fun v => if v.1.special then c.nan else 0), 0, false, vs.map (fun _ => false)⟩ := by
  have notSpecial : (vs.any (fun v => v.1.special) && !c.hasNan) = false := by
    obtain nan | finite := own
    · simp [nan]
    · simp [show vs.any (fun v => v.1.special) = false by simpa using finite]
  have quotients : ∀ v ∈ vs, v.1.special = true ∨ rtoQuotientBy v.1.mag v.1.e sc ce = (0, 0) := fun v hv =>
    (zeros v hv).symm.imp_right fun zero => by rw [zero, rtoQuotientBy_zero]
  have elements : ∀ v ∈ vs,
      (if v.1.special then (c.nan, false, false)
        else convertElement c mode v.1.neg (rtoQuotientBy v.1.mag v.1.e sc ce).1 (rtoQuotientBy v.1.mag v.1.e sc ce).2 (-127) v.2) =
      (if v.1.special then c.nan else 0, false, false) := fun v hv => by
    split
    next => rfl
    next finite => rw [(quotients v hv).resolve_left finite, convertElement_zero]
  simp only [convertBlockBy, fine, Bool.true_and, notSpecial, ← List.map_prod_left_eq_zip, List.foldl_map,
    foldl_maxQuo_of_zeros quotients, chooseFineExp_zero, List.map_map, Function.comp_def, List.map_congr_left elements,
    if_true, if_false, Bool.false_eq_true]
  simp

/-- Settles O12: the four parts are read off the block that `convertBlockBy_of_zeros` gives. -/
theorem zeroBlocksConvertToZero : Obligations.ZeroBlocksConvertToZero := by
  intro c mode sc ce vs fine zeros own
  rw [convertBlockBy_of_zeros mode sc ce fine zeros own, ← List.map_prod_left_eq_zip]
  refine ⟨rfl, rfl, ?lost, ?bits⟩
  case lost => simp
  case bits =>
    intro e he finite
    obtain ⟨v, -, rfl⟩ := List.mem_map.mp he
    exact if_neg (by simp [show v.1.special = false from finite])

/-! ## The format codes -/

theorem Fmt.ofCode_eq_none_of_gt {n : Nat} (reserved : 0xA < n) : Fmt.ofCode n = none := by
  obtain ⟨k, rfl⟩ : ∃ k, n = k + 11 := ⟨n - 11, by omega⟩
  rfl

/-- Settles O11: the reserved codes above 0xA by `Fmt.ofCode_eq_none_of_gt`; Table 3-1 is evaluated row by row. -/
theorem formatCodes : Obligations.FormatCodes := by
  refine ⟨fun n reserved => ?reserved, by decide⟩
  case reserved =>
    obtain rfl | ⟨above, -⟩ := reserved
    · rfl
    · exact Fmt.ofCode_eq_none_of_gt above

end Sys2Proof.Machine

/-! Additions into a window: its word holds one integer, the true value, and three flags, and an addition adds to the one and sets of
the others what its input alone says, so that the order of additions is no part of the word (O9; 04 R86, R88, R89, R90). -/

namespace Sys2Proof.Machine

/-! ## The true value and its two parts -/

/-- The true values that A and WRAP can hold: 2^106 of them in a row (04 R86). -/
theorem Window.trueValue_range (w : Window) : -(5 * 2 ^ 103) ≤ w.trueValue ∧ w.trueValue < 3 * 2 ^ 103 := by
  have lowA := w.a.le_toInt
  have highA := w.a.toInt_lt
  have lowWrap := w.wrap.le_toInt
  have highWrap := w.wrap.toInt_lt
  simp only [Window.trueValue]
  omega

theorem Window.parts_of_trueValue_eq {w x : Window} (same : w.trueValue = x.trueValue) : w.a = x.a ∧ w.wrap = x.wrap := by
  have lowA := w.a.le_toInt
  have highA := w.a.toInt_lt
  have lowA' := x.a.le_toInt
  have highA' := x.a.toInt_lt
  simp only [Window.trueValue] at same
  exact ⟨BitVec.eq_of_toInt_eq (by omega), BitVec.eq_of_toInt_eq (by omega)⟩

theorem Window.ext_of_trueValue {w x : Window} (same : w.trueValue = x.trueValue) (spec : w.spec = x.spec) (ovfp : w.ovfp = x.ovfp)
    (ovfn : w.ovfn = x.ovfn) : w = x := by
  obtain ⟨a, wrap⟩ := Window.parts_of_trueValue_eq same
  cases w
  cases x
  simp_all

@[simp] theorem Window.setTrue_spec (w : Window) (t : Int) : (w.setTrue t).spec = w.spec := rfl
@[simp] theorem Window.setTrue_ovfp (w : Window) (t : Int) : (w.setTrue t).ovfp = w.ovfp := rfl
@[simp] theorem Window.setTrue_ovfn (w : Window) (t : Int) : (w.setTrue t).ovfn = w.ovfn := rfl

/-- A and WRAP hold an integer modulo 2^106, as the one of its class that lies in their range (04 R88). -/
theorem Window.trueValue_setTrue (w : Window) (t : Int) : (w.setTrue t).trueValue = (t + 5 * 2 ^ 103) % 2 ^ 106 - 5 * 2 ^ 103 := by
  simp only [Window.setTrue, Window.trueValue, BitVec.toInt_ofInt, Int.bmod_def]
  omega

theorem Window.trueValue_setTrue_of_range (w : Window) {t : Int} (low : -(5 * 2 ^ 103) ≤ t) (high : t < 3 * 2 ^ 103) :
    (w.setTrue t).trueValue = t := by
  rw [Window.trueValue_setTrue, Int.emod_eq_of_lt (by omega) (by omega)]
  omega

/-! ## An addition as its integer and its flags -/

/-- The window after an addition of an integer and flags (04 R88). -/
def Window.plus (w : Window) (x : SpillAdd) : Window :=
  { w with spec := w.spec || x.spec, ovfp := w.ovfp || x.ovfp, ovfn := w.ovfn || x.ovfn }.setTrue (w.trueValue + x.value)

@[simp] theorem Window.plus_spec (w : Window) (x : SpillAdd) : (w.plus x).spec = (w.spec || x.spec) := rfl
@[simp] theorem Window.plus_ovfp (w : Window) (x : SpillAdd) : (w.plus x).ovfp = (w.ovfp || x.ovfp) := rfl
@[simp] theorem Window.plus_ovfn (w : Window) (x : SpillAdd) : (w.plus x).ovfn = (w.ovfn || x.ovfn) := rfl

theorem Window.trueValue_plus (w : Window) (x : SpillAdd) :
    (w.plus x).trueValue = (w.trueValue + x.value + 5 * 2 ^ 103) % 2 ^ 106 - 5 * 2 ^ 103 :=
  Window.trueValue_setTrue _ _

theorem Window.trueValue_plus_of_range {w : Window} {x : SpillAdd} (low : -(5 * 2 ^ 103) ≤ w.trueValue + x.value)
    (high : w.trueValue + x.value < 3 * 2 ^ 103) : (w.plus x).trueValue = w.trueValue + x.value :=
  Window.trueValue_setTrue_of_range _ low high

/-- An addition of 0 sets no more than its flags: the parts that hold a true value are unique (04 R89). -/
theorem Window.plus_of_value_zero (w : Window) {x : SpillAdd} (zero : x.value = 0) :
    w.plus x = { w with spec := w.spec || x.spec, ovfp := w.ovfp || x.ovfp, ovfn := w.ovfn || x.ovfn } := by
  obtain ⟨low, high⟩ := w.trueValue_range
  have kept : (w.plus x).trueValue = w.trueValue + x.value := Window.trueValue_plus_of_range (by omega) (by omega)
  exact Window.ext_of_trueValue (by rw [kept, zero, Int.add_zero]; rfl) rfl rfl rfl

/-- Two additions are one addition of both (04 R89). -/
theorem Window.plus_plus (w : Window) (x y : SpillAdd) : (w.plus x).plus y = w.plus (x.join y) := by
  refine Window.ext_of_trueValue ?value (Bool.or_assoc ..) (Bool.or_assoc ..) (Bool.or_assoc ..)
  case value =>
    simp only [Window.trueValue_plus, SpillAdd.join]
    omega

/-- What an addition adds and sets, from its own input alone (04 R89). -/
def WindowAdd.effect (cexp : Int) (x : WindowAdd) : SpillAdd :=
  ⟨x.units cexp, x.setsSpec, x.setsOver cexp false, x.setsOver cexp true⟩

theorem WindowAdd.effect_place_of_special (cexp : Int) {v : Val} (special : v.special = true) :
    (WindowAdd.place v).effect cexp = ⟨0, true, false, false⟩ := by
  simp [WindowAdd.effect, WindowAdd.units, WindowAdd.setsSpec, WindowAdd.setsOver, special]

/-- What a value that is not special adds and sets, by whether it lies above the window's range. -/
theorem WindowAdd.effect_place_of_finite (cexp : Int) {v : Val} (finite : ¬ v.special = true) :
    (WindowAdd.place v).effect cexp =
      if v.mag ≠ 0 ∧ Int.ofNat (bitLen v.mag) + v.e > cexp + 48 then ⟨0, false, !v.neg, v.neg⟩
      else ⟨if v.neg then -Int.ofNat (roundMag v.mag v.e (cexp - 48) 3 0) else Int.ofNat (roundMag v.mag v.e (cexp - 48) 3 0),
        false, false, false⟩ := by
  have test : (v.mag != 0 && decide (cexp + 48 < Int.ofNat (bitLen v.mag) + v.e)) =
      decide (v.mag ≠ 0 ∧ Int.ofNat (bitLen v.mag) + v.e > cexp + 48) := by
    rw [Bool.decide_and, decide_not]; rfl
  rw [Bool.not_eq_true] at finite
  simp only [WindowAdd.effect, WindowAdd.units, WindowAdd.setsSpec, WindowAdd.setsOver, finite, Bool.not_false, Bool.true_and,
    Bool.false_or, test, decide_eq_true_eq]
  split
  next above => simp only [decide_eq_true above, Bool.true_and, beq_false, beq_true]
  next inside => simp only [decide_eq_false inside, Bool.false_and]

/-- Every addition, whichever way it falls out, is one of its integer and its flags (04 R88). -/
theorem WindowAdd.into_eq_plus (cexp : Int) (w : Window) (x : WindowAdd) : x.into cexp w = w.plus (x.effect cexp) := by
  cases x with
  | combine p => rfl
  | place v =>
    rw [WindowAdd.into, Window.place]
    split
    next special => rw [WindowAdd.effect_place_of_special cexp special, Window.plus_of_value_zero w rfl]; simp
    next finite =>
      rw [WindowAdd.effect_place_of_finite cexp finite]
      split
      next above => rw [Window.plus_of_value_zero w rfl]; cases v.neg <;> simp
      next inside => simp [Window.plus]

/-! ## A list of additions -/

/-- What a list of additions adds and sets together. -/
def WindowAdd.total (cexp : Int) (l : List WindowAdd) : SpillAdd :=
  ⟨(l.map (WindowAdd.units cexp)).sum, l.any WindowAdd.setsSpec, l.any (WindowAdd.setsOver cexp false),
    l.any (WindowAdd.setsOver cexp true)⟩

theorem WindowAdd.total_cons (cexp : Int) (x : WindowAdd) (l : List WindowAdd) :
    WindowAdd.total cexp (x :: l) = (x.effect cexp).join (WindowAdd.total cexp l) := by
  simp only [WindowAdd.total, List.map_cons, List.sum_cons, List.any_cons, WindowAdd.effect, SpillAdd.join]

theorem WindowAdd.total_perm (cexp : Int) {l m : List WindowAdd} (p : l.Perm m) : WindowAdd.total cexp l = WindowAdd.total cexp m := by
  simp only [WindowAdd.total, (p.map _).sum_eq, p.any_eq]

/-- The word after a list of additions: the true value and the flags before, with what the additions add and set together. -/
theorem Window.foldl_into (cexp : Int) (w : Window) (l : List WindowAdd) :
    l.foldl (WindowAdd.into cexp) w = w.plus (WindowAdd.total cexp l) := by
  induction l generalizing w with
  | nil => simp [WindowAdd.total, Window.plus_of_value_zero]
  | cons x l ih => rw [List.foldl_cons, ih, WindowAdd.into_eq_plus, Window.plus_plus, WindowAdd.total_cons]

/-- Settles O9: every part reads the word off `Window.foldl_into`, whose total is that of any order of the additions. -/
theorem windowOrderDoesNotMatter : Obligations.WindowOrderDoesNotMatter := by
  refine ⟨fun cexp w l m p => ?order, fun cexp w l low high => ?value, fun cexp w l => ?flags, fun w x => Window.parts_of_trueValue_eq⟩
  case order => rw [Window.foldl_into, Window.foldl_into, WindowAdd.total_perm cexp p]
  case value =>
    rw [Window.foldl_into]
    exact Window.trueValue_plus_of_range (le_trans (by omega) low) (lt_of_le_of_lt high (by omega))
  case flags =>
    rw [Window.foldl_into]
    exact ⟨rfl, rfl, rfl⟩

end Sys2Proof.Machine

/-! The events of the reduction engines (O37). Each meaning begins with the test that leaves the state as it is (log entry 4); the
premises of an event's part say that this test fails, and what is then left is the effect. -/

namespace Sys2Proof.Machine

/-- Admitted, a chunk is converted and its carry sent, or the fault met in its windows is raised (05 R132, 04 R92). -/
theorem execOutputConversion_of_ready {sid : Sid} {chunk : U16} {cyc : Nat} {m : ManifestCfg} {s : State} (err : Option TileFault)
    (cfg : s.mfst sid.toNat = some m) (ready : s.convReady sid.toNat m chunk.toNat = true) (first : s.blocked m.root cyc 1 = false)
    (fits : s.fits m.root cyc costConvert = true) :
    execOutputConversion sid chunk cyc err s =
      .next (if err.isSome then
          (s.charge m.root costConvert (.chunk sid.toNat chunk.toNat)).workFault m.root m.root sid.toNat m chunk.toNat err
        else ((s.charge m.root costConvert (.chunk sid.toNat chunk.toNat)).convert sid.toNat m chunk.toNat).sendCarry sid.toNat m
          chunk.toNat) := by
  simp [execOutputConversion, cfg, ready, first, fits]

/-- Settles O37: a contribution cell falls out by whether it is of the current run, a conversion by whether it meets a fault
(`execOutputConversion_of_ready`), a drain that is done by what it was for. -/
theorem engineEventsComplete : Obligations.EngineEventsComplete := by
  refine ⟨?cell, ?staleCell, ?spill, ?combine, ?conversion, ?conversionFault, ?fuseLoad, ?drain, ?drainDone, ?recipe⟩
  case cell =>
    rintro h eng tile cyc k w m ph p err s rfl first front cfg packet fresh fits
    change execContributionCell h eng tile cyc err s = _
    simp only [execContributionCell, first, front, cfg, packet, fresh, fits, if_true, if_false, Bool.false_eq_true, Bool.not_true]
  case staleCell =>
    rintro h eng tile cyc k w m ph p err s rfl first front cfg packet stale fits
    change execContributionCell h eng tile cyc err s = _
    simp only [execContributionCell, first, front, cfg, packet, stale, fits, if_false, Bool.false_eq_true, Bool.not_true,
      Nat.add_zero]
  case spill =>
    rintro h eng tile slot cyc k e m err s rfl first fits found cfg
    change execSpill h eng tile slot cyc err s = _
    simp only [execSpill, first, fits, found, cfg, if_false, Bool.false_eq_true, Bool.not_true, Bool.or_false]
  case combine =>
    rintro sid chunk srcHalf srcEng srcTile cyc j k m err s rfl cfg above first notOver fits
    change execTreeCombine sid chunk srcHalf srcEng srcTile cyc err s = _
    simp only [execTreeCombine, cfg, above, first, notOver, fits, if_false, Bool.false_eq_true, Bool.not_true, Bool.or_false]
  case conversion =>
    intro sid chunk cyc m s cfg ready first fits
    exact execOutputConversion_of_ready none cfg ready first fits
  case conversionFault =>
    intro sid chunk cyc m f s cfg ready first fits
    exact execOutputConversion_of_ready (some f) cfg ready first fits
  case fuseLoad =>
    intro sid chunk m s cfg fused live inside missing
    change execFuseOperandLoad sid chunk s = _
    simp [execFuseOperandLoad, cfg, fused, live, inside, missing]
  case drain =>
    rintro h eng tile cyc k d rest s rfl waiting idle fits
    change execDrain h eng tile cyc s = _
    simp only [execDrain, waiting, idle, fits, if_true]
  case drainDone =>
    rintro h eng tile k d s rfl draining
    change execDrainDone h eng tile s = _
    cases d <;> simp only [execDrainDone, draining]
  case recipe =>
    rintro h index chunk eng tile cyc key k x r rc ue s rfl rfl shard running first imageGood image found fresh
    change execRecipeOperation h index chunk eng tile cyc ue s = _
    simp [execRecipeOperation, shard, running, first, imageGood, image, found, fresh]

end Sys2Proof.Machine

/-! The events of streams (O38). Each meaning begins with the test that leaves the state as it is (log entry 4); the
premises of an event's part say that this test fails, and what is then left is the effect. -/

namespace Sys2Proof.Machine

/-- Settles O38: a packet's event falls out by the packet that is ready and a stream's by its record; every other event has one guard,
which the premises decide. -/
theorem streamEventsComplete : Obligations.StreamEventsComplete := by
  refine ⟨?contribution, ?manifestFetch, ?result, ?patience, ?fenceEmpty, ?teardown, ?peerLost⟩
  case contribution =>
    intro h pid p s ready notQueued
    change execContributionPacket h pid s = _
    simp only [execContributionPacket, ready, notQueued, if_false, Bool.false_eq_true]
  case manifestFetch =>
    rintro h sid t s fetching rfl
    exact if_neg (not_not_intro fetching)
  case result =>
    intro h pid p s ready
    change execResultPacket h pid s = _
    rw [execResultPacket, ready]
  case patience =>
    intro sid chunk m t s cfg clock live late missing
    change execPatienceExpiry sid chunk s = _
    simp only [execPatienceExpiry, cfg, clock]
    exact if_pos ⟨live, late, by rw [missing]; rfl⟩
  case fenceEmpty =>
    intro sid s fencing noPackets noDrains noResends
    exact if_pos ⟨fencing, by rw [noPackets]; decide, by rw [noDrains]; decide, by rw [noResends]; rfl⟩
  case teardown =>
    intro sid t s fencing torn due
    change execTeardownDeadline sid s = _
    simp only [execTeardownDeadline, fencing, torn]
    exact if_neg (by rw [due]; decide)
  case peerLost =>
    rintro addr t s gone rfl
    exact if_neg (by simp [gone])

end Sys2Proof.Machine

/-! The control cells of streams (O39). The reception of a cell leaves the state t and says that the cell is for this switch; what the
cell does then, to a stream that has a Manifest, stands behind the tests of its sender and of its run. -/

namespace Sys2Proof.Machine

/-- A request that can be served (05 R135) waits for the next boundary, or, of a retained copy with an uncorrectable error, poisons the
chunk; the sender is then told, unless the poison cells go to it anyway (05 R138). -/
theorem execResendReq_of_servable {c : Ctrl} {sid : Sid} {gen : Byte} {chunk : U16} {elemOff : BitVec 12} {seg : BitVec 2} {s t : State}
    {m : ManifestCfg} (ue : Option (BitVec 33)) (got : s.ctrlIn c (.resendReq sid gen chunk elemOff seg) = (t, true))
    (cfg : (t.stream sid.toNat).cfg = some m) (running : (t.stream sid.toNat).state = .live ∨ (t.stream sid.toNat).state = .retaining)
    (run : (t.stream sid.toNat).gen = gen) (releaser : m.releaser = true)
    (notFreed : ((t.stream sid.toNat).chunk chunk.toNat).freed = false)
    (held : ((t.stream sid.toNat).chunk chunk.toNat).retained.any (fun p => p.elemOff == elemOff.toNat && p.seg == seg.toNat) = true) :
    execResendReq c sid gen chunk elemOff seg ue s =
      .next (ue.elim
        (t.modStream sid.toNat (fun x => { x with resends := x.resends ++ [⟨c.src, chunk.toNat, elemOff.toNat, seg.toNat⟩] }))
        (fun addr =>
          let u := t.raiseWith m.home 36 (accessDetail (m.home.num * 2 ^ 33 + addr.toNat))
          (if c.src ∈ u.poisonDests m then u else u.sendCtrl c.src m.job (.poison sid gen chunk)).askAbort sid.toNat
            ⟨2, chunk, 0xFF, false, none⟩)) := by
  have served : ((t.stream sid.toNat).state = .live ∨ (t.stream sid.toNat).state = .retaining) ∧ (t.stream sid.toNat).gen = gen ∧
      m.releaser ∧ !((t.stream sid.toNat).chunk chunk.toNat).freed ∧
      ((t.stream sid.toNat).chunk chunk.toNat).retained.any (fun p => p.elemOff == elemOff.toNat && p.seg == seg.toNat) :=
    ⟨running, run, releaser, by rw [notFreed]; rfl, held⟩
  simp only [execResendReq, got, cfg]
  rw [if_neg (by simp), if_pos served]
  cases ue <;> rfl

/-- Settles O39: of each cell received, the premises decide the test of its sender and that of its run; both parts of RESEND_REQ are
`execResendReq_of_servable`. -/
theorem streamCellsComplete : Obligations.StreamCellsComplete := by
  refine ⟨?start, ?abort, ?poison, ?ack, ?resend, ?resendPoisoned⟩
  case start =>
    intro c sid gen t m s got cfg hasDown fromDown
    change execStreamStart c sid gen s = _
    simp only [execStreamStart, got, cfg]
    exact if_neg (by simp [hasDown, fromDown])
  case abort =>
    intro c sid gen failChunk status t m s got cfg run live named low high
    have current : ¬((t.stream sid.toNat).gen ≠ gen ∨ (t.stream sid.toNat).state ≠ .live ∨ status < 2 ∨ 8 < status) := by
      simp only [run, live, ne_eq, not_true, false_or]
      bv_omega
    change execStreamAbortCell c sid gen failChunk status s = _
    simp only [execStreamAbortCell, got, cfg]
    exact (if_neg (not_not_intro named)).trans (if_neg current)
  case poison =>
    intro c sid gen failChunk t m s got cfg run running sender
    have named : ¬((m.ringN ≤ 1 ∨ c.src ≠ m.upAddr) ∧ c.src ∉ t.childAddrs m) := by
      rintro ⟨notUp, notChild⟩
      obtain ⟨ring, fromUp⟩ | fromChild := sender
      · exact notUp.elim (fun short => by omega) (fun other => other fromUp)
      · exact notChild fromChild
    have current : ¬((t.stream sid.toNat).gen ≠ gen ∨
        ((t.stream sid.toNat).state ≠ .live ∧ (t.stream sid.toNat).state ≠ .retaining)) := by
      rintro (other | ⟨notLive, notRetaining⟩)
      · exact other run
      · exact running.elim notLive notRetaining
    change execPoison c sid gen failChunk s = _
    simp only [execPoison, got, cfg]
    exact (if_neg named).trans (if_neg current)
  case ack =>
    rintro c sid gen chunk count t m good s got cfg run nonzero consumer rfl
    change execResultAck c sid gen chunk count s = _
    simp only [execResultAck, got, cfg]
    exact (if_neg (not_not_intro run)).trans (if_neg (not_or.mpr ⟨nonzero, not_not_intro consumer⟩))
  case resend =>
    intro c sid gen chunk elemOff seg t m s got cfg running run releaser notFreed held
    exact execResendReq_of_servable none got cfg running run releaser notFreed held
  case resendPoisoned =>
    rintro c sid gen chunk elemOff seg addr t u m s got cfg running run releaser notFreed held rfl
    exact execResendReq_of_servable (some addr) got cfg running run releaser notFreed held

end Sys2Proof.Machine

/-! The events of a RESHARD round (O40; 06 R165). Each meaning begins with the tests that leave the state as it is (log entry 4): whether
there is a round, and whether it is in the phase the event belongs to. The premises of an event's part decide these tests. -/

namespace Sys2Proof.Machine

/-- Settles O40: a packet or an end cell falls out by the round of its job, every other event by the round of its record; only the end of
an entry's read has two ways on, by whether an end cell follows it. -/
theorem reshardEventsComplete : Obligations.ReshardEventsComplete := by
  refine ⟨?packet, ?endCell, ?readDone, ?writePhase, ?writeDone, ?timeout⟩
  case packet =>
    intro h pid p cid j r s ready round receiving
    change execReshardPacket h pid s = _
    simp only [execReshardPacket, ready, round]
    exact if_neg (by simp [receiving])
  case endCell =>
    intro c number t cid j r s got round same
    change execReshardEnd c number s = _
    simp only [execReshardEnd, got, round]
    exact if_pos same
  case readDone =>
    rintro cid entry r e t s round found unsent receiving running rfl
    have due : ¬ (e.sent || r.writing || (s.coll cid.toNat).state != 3) = true := by simp [unsent, receiving, running]
    change execReshardReadDone cid entry s = _
    simp only [execReshardReadDone, round, found]
    exact (if_neg due).trans (apply_ite Host.Outcome.next _ _ _).symm
  case writePhase =>
    intro cid r s round running ready receiving
    change execReshardWritePhase cid s = _
    simp only [execReshardWritePhase, round]
    exact if_pos ⟨running, ready, by rw [receiving]; rfl⟩
  case writeDone =>
    intro cid r s round running writing
    change execReshardWriteDone cid s = _
    simp only [execReshardWriteDone, round]
    exact if_pos ⟨running, writing⟩
  case timeout =>
    intro cid r s round receiving late
    change execReshardTimeout cid s = _
    simp only [execReshardTimeout, round]
    exact if_pos ⟨by rw [receiving]; rfl, late⟩

end Sys2Proof.Machine

/-! The events of gathers, prefetches and the patrol scrub (O41; 07 R202 to R204, 13 R359). A gather or a prefetch is looked up first,
and one that is not there leaves the state as it is (log entry 4); the premises of an event's part say which record is found. -/

namespace Sys2Proof.Machine

/-- A prefetch whose read is done leaves its list; an uncorrectable error is handled before its ranges are pushed, and refuses those in
the shards at its address (07 R203, R204). -/
theorem execPrefetchReadDone_of_found {id : Nat} {p : Prefetch} {s t : State} (ue : Option (BitVec 41))
    (found : s.prefetches.find? (fun p => p.id == id) = some p)
    (taken : t = { s with prefetches := s.prefetches.filter (fun q => q.id != id) }) :
    execPrefetchReadDone ⟨id, ue⟩ s =
      .next (p.ranges.foldl (fun s r => s.servePrefetch p (ue.elim [] (fun a => t.shardsAt a.toNat)) r)
        (ue.elim t (fun a => (t.holdError a.toNat (accessDetail a.toNat)).poisonAt a.toNat))) := by
  subst taken
  simp only [execPrefetchReadDone, found]
  cases ue <;> rfl

/-- Settles O41: a gather's event falls out by the gather that is found and its shard, both parts of PREFETCH_READ_DONE are
`execPrefetchReadDone_of_found`, and the patrol scrub acts by the word it found and where. -/
theorem gatherEventsComplete : Obligations.GatherEventsComplete := by
  refine ⟨?request, ?readDone, ?readPoisoned, ?timeout, ?prefetch, ?scrubCorrected, ?scrubQuay, ?prefetchPoisoned, ?scrubHold,
    ?scrubWorn⟩
  case request =>
    intro c tensor first count version dest mcast t k x s got accepted shard
    change execGatherReq c tensor first count version dest mcast s = _
    simp only [execGatherReq, got, accepted, shard]
    exact if_neg (by simp)
  case readDone =>
    intro gid g x s found shard
    change execGatherReadDone gid none s = _
    simp only [execGatherReadDone, found, shard]
  case readPoisoned =>
    intro gid g x a s found shard
    change execGatherReadDone gid (some a) s = _
    simp only [execGatherReadDone, found, shard]
  case timeout =>
    intro gid g s found late
    change execGatherTimeout gid s = _
    simp only [execGatherTimeout, found]
    exact if_pos late
  case prefetch =>
    intro id p s found
    exact execPrefetchReadDone_of_found none found rfl
  case prefetchPoisoned =>
    intro id p a t s found taken
    exact execPrefetchReadDone_of_found (some a) found taken
  case scrubCorrected => exact fun site s => rfl
  case scrubQuay => exact fun h off area s => rfl
  case scrubHold => exact fun addr s => rfl
  case scrubWorn => exact fun addr s => rfl

end Sys2Proof.Machine

/-! The events of routing and discovery (O43; 08 R229 to R234, 09 R240). Each meaning begins with the test that leaves the state as it is
(log entry 4); the premises of an event's part say that this test fails, and what is then left is the effect. -/

namespace Sys2Proof.Machine

/-- What a received DISCOVER cell says of a berth, by its plan entry: EXTRA where no neighbour is planned, else MATCH or MISWIRED (08
Table 8-13; log entry 28). -/
theorem execDiscover_of_up {b : Berth} {s : State} (c : DiscoverCell) (up : (s.berth b.val).up = true)
    (notEth : (s.berth b.val).eth = false) (notSafe : s.berthSafe b.val = false) :
    execDiscover b c s =
      .next ((s.modBerth b.val (fun y => { y with seen := some c })).setOutcome b.val
        (match Tab.get? s.chart.plan b.val with
          | none => 1
          | some p => if p.unused then 1 else if p.addr = c.addr ∧ p.berth.toNat = c.berth.toNat then 0 else 2)) := by
  rw [execDiscover, if_neg (by simp [up, notEth, notSafe])]
  simp only [State.modBerth_chart]
  cases Tab.get? s.chart.plan b.val with
  | none => rfl
  | some p =>
    simp only
    split_ifs <;> rfl

/-- Settles O43: a DISCOVER cell is due by a split on whether the berth has sent one, a received one is `execDiscover_of_up`, a removed
sub-port falls out by whether its module is down, and every other event has one guard, which the premises decide. -/
theorem fabricEventsComplete : Obligations.FabricEventsComplete := by
  refine ⟨?bypass, ?epochGate, ?shadowArm, ?discoverTx, ?discover, ?discoveryTimeout, ?subportRemoved, ?moduleDown⟩
  case bypass =>
    intro bundle e s found running allowed torus torusEnd down
    change execBypassEngage bundle s = _
    simp only [execBypassEngage, found]
    exact if_pos ⟨running, allowed, torus, torusEnd, down⟩
  case epochGate =>
    intro s draining late noneLeft
    exact if_pos ⟨draining, late, by rw [noneLeft]; rfl⟩
  case shadowArm =>
    intro t s armed lastTide
    change execChartShadowArm s = _
    simp only [execChartShadowArm, armed]
    exact if_pos lastTide
  case discoverTx =>
    intro b s up notEth notSafe due
    cases sent : (s.berth b.val).discoverAt with
    | none => exact if_neg (by simp [up, notEth, notSafe, sent])
    | some p => exact if_neg (by simpa [up, notEth, notSafe, sent] using due p sent)
  case discover =>
    intro b c s up notEth notSafe
    exact execDiscover_of_up c up notEth notSafe
  case discoveryTimeout =>
    intro b p s up notEth unseen planned used notMissing late
    exact if_pos (by simpa [up, notEth, unseen, planned, used, late] using notMissing)
  case subportRemoved => exact fun h j s => rfl
  case moduleDown =>
    rintro h j t s rfl
    rfl

end Sys2Proof.Machine

/-! The events of the switch core and its free stores (O42; 09 R242, R249, R257 to R260). The two parts that a row shares follow from one
lemma over the guard that they share; what they differ in is then decided by the remaining premise. -/

namespace Sys2Proof.Machine

/-- What arrives on a berth's sub-port is a control cell or the head of a packet, by the TYPE in its cell word (08 Table 8-1, R215). -/
theorem execPacketArrival_of_berth {h : Half} {sub : Fin 384} {b : Nat} (cw : U32) (head : List Byte) (s : State)
    (berthPort : sub.val < 288) (berth : inputBerth h sub.val = some b) :
    execPacketArrival h sub cw head s =
      .next (if cwType cw = 3 then s.ctrlArrive b cw (padTo 64 (head.take 64)) else s.berthArrive h sub.val b cw head) := by
  rw [execPacketArrival, if_neg (by omega), berth]

/-- A packet that is not whole yet is received from the half that feeds it over the bridge, or from its berth. -/
theorem execPacketReceivedWhole_of_coming {h : Half} {pid : Nat} {p : Pkt} {s : State} (rest : List Byte) (crc : U32)
    (found : (s.half h).pkt? pid = some p) (coming : p.whole = false) :
    execPacketReceivedWhole h pid rest crc s =
      .next (if p.feeder.isSome then s.bridgeWhole h p else s.receiveWhole h p rest crc) := by
  simp only [execPacketReceivedWhole, found, coming, Bool.false_eq_true, if_false]
  split_ifs <;> rfl

/-- The entries that a fetch takes into the free cache: of the 1,024 from the ring head, those in range (09 R257, R259). -/
def State.fetchedEntries (s : State) (h : Half) : List Nat :=
  let p := (s.half h).pool
  ((rangeFrom p.head 1024).map (fun i => leNat ((s.quay h).readBytes (p.entryAt i) 4))).filter (fun e => decide (e < 184320))

/-- A free store that is short of entries and whose ring holds 1,024 fetches them, unless a page of that span is bad. -/
theorem execFreeRingFetch_of_low {h : Half} {s : State} (built : (s.half h).pool.built = true) (native : (s.half h).pool.p6 = false)
    (low : (s.half h).pool.cache.length < 1024) (stocked : 1024 ≤ (s.half h).pool.count) :
    execFreeRingFetch h s =
      .next (if (s.half h).pool.spanOk (s.half h).pool.head = true then
          (s.palletFault h .palletRange (1024 - (s.fetchedEntries h).length)).modHalf h (fun x => { x with pool := { x.pool with
            cache := x.pool.cache ++ s.fetchedEntries h, head := ((s.half h).pool.head + 1024) % 184320,
            count := (s.half h).pool.count - 1024 } })
        else s.palletFault h .pageAlign 1) := by
  rw [execFreeRingFetch, if_neg (by simp [built, native, low, stocked])]
  cases (s.half h).pool.spanOk (s.half h).pool.head <;> rfl

/-- Settles O42: an arrival, a whole receipt and a fetch of the free ring each fall out by the one test that remains behind their shared
guard, a packet that waits by the packet that is found, and a grain by whether the half is started. -/
theorem switchEventsComplete : Obligations.SwitchEventsComplete := by
  refine ⟨?headArrival, ?ctrlArrival, ?bridgeArrival, ?allocation, ?wholeFromBerth, ?wholeOverBridge, ?grain, ?fetch, ?badPage, ?audit⟩
  case headArrival =>
    intro h sub cw head b s berthPort berth notCtrl
    exact (execPacketArrival_of_berth cw head s berthPort berth).trans (congrArg _ (if_neg notCtrl))
  case ctrlArrival =>
    intro h sub cw head b s berthPort berth isCtrl
    exact (execPacketArrival_of_berth cw head s berthPort berth).trans (congrArg _ (if_pos isCtrl))
  case bridgeArrival =>
    intro h sub cw head s bridgePort started
    change execPacketArrival h sub cw head s = _
    rw [execPacketArrival, if_pos bridgePort, if_pos started]
  case allocation =>
    rintro h pid p t s found waiting rfl
    change execPalletAllocation h pid s = _
    simp only [execPalletAllocation, found, waiting]
    exact if_neg (by simp)
  case wholeFromBerth =>
    intro h pid rest crc p s found coming noFeeder
    exact (execPacketReceivedWhole_of_coming rest crc found coming).trans (congrArg _ (if_neg (by simp [noFeeder])))
  case wholeOverBridge =>
    intro h pid rest crc p s found coming fed
    exact (execPacketReceivedWhole_of_coming rest crc found coming).trans (congrArg _ (if_pos fed))
  case grain =>
    intro h s started
    exact if_neg (by simp [started])
  case fetch =>
    rintro h p good s rfl built native low stocked sound taken
    rw [show good = s.fetchedEntries h from taken]
    exact (execFreeRingFetch_of_low built native low stocked).trans (congrArg _ (if_pos sound))
  case badPage =>
    rintro h p s rfl built native low stocked bad
    exact (execFreeRingFetch_of_low built native low stocked).trans (congrArg _ (if_neg (by simp [bad])))
  case audit => exact fun h s => rfl

end Sys2Proof.Machine

/-! The cells of traffic management (O44; 10 R267, R277). A CREDIT cell is passed over by a berth that is down or safe (log entry 4), and a
THROTTLE cell acts only where its reception leaves a state t and says that the cell is for this switch. -/

namespace Sys2Proof.Machine

/-- Settles O44: a CREDIT cell has one guard, which an up berth that is not safe fails; a THROTTLE cell falls out by whether it is for
this switch. -/
theorem creditAndThrottleComplete : Obligations.CreditAndThrottleComplete := by
  refine ⟨?credit, ?throttle⟩
  case credit =>
    intro b job grants tide s up notSafe
    exact if_neg (by simp [up, notSafe])
  case throttle =>
    intro c mask level dur t s got
    change execThrottle c mask level dur s = _
    rw [execThrottle, got]
    exact if_pos rfl

end Sys2Proof.Machine

/-! The events of lanes and rounds, of lasers and of dozing ends (O45, O46; 11 R284 to R302). An ordered set first counts as a round that is
not BREAKWATER and then has its own effect; this effect, like every other event here, stands behind a test that leaves the state as it is
(log entry 4), and the premises decide that test. -/

namespace Sys2Proof.Machine

/-! ## What the operations of the link do to a berth that is up -/

theorem State.downEvent_of_up {s : State} {b : Nat} (up : (s.berth b).up = true) :
    s.downEvent b = if s.tide.running then s.modBerth b (fun y => { y with pDown := true }) else s.berthDown b :=
  if_neg (by simp [up])

/-- A DOZE round on an active berth that is not the parent's: an acknowledgement ends what was asked, a request is granted by an idle end
that has nothing to send (11 R299). -/
theorem State.rxDoze_of_active {s : State} {b : Nat} (ack : Bool) (up : (s.berth b).up = true) (active : (s.berth b).lstate = 0)
    (notParent : s.isParent b = false) :
    s.rxDoze b ack =
      if ack then (if (s.berth b).dozeAsked then s.modBerth b (fun y => { y with lstate := 1, dozeAsked := false }) else s)
      else if (s.berth b).isIdle && !s.wanted b then s.modBerth b (fun y => { y with orderedSet := osDozeAck })
      else s :=
  if_neg (by simp [up, active, notParent])

theorem State.spareSet_acked {s : State} {b lane spare : Nat} {cwcnt : BitVec 7} {r : SpareReq} (asked : (s.berth b).spareReq = some r)
    (sameLane : r.lane = lane) (sameSpare : r.spare = spare) (sameRound : r.at_ = cwcnt) :
    s.spareSet b lane spare cwcnt true = s.modBerth b (fun y => { y with spareReq := some { r with acked := true } }) := by
  simp only [State.spareSet, asked, if_true]
  exact if_pos ⟨sameLane, sameSpare, sameRound⟩

theorem State.spareSet_requested {s : State} {b lane spare : Nat} (cwcnt : BitVec 7) (up : (s.berth b).up = true)
    (free : s.spareFree b = true) (own : spare = spareOf b) (noRequest : (s.berth b).spareReq = none) :
    s.spareSet b lane spare cwcnt false =
      s.modBerth b (fun y => { y with spareReq := some ⟨lane, spare, cwcnt, 0, true⟩, orderedSet := osSpareAck }) :=
  if_pos (by simp [up, free, own, noRequest])

/-- A lane that loses lock takes its berth down where its substitution has been abandoned; else it fails (11 R296, R297). -/
theorem execLaneLockLoss_of_up {b : Berth} {s : State} (lane : Fin 4) (up : (s.berth b.val).up = true) :
    execLaneLockLoss b lane s =
      .next (if ((s.berth b.val).lane lane.val).failed && (s.berth b.val).spareReq.isNone then
          (s.raiseBerth b.val 2 (laneCircuit b.val lane.val)).downEvent b.val
        else s.failLane b.val lane.val) :=
  (if_neg (by simp [up])).trans (apply_ite Host.Outcome.next _ _ _).symm

/-- Settles O45: of an ordered set the part that follows the count of its round is named above, both parts of LANE_LOCK_LOSS are
`execLaneLockLoss_of_up`, and a spare's event falls out by its request. -/
theorem linkEventsComplete : Obligations.LinkEventsComplete := by
  refine ⟨?roundTx, ?roundRx, ?linkAck, ?nakRepeat, ?roundTimeout, ?train, ?breakwater, ?dozeAck, ?dozeRequest, ?wake, ?loop, ?spareAck,
    ?spareRequest, ?lockLoss, ?lockLossAbandoned, ?spareSwitch, ?spareTimeout⟩
  case roundTx => exact fun b s => rfl
  case roundRx => exact fun b r s => rfl
  case linkAck =>
    intro b point s up notSafe
    exact if_neg (by simp [up, notSafe])
  case nakRepeat =>
    intro b s up retrying
    exact if_pos (by simp [up, retrying])
  case roundTimeout =>
    intro b s up notEth awake late
    exact (if_pos (by simpa [up, notEth, late] using awake)).trans (congrArg _ (State.downEvent_of_up up))
  case train => exact fun b serial state s => rfl
  case breakwater =>
    intro b s notEth notDeep lanes
    exact if_neg (by simpa [notEth, lanes] using notDeep)
  case dozeAck =>
    rintro b t s rfl up active notParent asked
    exact congrArg _ ((State.rxDoze_of_active true up active notParent).trans (if_pos asked))
  case dozeRequest =>
    rintro b t s rfl up active notParent idle unwanted
    exact congrArg _ ((State.rxDoze_of_active false up active notParent).trans
      ((if_neg Bool.false_ne_true).trans (if_pos (by simp [idle, unwanted]))))
  case wake =>
    rintro b t s rfl up dozing
    exact congrArg _ (if_pos (by simp [up, dozing]))
  case loop =>
    rintro b enter t s rfl up
    exact congrArg _ (if_pos up)
  case spareAck =>
    intro b lane spare cwcnt r s asked sameLane sameSpare sameRound
    exact congrArg _ (State.spareSet_acked asked sameLane sameSpare sameRound)
  case spareRequest =>
    intro b lane spare cwcnt s up free own noRequest
    exact congrArg _ (State.spareSet_requested cwcnt up free own noRequest)
  case lockLoss =>
    intro b lane s up substituting
    exact (execLaneLockLoss_of_up lane up).trans (congrArg _ (if_neg (by simpa [Option.isSome_iff_ne_none] using substituting)))
  case lockLossAbandoned =>
    intro b lane s up failed noRequest
    exact (execLaneLockLoss_of_up lane up).trans (congrArg _ (if_pos (by simp [failed, noRequest])))
  case spareSwitch =>
    intro b r s asked acked due
    change execSpareSwitch b s = _
    simp only [execSpareSwitch, asked]
    exact if_pos ⟨acked, due⟩
  case spareTimeout =>
    intro b r s asked unanswered late
    change execSpareTimeout b s = _
    simp only [execSpareTimeout, asked]
    exact if_pos ⟨by simp [unanswered], late⟩

/-- Settles O46: the loss of a feed falls out by whether a good standby is at hand, the end of LS2 by whether its target is an optical
engine or an electrical berth. -/
theorem laserAndDozeComplete : Obligations.LaserAndDozeComplete := by
  refine ⟨?toStandby, ?noStandby, ?dozeDelay, ?engineRelocked, ?berthRelocked⟩
  case toStandby =>
    intro oe s onPrimary
    exact if_neg (by simp [onPrimary])
  case noStandby =>
    intro oe s
    exact if_neg (by simp)
  case dozeDelay =>
    intro b s up notEth active allowed notParent idle unwanted notSafe noSet
    exact if_pos (by simpa [up, notEth, active, notParent, idle, unwanted, notSafe, noSet] using allowed)
  case engineRelocked =>
    intro target s engine relocking
    exact (if_pos engine).trans (if_pos relocking)
  case berthRelocked =>
    intro target s low high deep asked
    exact (if_neg (by omega)).trans ((if_pos ⟨low, high⟩).trans (if_pos ⟨deep, asked⟩))

end Sys2Proof.Machine

/-! The events of Ethernet-mode berths and of the host port (O47, O48; 11 R306 to R311, 15 R388, R390). The tests of a frame and of a host
slot are met one after the other, and each either leaves the state as it is (log entry 4), counts a drop, or passes on to the next. -/

namespace Sys2Proof.Machine

/-- A frame of a berth that is up and not safe, in a running tide, is judged by its address and type, then by its check sequence, the room
in the store and its head (11 R306). -/
theorem execEthernetFrame_of_on {lsx : Fin 4} {s : State} (f : EthFrame) (on : s.ethOn (lsxBerth lsx) = true)
    (notSafe : s.berthSafe (lsxBerth lsx) = false) (running : s.tide.running = true) :
    execEthernetFrame lsx f s =
      if f.dstMac ≠ (s.berth (lsxBerth lsx)).ownMac ∨ f.etherType ≠ (s.berth (lsxBerth lsx)).etherType then
        .next (s.bump .ethDrop (lsxBerth lsx))
      else if !f.fcsOk then .next (s.bump .crcBad (lsxBerth lsx))
      else if 262144 < s.storeFill (lsxBerth lsx) + frameBytes f.payload.length then .next (s.bump .ethDrop (lsxBerth lsx))
      else if (Hdr.ofBytes (f.payload.take 64)).kind ≠ 6 ∨ f.payload.length ≠ 64 * (1 + (Hdr.ofBytes (f.payload.take 64)).body) then
        .next (s.bump .hdrBad (lsxBerth lsx))
      else .next (s.ethArrive (lsxBerth lsx) f.payload) :=
  (if_neg (by simp [on])).trans ((if_neg (by simp [notSafe])).trans (if_neg (by simp [running])))

/-- Settles O47: both parts of ETHERNET_FRAME are `execEthernetFrame_of_on`, and each event of PAUSE has one guard. -/
theorem ethernetEventsComplete : Obligations.EthernetEventsComplete := by
  refine ⟨?frame, ?otherFrame, ?pause, ?pauseRepeat, ?pauseExpiry⟩
  case frame =>
    intro lsx f s on notSafe running toUs ourType fcs room kind size
    rw [show exec (.ethernetFrame lsx f) s = _ from execEthernetFrame_of_on f on notSafe running, if_neg (by simp [toUs, ourType]),
      if_neg (by simp [fcs]), if_neg (by omega), if_neg (not_or.mpr ⟨not_not_intro kind, not_not_intro size⟩)]
  case otherFrame =>
    intro lsx f s on notSafe running other
    exact (execEthernetFrame_of_on f on notSafe running).trans (if_pos other)
  case pause =>
    intro lsx quanta s on notSafe
    exact if_neg (by simp [on, notSafe])
  case pauseRepeat =>
    intro lsx t s lastXoff on due full
    change execPauseRepeat lsx s = _
    simp only [execPauseRepeat, lastXoff]
    exact if_pos (by simpa [on, full] using due)
  case pauseExpiry => exact fun lsx s => rfl

/-- The guard of HOST_SLOT_FETCH passes a slot that waits in a running ring, while the tide, the West half and the port serve it. -/
theorem hostSlot_served {f : Fin 8} {r : RingSt} {s : State} (ringRuns : r.running = true) (waiting : r.waiting ≠ 0)
    (running : s.tide.running = true) (inUse : s.west.inUse = true) (notSafe : s.halfSafe .west = false)
    (port : s.portOk (BitVec.ofNat 4 f.val) = true) :
    ¬ (!r.running || r.waiting == 0 || !s.tide.running || !s.west.inUse || s.halfSafe .west ||
      !s.portOk (BitVec.ofNat 4 f.val)) = true := by
  simp [ringRuns, waiting, running, inUse, notSafe, port]

/-- Settles O48: a poll and a fetch fall out by the ring of the function; behind the guard `hostSlot_served`, a fetch falls out by what the
checks of the packet say, and a good packet by whether it got its pallets. -/
theorem hostEventsComplete : Obligations.HostEventsComplete := by
  refine ⟨?poll, ?fetch, ?fetchFaulty, ?functionReset, ?perstAsserted, ?perstReleased⟩
  case poll =>
    intro f producer rxConsumer r s ring ringRuns running port inRing
    change execHostRingPoll f producer rxConsumer s = _
    simp only [execHostRingPoll, ring]
    exact if_pos (by simpa [ringRuns, running, port] using inRing)
  case fetch =>
    rintro f slot cells r hd t s rfl ring ringRuns waiting running inUse notSafe port good allowed rfl gotPallets
    change execHostSlotFetch f slot cells s = _
    simp only [execHostSlotFetch, ring, good]
    rw [if_neg (hostSlot_served ringRuns waiting running inUse notSafe port), if_neg (by simp [allowed])]
    split
    next p written =>
      rw [written] at gotPallets
      exact if_neg (by simpa using gotPallets)
    next => rfl
  case fetchFaulty =>
    intro f slot cells r k s ring ringRuns waiting running inUse notSafe port faulty
    change execHostSlotFetch f slot cells s = _
    simp only [execHostSlotFetch, ring, faulty]
    exact if_neg (hostSlot_served ringRuns waiting running inUse notSafe port)
  case functionReset =>
    intro f s port
    exact if_neg (not_refused_of_portOk port)
  case perstAsserted => exact fun s => rfl
  case perstReleased =>
    intro s released
    exact if_neg (by simp [released])

end Sys2Proof.Machine

/-! The events of I3C and RGMII (O49; 11 R312, R313, 12 R318, R319). Behind the guard of the port, a transfer on I3C asks whether its
pointer is aligned, a frame on RGMII whether its range and length are. -/

namespace Sys2Proof.Machine

/-- A read over I3C of a target that has an address moves the pointer past the words read; from one that is not aligned it answers zeros
(11 R312, 12 R318; log entry 31). -/
theorem execI3cPrivateRead_of_addressed {s : State} (words : Nat) (addressed : s.port.i3cAddr.isSome = true) (port : s.portOk 8 = true) :
    execI3cPrivateRead words s =
      let r := if s.port.i3cPtr.toNat % 4 = 0 then s.readWords 8 s.port.i3cPtr.toNat words else (s, List.replicate words 0, false)
      .next ((r.1.modPort (fun p => { p with i3cPtr := BitVec.ofNat 32 (s.port.i3cPtr.toNat + 4 * words) })).answer 8 r.2.1) := by
  rw [execI3cPrivateRead, if_neg (by simpa [Option.ne_none_iff_isSome.mpr addressed] using port)]

/-- Settles O49: both parts of I3C_PRIVATE_READ are `execI3cPrivateRead_of_addressed`, and of a frame on RGMII the premises decide the test
of the port and that of its form. -/
theorem managementPortEventsComplete : Obligations.ManagementPortEventsComplete := by
  refine ⟨?i3cWrite, ?i3cRead, ?i3cReadUnaligned, ?entdaa, ?rstdaa, ?read, ?readMalformed, ?write, ?writeMalformed, ?linkDown⟩
  case i3cWrite =>
    rintro bytes off ws s addressed port long rfl rfl
    exact if_neg (by simpa [long, Option.ne_none_iff_isSome.mpr addressed] using port)
  case i3cRead =>
    rintro words off s addressed port rfl aligned
    exact (execI3cPrivateRead_of_addressed words addressed port).trans (by rw [if_pos aligned])
  case i3cReadUnaligned =>
    rintro words off s addressed port rfl unaligned
    exact (execI3cPrivateRead_of_addressed words addressed port).trans (by rw [if_neg unaligned])
  case entdaa =>
    intro addr s port
    exact if_neg (not_refused_of_portOk port)
  case rstdaa =>
    intro s port
    exact if_neg (not_refused_of_portOk port)
  case read =>
    intro tag offset length s port wellFormed
    exact (if_neg (not_refused_of_portOk port)).trans (if_neg (by simp [wellFormed]))
  case readMalformed =>
    intro tag offset length s port malformed
    exact (if_neg (not_refused_of_portOk port)).trans (if_pos (by simp [malformed]))
  case write =>
    intro tag offset length data s port wellFormed size
    exact (if_neg (not_refused_of_portOk port)).trans (if_neg (by simp [wellFormed, size]))
  case writeMalformed =>
    intro tag offset length data s port malformed
    exact (if_neg (not_refused_of_portOk port)).trans (if_pos (by simp [malformed]))
  case linkDown =>
    intro ms s long
    exact if_neg (by omega)

end Sys2Proof.Machine

/-! The instructions of the TAP (O51, O58; 11 R312, 13 R364, 14 R370, 16 R417). Each stands behind one gate: that the TAP answers, a debug
state, a debug state out of ANCHOR, or FACTORY-OPEN. -/

namespace Sys2Proof.Machine

/-! ## The gates -/

theorem State.tapOn_iff {s : State} : s.tapOn = true ↔ s.sec.power ≠ 3 := bne_iff_ne

theorem State.debugAt_iff {s : State} {level : Byte} : s.debugAt level = true ↔ s.sec.power ≠ 3 ∧ level ≤ s.sec.dbg := by
  simp [State.debugAt, State.tapOn_iff]

theorem State.factoryOpen_iff {s : State} : s.factoryOpen = true ↔ s.sec.power ≠ 3 ∧ 2 ≤ s.sec.dbg ∧ s.sec.lifecycle = 1 := by
  simp [State.factoryOpen, State.debugAt_iff, and_assoc]

/-- Out of ANCHOR the halves are in reach of a TAP that debug may use. -/
theorem State.halves_reached {s : State} (opened : s.debugAt 1 = true) (notAnchor : s.sec.power ≠ 2) :
    (s.debugAt 1 && s.sec.power != 2) = true :=
  Bool.and_eq_true_iff.mpr ⟨opened, bne_iff_ne.mpr notAnchor⟩

/-! ## What the instructions do -/

/-- The error line of a source forced: of a half's word, of the package word, or of a management source, by the source's code (13 R345,
R364). -/
def State.forceLine (s : State) (n : Nat) : State :=
  if n < 0x80 then s.raiseLine (Half.ofNum (n / 64)) (n % 64)
  else if n < 0xC0 then s.raisePkg (n - 0x80)
  else s.modFault (fun f => { f with
    mgmt := f.mgmt ||| BitVec.ofNat 9 (2 ^ (n - 0x100)), pMgmt := f.pMgmt ||| BitVec.ofNat 9 (2 ^ (n - 0x100)) })

theorem State.forceLine_half (s : State) {n : Nat} (h : n < 0x80) : s.forceLine n = s.raiseLine (Half.ofNum (n / 64)) (n % 64) := if_pos h

theorem State.forceLine_pkg (s : State) {n : Nat} (low : 0x80 ≤ n) (high : n < 0xC0) : s.forceLine n = s.raisePkg (n - 0x80) :=
  (if_neg (by omega)).trans (if_pos high)

theorem State.forceLine_mgmt (s : State) {n : Nat} (low : 0xC0 ≤ n) :
    s.forceLine n = s.modFault (fun f => { f with
      mgmt := f.mgmt ||| BitVec.ofNat 9 (2 ^ (n - 0x100)), pMgmt := f.pMgmt ||| BitVec.ofNat 9 (2 ^ (n - 0x100)) }) :=
  (if_neg (by omega)).trans (if_neg (by omega))

@[simp] theorem State.forceLine_tap (s : State) (n : Nat) : (s.forceLine n).tap = s.tap := by
  unfold State.forceLine
  split_ifs with half pkg
  · exact State.modHalf_tap ..
  · rfl
  · rfl

/-- In FACTORY-OPEN FAULT_INJ notes a source that exists and forces its line. -/
theorem execFaultInj_of_open {source : U16} {s : State} (opened : s.factoryOpen = true) (found : (srcInfo source.toNat).isSome = true) :
    execFaultInj source s =
      .next ((s.modTap (fun t => { t with ir := 0x20, tdo := [], injected := t.injected ++ [source.toNat] })).forceLine source.toNat) := by
  rw [execFaultInj, if_neg (by simp [opened, Option.ne_none_iff_isSome.mpr found])]
  simp only [State.forceLine, apply_ite Host.Outcome.next]

/-- A core pair or deputy is among the halted after it was halted, and not after it was resumed. -/
theorem State.mem_halted_haltCore (s : State) (i : Nat) (halt : Bool) : i ∈ (s.haltCore i halt).sec.halted ↔ halt = true := by
  cases halt with
  | false => simp [State.haltCore]
  | true =>
    by_cases already : i ∈ s.sec.halted <;> simp [State.haltCore, insertNew, already]

/-- Settles O51: behind its gate an instruction has one effect, and the three parts of FAULT_INJ are `execFaultInj_of_open` at the three
ranges of `State.forceLine`. -/
theorem tapInstructionsComplete : Obligations.TapInstructionsComplete := by
  refine ⟨?bypass, ?idcode, ?samplePreload, ?extest, ?highz, ?clamp, ?debugHm, ?debugDep, ?scanHalf, ?memPeek, ?faultInjHalf,
    ?faultInjPkg, ?faultInjMgmt, ?otpProg, ?secDebug, ?trstN⟩
  case bypass => exact fun s on => if_pos on
  case idcode => exact fun s on => if_pos on
  case samplePreload => exact fun scanIn s on => if_neg (by simp [on])
  case extest => exact fun scanIn s on => if_neg (by simp [on])
  case highz => exact fun s on => if_pos on
  case clamp => exact fun s on => if_pos on
  case debugHm => exact fun p halt s opened => if_pos opened
  case debugDep => exact fun h halt s opened notAnchor => if_pos (State.halves_reached opened notAnchor)
  case scanHalf => exact fun h s opened notAnchor => if_pos (State.halves_reached opened notAnchor)
  case memPeek => exact fun h offset s opened notAnchor => if_pos (State.halves_reached opened notAnchor)
  case faultInjHalf =>
    rintro source t s opened found half rfl
    exact (execFaultInj_of_open opened found).trans (congrArg _ (State.forceLine_half _ half))
  case faultInjPkg =>
    rintro source t s opened found low high rfl
    exact (execFaultInj_of_open opened found).trans (congrArg _ (State.forceLine_pkg _ low high))
  case faultInjMgmt =>
    rintro source t s opened found low rfl
    exact (execFaultInj_of_open opened found).trans (congrArg _ (State.forceLine_mgmt _ low))
  case otpProg => exact fun addr value s opened => if_pos opened
  case secDebug => exact fun s opened => if_pos opened
  case trstN => exact fun s => rfl

/-- Settles O58: the next state of each instruction is that of `tapInstructionsComplete`, where the register, what is shifted out and the
halted cores are read off; a forced line leaves the TAP as it is (`State.forceLine_tap`). -/
theorem tapInstructionsLoad : Obligations.TapInstructionsLoad := by
  obtain ⟨bypass, idcode, samplePreload, extest, highz, clamp, debugHm, debugDep, scanHalf, memPeek, -, -, -, otpProg, secDebug,
    trstN⟩ := tapInstructionsComplete
  refine ⟨?bypass, ?idcode, ?samplePreload, ?extest, ?highz, ?clamp, ?debugHm, ?debugDep, ?scanHalf, ?memPeek, ?faultInj, ?otpProg,
    ?secDebug, ?trstN⟩
  case bypass => exact fun s on => ⟨_, bypass s (State.tapOn_iff.mpr on), rfl, rfl⟩
  case idcode => exact fun s on => ⟨_, idcode s (State.tapOn_iff.mpr on), rfl, rfl⟩
  case samplePreload =>
    exact fun scanIn s on => ⟨_, samplePreload scanIn s (State.tapOn_iff.mpr on), rfl, rfl, by simp [State.tapShift]⟩
  case extest =>
    exact fun scanIn s on => ⟨_, extest scanIn s (State.tapOn_iff.mpr on), rfl, rfl, by simp [State.tapShift]⟩
  case highz => exact fun s on => ⟨_, highz s (State.tapOn_iff.mpr on), rfl, rfl⟩
  case clamp => exact fun s on => ⟨_, clamp s (State.tapOn_iff.mpr on), rfl, rfl⟩
  case debugHm =>
    intro p halt s on level
    exact ⟨_, debugHm p halt s (State.debugAt_iff.mpr ⟨on, level⟩), rfl, s.mem_halted_haltCore p.val halt⟩
  case debugDep =>
    intro h halt s on notAnchor level
    exact ⟨_, debugDep h halt s (State.debugAt_iff.mpr ⟨on, level⟩) notAnchor, rfl, s.mem_halted_haltCore (2 + h.num) halt⟩
  case scanHalf =>
    intro h s on notAnchor level
    exact ⟨_, scanHalf h s (State.debugAt_iff.mpr ⟨on, level⟩) notAnchor, rfl⟩
  case memPeek =>
    intro h offset s on notAnchor level
    exact ⟨_, memPeek h offset s (State.debugAt_iff.mpr ⟨on, level⟩) notAnchor, rfl, rfl⟩
  case faultInj =>
    intro source s on level factory found
    exact ⟨_, execFaultInj_of_open (State.factoryOpen_iff.mpr ⟨on, level, factory⟩) found, by simp, by simp⟩
  case otpProg =>
    intro addr value s on level factory
    exact ⟨_, otpProg addr value s (State.factoryOpen_iff.mpr ⟨on, level, factory⟩), rfl, by simp⟩
  case secDebug =>
    intro s on level factory
    exact ⟨_, secDebug s (State.factoryOpen_iff.mpr ⟨on, level, factory⟩), rfl⟩
  case trstN => exact fun s => ⟨_, trstN s, rfl⟩

end Sys2Proof.Machine

/-! How every UCI command is served (O13 to O16; 12 R324 to R330, 14 R378, R379). A command of `Instr.uciLaw` is run by the one shared
operation: its causes have codes of Table 12-9, and only a refused signature leaves a trace. What firmware does not take, what is malformed
and what a sender may not issue is settled for that operation once. -/

namespace Sys2Proof.Machine

/-! ## The codes of causes (12 Table 12-9) -/

/-- Has every cause a code that is MALFORMED or above 2? No row of Table 12-9 has another. -/
def codesOk (cs : List (Nat × Bool)) : Bool := cs.all (fun e => e.1 == 1 || decide (3 ≤ e.1))

theorem codesOk_append {cs ds : List (Nat × Bool)} (hc : codesOk cs = true) (hd : codesOk ds = true) : codesOk (cs ++ ds) = true := by
  rw [codesOk, List.all_append, Bool.and_eq_true]
  exact ⟨hc, hd⟩

theorem State.armCauses_codes (s : State) (n : Nat) (t : TideNo) : codesOk (s.armCauses n t) = true := by
  unfold State.armCauses
  dsimp only
  split <;> rfl

theorem State.bindCauses_codes (s : State) (job n kind axis : Nat) (minus : Bool) (gb : Byte) :
    codesOk (s.bindCauses job n kind axis minus gb) = true := by
  unfold State.bindCauses
  dsimp only
  split <;> rfl

theorem State.partCauses_codes (s : State) (u : Uci) (part : Byte) : codesOk (s.partCauses u part) = true := by
  unfold State.partCauses
  split <;> rfl

theorem State.armAll_codes (s : State) (t : TideNo) (ns : List Nat) : codesOk (s.armAll t ns).1 = true := by
  induction ns generalizing s with
  | nil => rfl
  | cons n ns ih => exact codesOk_append (codesOk_append (s.armCauses_codes n t) rfl) (ih _)

theorem codesOk_flatMap {α : Type} (l : List α) (f : α → List (Nat × Bool)) (h : ∀ a, codesOk (f a) = true) :
    codesOk (l.flatMap f) = true := by
  induction l with
  | nil => rfl
  | cons a l ih => exact codesOk_append (h a) ih

/-! ## The lowest code -/

theorem lowest_some_mem {cs : List (Nat × Bool)} {k : Nat} (h : lowest cs = some k) : (k, true) ∈ cs := by
  have go : ∀ (l : List (Nat × Bool)) (m : Option Nat), l.foldl (fun m c => match m with
        | none => some c.1
        | some k => some (min k c.1)) m = some k → m = some k ∨ k ∈ l.map Prod.fst := by
    intro l
    induction l with
    | nil => exact fun m h => .inl h
    | cons e l ih =>
      intro m h
      rcases ih _ h with h | h
      · cases m with
        | none => exact .inr (by cases h; simp)
        | some j =>
          have : min j e.1 = k := Option.some.inj h
          rcases min_choice j e.1 with h | h
          · exact .inl (congrArg some (h.symm.trans this))
          · exact .inr (by simp [h.symm.trans this])
      · exact .inr (by simp [h])
  obtain ⟨⟨j, b⟩, hmem, rfl⟩ := List.mem_map.mp ((go _ none h).resolve_left (by simp))
  obtain ⟨hin, rfl⟩ := List.mem_filter.mp hmem
  exact hin

/-- Where a cause holds, some code is the lowest, and it is not above that cause's. -/
theorem lowest_le {cs : List (Nat × Bool)} {k : Nat} (h : (k, true) ∈ cs) : ∃ j, lowest cs = some j ∧ j ≤ k := by
  have go : ∀ (l : List (Nat × Bool)) (m : Option Nat), ((∃ i, m = some i ∧ i ≤ k) ∨ k ∈ l.map Prod.fst) →
      ∃ j, l.foldl (fun m c => match m with
        | none => some c.1
        | some k => some (min k c.1)) m = some j ∧ j ≤ k := by
    intro l
    induction l with
    | nil => exact fun m h => h.resolve_right (by simp)
    | cons e l ih =>
      intro m h
      refine ih _ ?_
      rcases h with ⟨i, rfl, hi⟩ | h
      · exact .inl ⟨min i e.1, rfl, (min_le_left i e.1).trans hi⟩
      · rcases List.mem_cons.mp h with rfl | h
        · cases m with
          | none => exact .inl ⟨e.1, rfl, le_rfl⟩
          | some i => exact .inl ⟨min i e.1, rfl, min_le_right i e.1⟩
        · exact .inr h
  exact go _ none (.inr (List.mem_map.mpr ⟨(k, true), List.mem_filter.mpr ⟨h, rfl⟩, rfl⟩))

/-! ## The shared operation of each command -/

/-- A command is served by the shared operation: its causes have codes of Table 12-9, and what its refusal leaves beside the reply comes
only with a refused signature, of a command that DOZE and ANCHOR let through. -/
def State.Serves (s : State) (u : Uci) (c : CmdInfo) (o : Host.Outcome State Fault Refusal) : Prop :=
  ∃ (cs : List (Nat × Bool)) (r : Nat → State → State) (f : State → Done), o = .next (s.uciWith u c cs r f) ∧ codesOk cs = true ∧
    ∀ k t, r k t = t ∨ k = stAuth ∧ c.doze = true ∧ c.anchor = true

/-- A refusal of most commands leaves no trace. -/
theorem State.serves_uci {s : State} {u : Uci} {c : CmdInfo} {cs : List (Nat × Bool)} {f : State → Done} (h : codesOk cs = true) :
    s.Serves u c (.next (s.uci u c cs f)) := ⟨cs, _, f, rfl, h, fun _ _ => .inl rfl⟩

/-- Every UCI command is served by the shared operation, under the header and the row that `Instr.uciLaw` gives it. -/
theorem exec_serves (i : Instr) (s : State) {u : Uci} {c : CmdInfo} (h : i.uciLaw = some (u, c)) : s.Serves u c (exec i s) := by
  cases i
  case streamArm sid cOut => cases h; exact State.serves_uci (codesOk_append (codesOk_append rfl (s.armCauses_codes ..)) rfl)
  case collDefine =>
    cases h
    exact State.serves_uci (codesOk_append rfl (codesOk_flatMap _ _ fun e => s.bindCauses_codes ..))
  case collArm cid t =>
    cases h
    refine State.serves_uci (codesOk_append rfl ?_)
    split
    · exact s.armAll_codes ..
    · rfl
  case samplerGen | samplerCheck | samplerGolden | samplerStart | samplerStop =>
    cases h; exact State.serves_uci (codesOk_append (s.partCauses_codes ..) rfl)
  case samplerStatus | samplerDestroy => cases h; exact State.serves_uci (s.partCauses_codes ..)
  case prefetch ranges =>
    cases h
    rw [← List.length_map (as := ranges) (fun r => (r.1.toNat, r.2.1.toNat, r.2.2.toNat))]
    exact State.serves_uci rfl
  case fwCommit =>
    cases h
    refine ⟨_, _, _, rfl, rfl, fun k t => ?_⟩
    by_cases hk : k = stAuth
    · exact .inr ⟨hk, rfl, rfl⟩
    · exact .inl (if_pos hk)
  case debugOpen | lifecycleSet =>
    cases h
    refine ⟨_, _, _, rfl, rfl, fun k t => ?_⟩
    by_cases hk : k = stAuth
    · exact .inr ⟨hk, rfl, rfl⟩
    · exact .inl (if_neg hk)
  case version | jobOwner | tideConfig | tideAsym | tideRelock | berthMode | poolSetup | laneState | laneLoop | hostRing | reset |
      fwBegin | fwData | fwSvnRaise | chartWrite | chartArm | chartRead | discoveryReport | lift | tmWrite | tmArm | streamCreate |
      streamAbort | streamCommit | streamTeardown | streamStatus | streamPin | collStatus | collTeardown | reshard | holdAlloc |
      holdFree | quayAlloc | seedSet | stepSet | shardDefine | versionClose | holdWrite | holdRead | quayWrite | quayRead |
      versionSeed | recipeLoad | recipeParam | recipeStatus | recipeUnload | faultRead | faultConfig | safeExit | fence | spare |
      engineMap | repairLog | tileRead | tileWrite | palletDiag | palletAudit | powerSet | debugChallenge | debugClose | zeroize |
      mastership | countersRead | tastingSet | noiseSet | stepReport | mirrorSet | samplerCreate =>
    cases h; exact State.serves_uci rfl
  all_goals cases h

/-- Where a cause that every command has holds, the command is refused with a code not above that cause's; a trace is left only with a
refused signature. -/
theorem State.Serves.refused {s : State} {u : Uci} {c : CmdInfo} {o : Host.Outcome State Fault Refusal} (v : s.Serves u c o)
    (taken : s.takes u = true) {k : Nat} (cause : (k, true) ∈ s.gate u c)
    (quiet : k < stAuth ∨ c.doze = false ∨ c.anchor = false) :
    ∃ j, (j = 1 ∨ 3 ≤ j) ∧ j ≤ k ∧ o = .next (s.refused (s.taken u) u c.code j) := by
  obtain ⟨cs, r, f, rfl, codes, trace⟩ := v
  obtain ⟨j, low, le⟩ := lowest_le (List.mem_append_left cs cause)
  have noTrace : r j (s.taken u) = s.taken u := by
    rcases trace j (s.taken u) with same | ⟨rfl, doze, anchor⟩
    · exact same
    · rcases quiet with lt | off | off
      · omega
      · simp [doze] at off
      · simp [anchor] at off
  refine ⟨j, ?_, le, ?_⟩
  · have allCodes : codesOk (s.gate u c ++ cs) = true := codesOk_append rfl codes
    simpa using List.all_eq_true.mp allCodes _ (lowest_some_mem low)
  · rw [State.uciWith_refused s u c cs r f j taken low, noTrace]
    rfl

/-! ## What is not executed -/

/-- Settles O16: of a message that firmware does not take the shared operation leaves the state as it is (`State.uciWith_idle`). -/
theorem messagesNotTakenChangeNothing : Obligations.MessagesNotTakenChangeNothing := by
  intro i s u c law idle
  obtain ⟨cs, r, f, is, -⟩ := exec_serves i s law
  rw [is, State.uciWith_idle s u c cs r f idle]

/-- The cases of 12 R326 that need no more of the command than its row. -/
theorem uciMalformed_of {u : Uci} {c : CmdInfo}
    (h : u.len.toNat < 32 ∨ u.len.toNat ≠ 32 + u.bodyLen.toNat ∨ u.hdrVer ≠ 1 ∨ u.flags ≠ 0 ∨ u.rsv = true ∨ u.bodyLen.toNat ≠ c.len) :
    uciMalformed u c = true := by
  simp only [uciMalformed, Bool.or_eq_true, decide_eq_true_eq, bne_iff_ne]
  tauto

/-- Settles O13: MALFORMED is the lowest code, so nothing of the command is refused before it and nothing is run. -/
theorem malformedMessagesAreNotExecuted : Obligations.MalformedMessagesAreNotExecuted := by
  intro i s u c law taken bad
  have cause : (1, true) ∈ s.gate u c := by simp [State.gate, stMalformed, uciMalformed_of bad]
  obtain ⟨j, low, le, answer⟩ := (exec_serves i s law).refused taken cause (.inl (by decide))
  obtain rfl : j = 1 := by omega
  exact answer

/-- Settles O14: DENIED is a cause of every command, and of the codes not above it only MALFORMED has another. -/
theorem sendersThatMayNotAreDenied : Obligations.SendersThatMayNotAreDenied := by
  intro i s u c law taken mayNot
  have cause : (3, true) ∈ s.gate u c := by simp [State.gate, stDenied, mayNot]
  obtain ⟨j, low, le, answer⟩ := (exec_serves i s law).refused taken cause (.inl (by decide))
  exact ⟨j, by omega, answer⟩

/-- Settles O15: SECURITY is a cause of every command that the present power state keeps out. -/
theorem sleepingPartsAdmitOnlyTheirCommands : Obligations.SleepingPartsAdmitOnlyTheirCommands := by
  intro i s u c law taken asleep
  have cause : (0xB, true) ∈ s.gate u c := by
    rcases asleep with ⟨power, off⟩ | ⟨power, off⟩ <;> simp [State.gate, stSecurity, power, off]
  have quiet : c.doze = false ∨ c.anchor = false := asleep.imp And.right And.right
  obtain ⟨j, low, le, answer⟩ := (exec_serves i s law).refused taken cause (.inr quiet)
  exact ⟨j, by omega, le, answer⟩

end Sys2Proof.Machine

/-! What a step does to the security state (O2 to O4, O6 to O8; 14 R366 to R380). Every command answers a next state. Most leave the security
state alone (`exec_quiet`); the others keep the modes legal and do not move the lifecycle backwards, one lemma each, so that every command
does (`exec_lawful`). -/

namespace Sys2Proof

/-- The rows of Instr that write the security state in some state. -/
def Instr.writesSec : Instr → Bool
  | .tideBoundary _ | .debugHm _ _ | .debugDep _ _ | .otpProg _ _ | .holdAlloc _ _ _ _ | .reset _ _ | .fwCommit _ _ | .fwSvnRaise _ _
  | .powerSet _ _ | .debugChallenge _ | .debugOpen _ _ _ | .debugClose _ | .lifecycleSet _ _ _ | .zeroize _ _ | .mastership _
  | .watchdog _ | .lockstepMismatch _ | .thermTrip _ _ | .nonceExpiry | .zeroizeDone | .powerOn _ | .powerOff | .warmReset _
  | .bootRom _ _ _ _ _ | .firmwareAuthentication _ => true
  | _ => false

end Sys2Proof

namespace Sys2Proof.Machine

/-! ## Outcomes -/

/-- A next state whose security state is that of `s`. -/
def State.Quiet (s : State) (o : Host.Outcome State Fault Refusal) : Prop := ∃ t, o = .next t ∧ t.sec = s.sec

/-- A next state whose modes are legal where those of `s` are, with no lower lifecycle. -/
def State.Lawful (s : State) (o : Host.Outcome State Fault Refusal) : Prop := ∃ t, o = .next t ∧ s.keeps t

theorem State.quiet_next {s t : State} (h : t.sec = s.sec) : s.Quiet (.next t) := ⟨t, rfl, h⟩

theorem State.lawful_next {s t : State} (h : s.keeps t) : s.Lawful (.next t) := ⟨t, rfl, h⟩

theorem State.lawful_idle (s : State) : s.Lawful (.next s) := State.lawful_next (State.keeps_of_sec rfl)

theorem State.Quiet.lawful {s : State} {o : Host.Outcome State Fault Refusal} (h : s.Quiet o) : s.Lawful o := by
  obtain ⟨t, rfl, same⟩ := h
  exact State.lawful_next (State.keeps_of_sec same)

theorem State.quiet_uci {s : State} {u : Uci} {c : CmdInfo} {cs : List (Nat × Bool)} {f : State → Done}
    (h : ∀ t : State, (f t).st.sec = t.sec) : s.Quiet (.next (s.uci u c cs f)) :=
  State.quiet_next (State.uci_sec s u c cs f fun t _ => h t)

/-- A command that neither its own causes nor the common ones refuse does what keeps the modes legal. -/
theorem State.lawful_uci {s : State} {u : Uci} {c : CmdInfo} {cs : List (Nat × Bool)} {f : State → Done}
    (h : lowest (s.gate u c ++ cs) = none → ∀ t : State, t.sec = s.sec → t.keeps (f t).st) : s.Lawful (.next (s.uci u c cs f)) :=
  State.lawful_next (State.uci_keeps s u c cs f h)

/-- A command that is run has no cause. -/
theorem not_cause_of_lowest_none {cs ds : List (Nat × Bool)} (h : lowest (cs ++ ds) = none) {k : Nat} {b : Bool} (mem : (k, b) ∈ ds) :
    b = false := by
  cases b with
  | false => rfl
  | true =>
    obtain ⟨j, low, -⟩ := lowest_le (List.mem_append_right cs mem)
    rw [h] at low
    cases low

/-- A fold of steps on a pair leaves the security state of its second part alone, if each step does. -/
theorem foldl_snd_sec {α β : Type} (f : β × State → α → β × State) (l : List α) (p : β × State) (h : ∀ p a, (f p a).2.sec = p.2.sec) :
    (l.foldl f p).2.sec = p.2.sec := by
  induction l generalizing p with
  | nil => rfl
  | cons a l ih => rw [List.foldl_cons, ih, h]

/-! ## The commands that leave the security state alone -/

theorem execPerstN_quiet (asserted : Bool) (s : State) : s.Quiet (execPerstN asserted s) := by
  unfold execPerstN
  split_ifs
  · exact State.quiet_next (by rw [State.modBoot_sec, State.hostPortDown_sec])
  · exact State.quiet_next rfl
  · exact State.quiet_next (State.modBoot_sec ..)

/-- A command that no row of `Instr.writesSec` names answers a next state and leaves the security state alone: whichever of its conditions
hold, it is a chain of updates each of which does. -/
theorem exec_quiet (i : Instr) (s : State) (h : i.writesSec = false) : s.Quiet (exec i s) := by
  cases i
  case tideBoundary | debugHm | debugDep | otpProg | holdAlloc | reset | fwCommit | fwSvnRaise | powerSet | debugChallenge |
      debugOpen | debugClose | lifecycleSet | zeroize | mastership | watchdog | lockstepMismatch | thermTrip | nonceExpiry |
      zeroizeDone | powerOn | powerOff | warmReset | bootRom | firmwareAuthentication => cases h
  case perstN asserted => exact execPerstN_quiet asserted s
  case ls2ExitDone =>
    dsimp only [exec, execLs2ExitDone]
    split_ifs
    · exact State.quiet_next ((foldl_sec _ _ _ fun _ _ => State.modBerth_sec ..).trans (State.modOe_sec ..))
    · exact State.quiet_next rfl
    · exact State.quiet_next (by simp)
    all_goals exact State.quiet_next rfl
  case peerLost addr =>
    dsimp only [exec, execPeerLost]
    split
    · exact State.quiet_next rfl
    · refine State.quiet_next (foldl_sec _ _ _ fun t e => ?_)
      split
      · split_ifs <;> simp
      · rfl
  case contributionCell | fenceDeadline | laserFailover | memoryTraining | goldenEvaluation | teardownDeadline | manifestFetch |
      discovery | reshardWriteDone | reshardReadDone | prefetchReadDone | laneBringUp | resultAck =>
    dsimp only [exec, execContributionCell, execFenceDeadline, execLaserFailover, execMemoryTraining, execGoldenEvaluation,
      execTeardownDeadline, execManifestFetch, execDiscovery, execReshardWriteDone, execReshardReadDone, execPrefetchReadDone,
      execLaneBringUp, execResultAck]
    repeat' split
    all_goals exact State.quiet_next (by simp [foldl_sec, apply_ite State.sec])
  case collTeardown cid =>
    exact State.quiet_uci fun t => (State.modColl_sec ..).trans (foldl_sec _ _ _ fun _ _ => State.modStream_sec ..)
  case collDefine | countersRead | tmArm =>
    refine State.quiet_uci fun t => ?_
    simp [foldl_sec]
  case prefetch =>
    refine State.quiet_uci fun t => ?_
    simp [foldl_snd_sec]
  case version | jobOwner | tideConfig | tideAsym | tideRelock | berthMode | poolSetup | laneState | laneLoop | hostRing | fwBegin | fwData
      | chartWrite | chartArm | chartRead | discoveryReport | lift | tmWrite | streamCreate | streamArm | streamAbort | streamCommit |
      streamTeardown | streamStatus | streamPin | collArm | collStatus | reshard | holdFree | quayAlloc | seedSet | stepSet | shardDefine
      | versionClose | holdWrite | holdRead | quayWrite | quayRead | versionSeed | recipeLoad | recipeParam | recipeStatus | recipeUnload
      | faultRead | faultConfig | safeExit | fence | spare | engineMap | repairLog | tileRead | tileWrite | palletDiag | palletAudit |
      tastingSet | noiseSet | stepReport | mirrorSet | samplerCreate | samplerGen | samplerCheck | samplerGolden | samplerStart |
      samplerStop | samplerStatus | samplerDestroy =>
    dsimp only [exec,
      execVersion, execJobOwner, execTideConfig, execTideAsym, execTideRelock, execBerthMode, execPoolSetup, execLaneState, execLaneLoop,
      execHostRing, execFwBegin, execFwData, execChartWrite, execChartArm, execChartRead, execDiscoveryReport, execLift, execTmWrite,
      execStreamCreate, execStreamArm, execStreamAbort, execStreamCommit, execStreamTeardown, execStreamStatus, execStreamPin,
      execCollArm, execCollStatus, execReshard, execHoldFree, execQuayAlloc, execSeedSet, execStepSet, execShardDefine, execVersionClose,
      execHoldWrite, execHoldRead, execQuayWrite, execQuayRead, execVersionSeed, execRecipeLoad, execRecipeParam, execRecipeStatus,
      execRecipeUnload, execFaultRead, execFaultConfig, execSafeExit, execFence, execSpare, execEngineMap, execRepairLog, execTileRead,
      execTileWrite, execPalletDiag, execPalletAudit, execTastingSet, execNoiseSet, execStepReport, execMirrorSet, execSamplerCreate,
      execSamplerGen, execSamplerCheck, execSamplerGolden, execSamplerStart, execSamplerStop, execSamplerStatus, execSamplerDestroy]
    refine State.quiet_uci fun t => ?_
    repeat' split
    all_goals simp
  all_goals
    dsimp only [exec,
      execTideInEdge, execTideInLost, execAlignTx, execAlign, execExchangeTimeout, execTideOverrun, execTideNowLoRead, execFaultWordRead,
      execTreeCombine, execOutputConversion, execFuseOperandLoad, execDrain, execDrainDone, execSpill, execRecipeOperation,
      execContributionPacket, execStreamStart, execStreamAbortCell, execPoison, execResendReq, execPatienceExpiry, execStreamFenceEmpty,
      execResultPacket, execReshardPacket, execReshardEnd, execReshardWritePhase, execReshardTimeout, execGatherReq, execGatherReadDone,
      execGatherTimeout, execPatrolScrub, execPacketArrival, execPalletAllocation, execPacketReceivedWhole, execSchedulerGrain,
      execFreeRingFetch, execFreeMapAudit, execBypassEngage, execEpochGateOpen, execChartShadowArm, execDiscoverTx, execDiscover,
      execDiscoveryTimeout, execThrottle, execCredit, execRoundTx, execRoundRx, execLinkAck, execNakRepeat, execRoundTimeout, execTrain,
      execBreakwater, execDoze, execWake, execSpareOrderedSet, execLoop, execLaneLockLoss, execSpareSwitch, execSpareTimeout,
      execDozeDelay, execEthernetFrame, execPauseFrame, execPauseRepeat, execPauseExpiry, execHostRingPoll, execHostSlotFetch,
      execFunctionLevelReset, execI3cPrivateWrite, execI3cPrivateRead, execEntdaa, execRstdaa, execRgmiiRead, execRgmiiWrite,
      execRgmiiLinkDown, execGetVersion, execGetCapabilities, execNegotiateAlgorithms, execGetDigests, execGetCertificate, execChallenge,
      execGetMeasurements, execBypass, execIdcode, execSamplePreload, execExtest, execHighz, execClamp, execScanHalf, execMemPeek,
      execFaultInj, execSecDebug, execDoorbell, execMbCtrlRelease, execMailboxSlotWrite, execSelfReset, execRegisterWrite, execReplyPart,
      execMoverTransferDone, execMgmtInterrupt, execForcePkg, execForceE, execForceW, execAck, execLatchLost, execFenceEmpty,
      execTempHigh, execVoltage, execPowerGood, execPll, execBist, execChartLoad, execBindingTableLock, execFirstTide, execHalfRejoin,
      execGeneratorPacket, execMark, execGoldenCompare, execBridgeSubportRemoved, execTrstN, execThermtripNDeassert, execClock]
    repeat' split
    all_goals exact State.quiet_next (by simp)

/-! ## The commands that write it -/

theorem execTideBoundary_lawful (faults : List HwFault) (s : State) : s.Lawful (execTideBoundary faults s) := by
  refine State.lawful_next ?_
  split_ifs
  · exact State.keeps_of_sec rfl
  · exact s.idleBoundary_keeps
  · exact State.keeps_trans (State.keeps_of_sec (foldl_sec _ _ _ fun _ _ => State.hwFault_sec ..)) (State.boundary_keeps _)

theorem execDebugHm_lawful (p : Fin 2) (halt : Bool) (s : State) : s.Lawful (execDebugHm p halt s) := by
  unfold execDebugHm
  split
  · exact State.lawful_next (State.keeps_trans (s.haltCore_keeps _ halt) (State.keeps_of_sec (State.tapFree_sec ..)))
  · exact s.lawful_idle

theorem execDebugDep_lawful (h : Half) (halt : Bool) (s : State) : s.Lawful (execDebugDep h halt s) := by
  unfold execDebugDep
  split
  · exact State.lawful_next (State.keeps_trans (s.haltCore_keeps _ halt) (State.keeps_of_sec (State.tapFree_sec ..)))
  · exact s.lawful_idle

theorem execOtpProg_lawful (addr : U16) (value : U32) (s : State) : s.Lawful (execOtpProg addr value s) := by
  unfold execOtpProg
  split
  · exact State.lawful_next (SecSt.keeps_of_same rfl rfl rfl rfl rfl rfl rfl)
  · exact s.lawful_idle

theorem execThermTrip_lawful (sensor : Fin 18) (celsius : Nat) (s : State) : s.Lawful (execThermTrip sensor celsius s) := by
  unfold execThermTrip
  split
  · exact s.lawful_idle
  · refine State.lawful_next (State.keeps_sec_left (t := ((s.noteTemp sensor.val celsius).raisePkg 25).raisePkg 2) (by simp) ?_)
    refine State.modSec_keeps _ _ fun legal => ?_
    split
    · exact SecSt.keeps_of_fewer rfl rfl (show (0 : Byte).toNat ≤ 3 by decide) (.inl rfl) (.inl rfl) (.inl rfl) (.inl rfl) legal
    · exact SecSt.keeps_refl _ legal

theorem execNonceExpiry_lawful (s : State) : s.Lawful (execNonceExpiry s) :=
  State.lawful_next (SecSt.keeps_of_same rfl rfl rfl rfl rfl rfl rfl)

/-- The security state once a zeroization is done: the transition that it served waits for the boundary. -/
def SecSt.zeroServed (x : SecSt) (z : ZeroSt) : SecSt :=
  { x with zero := none, pDebug := if z.debugOpen then some 1 else x.pDebug, pLifecycle := z.lifecycle.or x.pLifecycle }

/-- The transition that a zeroization served was legal when it began. -/
theorem SecSt.zeroServed_keeps {x : SecSt} {z : ZeroSt} (h : x.zero = some z) : x.keeps (x.zeroServed z) := fun legal => by
  refine ⟨⟨legal.life, legal.dbg, legal.power, legal.openF, legal.openA, fun l due => ?_, fun d due => ?_, legal.pPower,
    fun y due => (nomatch due), fun y due => (nomatch due)⟩, le_rfl⟩
  · rcases Option.or_eq_some_iff.mp due with target | ⟨-, waits⟩
    · have ends := legal.zLife z h l target
      have life : x.lifecycle.toNat ≤ 4 := legal.life.2
      exact ⟨by omega, by omega, by show x.lifecycle.toNat ≤ _; omega, .inr ends.2⟩
    · exact legal.pLife l waits
  · rcases ite_eq_iff.mp due with ⟨opens, is⟩ | ⟨-, waits⟩
    · exact .inr ⟨congrArg BitVec.toNat (Option.some.inj is).symm, legal.zOpen z h opens⟩
    · exact legal.pDebug d waits

theorem execZeroizeDone_lawful (s : State) : s.Lawful (execZeroizeDone s) := by
  unfold execZeroizeDone
  cases zero : s.sec.zero with
  | none => exact s.lawful_idle
  | some z =>
    dsimp only
    split
    · exact s.lawful_idle
    split
    · refine State.lawful_next (State.keeps_sec_right (State.finishAt_sec ..) ?_)
      refine State.keeps_sec_left (t := (s.zeroFill z).zeroUnfence z) (by simp) (State.modSec_keeps _ _ ?_)
      exact fun legal => SecSt.keeps_of_fewer rfl rfl legal.power (.inl rfl) (.inl rfl) (.inl rfl) (.inr rfl) legal
    · rw [apply_ite (fun t : State => s.Lawful (.next t))]
      generalize moved : State.modSec (State.modSec _ _) _ = t
      have served : s.keeps t := by
        have is : t.sec = s.sec.zeroServed z := by
          rw [← moved]
          cases target : z.lifecycle <;> simp [SecSt.zeroServed, State.modSec, target]
        rw [State.keeps, is]
        exact SecSt.zeroServed_keeps zero
      split
      · exact State.lawful_next served
      · exact State.lawful_next (State.keeps_trans served t.securityAt_keeps)

theorem execPowerOn_lawful (group : Fin 5) (s : State) : s.Lawful (execPowerOn group s) := by
  unfold execPowerOn
  split
  · exact s.lawful_idle
  · dsimp only
    split
    · refine State.lawful_next (State.keeps_sec_left (State.modBoot_sec ..).symm (State.modSec_keeps _ _ ?_))
      exact SecSt.keeps_of_fewer rfl rfl (show (0 : Byte).toNat ≤ 3 by decide) (.inl rfl) (.inl rfl) (.inl rfl) (.inl rfl)
    · exact State.lawful_next (State.keeps_of_sec (State.modBoot_sec ..))

theorem execPowerOff_lawful (s : State) : s.Lawful (execPowerOff s) := by
  unfold execPowerOff
  split
  · exact s.lawful_idle
  · refine State.lawful_next (State.keeps_trans s.packageReset_keeps ?_)
    exact SecSt.keeps_of_fewer rfl rfl (show (3 : Byte).toNat ≤ 3 by decide) (.inl rfl) (.inl rfl) (.inl rfl) (.inl rfl)

theorem execWarmReset_lawful (lowNs : Nat) (s : State) : s.Lawful (execWarmReset lowNs s) := by
  refine State.lawful_next ?_
  split
  · exact State.keeps_of_sec rfl
  · exact s.packageReset_keeps

/-- The boot ROM sets debug from the lifecycle, as a package reset does (14 R368). -/
theorem State.bootDebug_keeps (s : State) (primaryB : Bool) :
    s.keeps (s.modSec (fun x => { x with primaryB := primaryB, dbg := if x.lifecycle = 1 then 2 else 0, halted := [] })) := fun legal => by
  have factory : s.sec.lifecycle = 1 ↔ s.sec.lifecycle.toNat = 1 := byte_eq _ 1 (by decide)
  have opened : (if s.sec.lifecycle = 1 then (2 : Byte) else 0).toNat = if s.sec.lifecycle.toNat = 1 then 2 else 0 := by
    simp only [apply_ite BitVec.toNat, factory]
    rfl
  refine ⟨⟨legal.life, ?_, legal.power, ?_, ?_, legal.pLife, legal.pDebug, legal.pPower, legal.zOpen, legal.zLife⟩, le_rfl⟩
  all_goals
    simp only [State.modSec, opened]
    split <;> omega

theorem execBootRom_lawful (pllOk otpOk secOk hmA hmB : Bool) (s : State) : s.Lawful (execBootRom pllOk otpOk secOk hmA hmB s) := by
  unfold execBootRom
  split
  · exact s.lawful_idle
  dsimp only
  generalize started : State.modTide _ _ = t
  have same : t.sec = s.sec := by rw [← started]; simp
  split
  · exact State.lawful_next (State.keeps_of_sec (by simp [same]))
  · refine State.lawful_next (State.keeps_sec_left same.symm (State.keeps_sec_right (t := State.modSec _ _)
      (by rw [State.toStage_sec, State.modBoot_sec, State.modMbox_sec]) ?_))
    refine State.keeps_trans ?_ (State.bootDebug_keeps _ _)
    have failed : ∀ (v : State) (ok : Bool) (p : Proc), v.keeps (if ok then v else v.procFails p) := fun v ok p => by
      split
      · exact State.keeps_of_sec rfl
      · exact v.procFails_keeps p
    exact State.keeps_trans (failed t hmA .pairA) (failed _ hmB .pairB)

theorem execFirmwareAuthentication_lawful (f : FlashView) (s : State) : s.Lawful (execFirmwareAuthentication f s) := by
  unfold execFirmwareAuthentication
  split
  · exact s.lawful_idle
  dsimp only
  generalize seen : s.modBoot _ = t
  have same : t.sec = s.sec := by rw [← seen]; simp
  have noted : ∀ (v : State) (code : Nat), (if f.block.isSome then v else v.bootFail code).sec = v.sec := fun v code => by split <;> simp
  split
  · exact State.lawful_next (State.keeps_sec_left (same.symm.trans (noted ..).symm) (State.startImage_keeps _ _ _ _))
  · exact State.lawful_next (State.keeps_of_sec (by simp [noted, same]))

/-! ### UCI commands -/

theorem execHoldAlloc_lawful (u : Uci) (stack : Byte) (first count : U32) (s : State) : s.Lawful (execHoldAlloc u stack first count s) := by
  refine State.lawful_uci fun _ t _ => State.keeps_sec_right (State.modJob_sec ..) ?_
  split
  · exact t.drawKeys_keeps _
  · exact State.keeps_of_sec rfl

theorem execReset_lawful (u : Uci) (scope : Byte) (s : State) : s.Lawful (execReset u scope s) := by
  refine State.lawful_uci fun _ t _ => ?_
  split
  · exact State.keeps_of_sec (State.modHalf_sec ..)
  · split
    · exact t.packageReset_keeps
    · exact State.keeps_of_sec rfl

theorem execFwCommit_lawful (u : Uci) (img : ImageInfo) (s : State) : s.Lawful (execFwCommit u img s) := by
  refine State.lawful_next (State.uciWith_keeps _ _ _ _ _ _ (fun k t => ?_) fun _ t _ => ?_)
  · split <;> exact State.keeps_of_sec rfl
  · dsimp only
    split
    · exact State.keeps_sec_left (State.modBoot_sec ..).symm (State.startImage_keeps _ _ _ _)
    · exact State.keeps_of_sec rfl

theorem execFwSvnRaise_lawful (u : Uci) (svn : U32) (s : State) : s.Lawful (execFwSvnRaise u svn s) :=
  State.lawful_uci fun _ _ _ => SecSt.keeps_of_same rfl rfl rfl rfl rfl rfl rfl

theorem execPowerSet_lawful (u : Uci) (state : Byte) (s : State) : s.Lawful (execPowerSet u state s) := by
  refine State.lawful_uci fun free t _ => ?_
  have inRange : state.toNat ≤ 2 := by
    simpa using not_cause_of_lowest_none free (.head _)
  dsimp only
  split
  · exact t.leaveAnchor_keeps
  · refine State.modSec_keeps _ _ fun legal => ⟨⟨legal.life, legal.dbg, legal.power, legal.openF, legal.openA, legal.pLife, legal.pDebug,
      fun p due => ?_, legal.zOpen, legal.zLife⟩, le_rfl⟩
    obtain rfl : state = p := Option.some.inj due
    exact inRange

theorem execDebugChallenge_lawful (u : Uci) (s : State) : s.Lawful (execDebugChallenge u s) :=
  State.lawful_uci fun _ _ _ => SecSt.keeps_of_same rfl rfl rfl rfl rfl rfl rfl

theorem execDebugClose_lawful (u : Uci) (s : State) : s.Lawful (execDebugClose u s) := by
  refine State.lawful_uci fun _ t _ => ?_
  split
  · refine State.modSec_keeps _ _ fun legal => ⟨⟨legal.life, legal.dbg, legal.power, legal.openF, legal.openA, legal.pLife,
      fun d due => ?_, legal.pPower, legal.zOpen, legal.zLife⟩, le_rfl⟩
    exact .inl (congrArg BitVec.toNat (Option.some.inj due).symm)
  · exact t.setDebug_keeps 0 fun _ => .inl rfl

/-- Spending the nonce. -/
theorem State.spendNonce_keeps (s : State) : s.keeps (s.modSec (fun x => { x with nonce := none })) :=
  SecSt.keeps_of_same rfl rfl rfl rfl rfl rfl rfl

/-- The keys or the contents that go before a transition outside a tide are no part of the security state's modes. -/
theorem State.zeroBefore_sec (t : State) (p q : Prop) [Decidable p] [Decidable q] (z : ZeroSt) :
    (if p then t else if q then t.destroyAllKeys else t.zeroNow z).sec = t.sec := by
  split_ifs <;> simp

theorem execDebugOpen_lawful (u : Uci) (target : Byte) (signature : BitVec 768) (s : State) : s.Lawful (execDebugOpen u target signature s) := by
  refine State.lawful_next (State.uciWith_keeps _ _ _ _ _ _ State.authRefused_keeps fun free t same => ?_)
  have notFactory : t.sec.lifecycle.toNat ≠ 1 := by
    have mayOpen := not_cause_of_lowest_none free (.tail _ (.head _))
    simp only [Bool.not_eq_false', Bool.and_eq_true, decide_eq_true_eq] at mayOpen
    rw [same]
    omega
  refine State.keeps_trans t.spendNonce_keeps ?_
  generalize spent : t.modSec _ = v
  have life : v.sec.lifecycle.toNat ≠ 1 := by rw [← spent]; exact notFactory
  dsimp only
  split
  · dsimp only
    split
    · exact v.zeroStart_keeps _ fun _ => ⟨fun _ => life, fun _ none => nomatch none⟩
    · refine State.modSec_keeps _ _ fun legal => ⟨⟨legal.life, legal.dbg, legal.power, legal.openF, legal.openA, legal.pLife,
        fun d due => ?_, legal.pPower, legal.zOpen, legal.zLife⟩, le_rfl⟩
      exact .inr ⟨congrArg BitVec.toNat (Option.some.inj due).symm, life⟩
  · have before := v.zeroBefore_sec
    refine State.keeps_sec_left (before ..).symm (State.setDebug_keeps _ 1 fun _ => .inr ⟨rfl, ?_⟩)
    rw [before]
    exact life

theorem execLifecycleSet_lawful (u : Uci) (target : Byte) (signature : BitVec 768) (s : State) :
    s.Lawful (execLifecycleSet u target signature s) := by
  refine State.lawful_next (State.uciWith_keeps _ _ _ _ _ _ State.authRefused_keeps fun free t same => ?_)
  have move : s.mayMove target.toNat = true := by simpa using not_cause_of_lowest_none free (.tail _ (.head _))
  have idle : t.sec.pLifecycle = none := by
    have := not_cause_of_lowest_none free (.tail _ (.tail _ (.head _)))
    simp only [State.securityPending, Bool.or_eq_false_iff] at this
    rw [same]
    simpa using this.2
  have forward : 2 ≤ target.toNat ∧ target.toNat ≤ 4 ∧ t.sec.lifecycle.toNat ≤ target.toNat ∧
      (target.toNat = 2 ∨ t.sec.lifecycle.toNat ≠ 1) := by
    simp only [State.mayMove, Bool.or_eq_true, Bool.and_eq_true, beq_iff_eq] at move
    rw [same]
    omega
  refine State.keeps_trans t.spendNonce_keeps ?_
  generalize spent : t.modSec _ = v
  replace idle : v.sec.pLifecycle = none := by rw [← spent]; exact idle
  replace forward : 2 ≤ target.toNat ∧ target.toNat ≤ 4 ∧ v.sec.lifecycle.toNat ≤ target.toNat ∧
      (target.toNat = 2 ∨ v.sec.lifecycle.toNat ≠ 1) := by rw [← spent]; exact forward
  dsimp only
  split
  · dsimp only
    split
    · next returned =>
      refine v.zeroStart_keeps _ fun _ => ⟨fun off => (nomatch off), fun l is => ?_⟩
      exact ⟨congrArg BitVec.toNat (Option.some.inj is).symm, by omega⟩
    · refine State.modSec_keeps _ _ fun legal => ⟨⟨legal.life, legal.dbg, legal.power, legal.openF, legal.openA, fun l due => ?_,
        legal.pDebug, legal.pPower, legal.zOpen, legal.zLife⟩, le_rfl⟩
      obtain rfl : target = l := Option.some.inj due
      exact forward
  · have before := v.zeroBefore_sec
    refine State.keeps_sec_left (before ..).symm (State.setLifecycle_keeps _ target fun _ => ?_)
    rw [before]
    exact ⟨forward, fun k due => by rw [idle] at due; cases due⟩

theorem execZeroize_lawful (u : Uci) (scope : Byte) (s : State) : s.Lawful (execZeroize u scope s) := by
  refine State.lawful_uci fun _ t _ => ?_
  split
  · exact t.zeroStart_keeps _ fun _ => ⟨fun off => (nomatch off), fun _ off => (nomatch off)⟩
  · exact State.keeps_of_sec (State.zeroNow_sec ..)

theorem execMastership_lawful (u : Uci) (s : State) : s.Lawful (execMastership u s) := by
  refine State.lawful_uci fun _ t _ => ?_
  split
  · exact SecSt.keeps_of_same rfl rfl rfl rfl rfl rfl rfl
  · exact t.flipLatch_keeps

/-! ## Every command -/

/-- Every command answers a next state, from legal modes one with legal modes and no lower lifecycle. -/
theorem exec_lawful (i : Instr) (s : State) : s.Lawful (exec i s) := by
  cases writes : i.writesSec with
  | false => exact (exec_quiet i s writes).lawful
  | true =>
    cases i
    case tideBoundary => exact execTideBoundary_lawful ..
    case debugHm => exact execDebugHm_lawful ..
    case debugDep => exact execDebugDep_lawful ..
    case otpProg => exact execOtpProg_lawful ..
    case watchdog p => exact State.lawful_next (s.procFails_keeps p)
    case lockstepMismatch p => exact State.lawful_next (s.procFails_keeps p)
    case thermTrip => exact execThermTrip_lawful ..
    case nonceExpiry => exact execNonceExpiry_lawful s
    case zeroizeDone => exact execZeroizeDone_lawful s
    case powerOn => exact execPowerOn_lawful ..
    case powerOff => exact execPowerOff_lawful s
    case warmReset => exact execWarmReset_lawful ..
    case bootRom => exact execBootRom_lawful ..
    case firmwareAuthentication => exact execFirmwareAuthentication_lawful ..
    case holdAlloc => exact execHoldAlloc_lawful ..
    case reset => exact execReset_lawful ..
    case fwCommit => exact execFwCommit_lawful ..
    case fwSvnRaise => exact execFwSvnRaise_lawful ..
    case powerSet => exact execPowerSet_lawful ..
    case debugChallenge => exact execDebugChallenge_lawful ..
    case debugOpen => exact execDebugOpen_lawful ..
    case debugClose => exact execDebugClose_lawful ..
    case lifecycleSet => exact execLifecycleSet_lawful ..
    case zeroize => exact execZeroize_lawful ..
    case mastership => exact execMastership_lawful ..
    all_goals cases writes

theorem State.step_lawful (s : State) : s.Lawful (step s) := by
  unfold step
  split
  · exact s.lawful_idle
  · next c rest _ =>
    obtain ⟨t, is, kept⟩ := exec_lawful c { s with pending := rest }
    exact ⟨t, is, State.keeps_sec_left (t := { s with pending := rest }) rfl kept⟩

/-- The invariant of the modes in numbers, and the order of the lifecycles, across a step. -/
theorem step_keeps {s t : State} (h : step s = .next t) : s.keeps t := by
  obtain ⟨v, is, kept⟩ := s.step_lawful
  obtain rfl : t = v := Host.Outcome.next.inj (h.symm.trans is)
  exact kept

theorem State.modesLegal_iff (s : State) : s.modesLegal = true ↔ s.sec.Legal := s.sec.legal_iff

/-- Settles O1: `step` matches on the queue alone. -/
theorem stepRunsTheFrontCommand : Obligations.StepRunsTheFrontCommand := fun _ _ _ => rfl

/-- Settles O2: the other branch of that match. -/
theorem emptyQueueIdles : Obligations.EmptyQueueIdles := by
  intro s empty
  rw [step, empty]

/-- Settles O3: the next state is that of `exec_lawful`. -/
theorem everyCommandCompletes : Obligations.EveryCommandCompletes := fun i s => (exec_lawful i s).imp fun _ => And.left

/-- Settles O6, from `step_keeps`. -/
theorem everyStepKeepsTheModesLegal : Obligations.EveryStepKeepsTheModesLegal := by
  intro s t legal next
  exact t.modesLegal_iff.mpr (step_keeps next (s.modesLegal_iff.mp legal)).1

/-- Settles O7, from `step_keeps`. -/
theorem lifecycleNeverMovesBackwards : Obligations.LifecycleNeverMovesBackwards := by
  intro s t legal next
  exact (step_keeps next (s.modesLegal_iff.mp legal)).2

end Sys2Proof.Machine

/-! The security core and the supplies (O4, O5, O8, O50, O54, O57, O59; 14 R365 to R376, 15 R388, 16 R409 to R411): what reset leaves, when debug
changes by itself, what an SPDM request is answered, and what the events of the supplies leave. -/

namespace Sys2Proof.Machine

/-! ## Reset -/

/-- Settles O4: every table of the reset state is empty, and a read of an empty table gives the default. -/
theorem resetLeavesTheStatedValues : Obligations.ResetLeavesTheStatedValues :=
  ⟨rfl, rfl, rfl, rfl, rfl, rfl, rfl, rfl, rfl, rfl, rfl, rfl, rfl, rfl, fun _ => rfl, rfl, rfl, rfl, rfl, fun _ => rfl, rfl, rfl, rfl⟩

/-- Settles O5. -/
theorem resetIsLegal : Obligations.ResetIsLegal := ⟨by decide, rfl⟩

/-! ## When debug changes by itself (14 R368) -/

theorem State.procFails_debug (s : State) (p : Proc) : (s.procFails p).sec.dbg = s.sec.dbg ∧ (s.procFails p).sec.lifecycle = s.sec.lifecycle := by
  cases p
  case pairA | pairB => exact ⟨rfl, rfl⟩
  case deputyE | deputyW => exact ⟨congrArg SecSt.dbg (State.raiseLine_sec ..), congrArg SecSt.lifecycle (State.raiseLine_sec ..)⟩

@[simp] theorem State.leaveAnchor_dbg (s : State) : s.leaveAnchor.sec.dbg = s.sec.dbg := by
  unfold State.leaveAnchor
  simp

@[simp] theorem State.enterAnchor_dbg (s : State) : s.enterAnchor.sec.dbg = s.sec.dbg := by
  unfold State.enterAnchor
  simp

/-- A power transition changes the power state alone: into DOZE, into ANCHOR, or back to RUN. -/
theorem State.powerAt_dbg (s : State) : s.powerAt.sec.dbg = s.sec.dbg := by
  unfold State.powerAt
  split
  · rfl
  · dsimp only
    split
    · split
      · rw [State.failWait_sec]; rfl
      · rw [State.finishAt_sec, foldl_sec _ _ _ fun _ _ => State.dozeBerth_sec ..]; rfl
    · rw [State.enterAnchor_dbg]; rfl
    · rw [State.finishAt_sec, foldl_sec _ _ _ fun _ _ => State.wakeBerth_sec ..]; rfl

/-- The boot ROM that passes its tests sets debug from the lifecycle, which a failed pair does not change. -/
theorem execBootRom_debug {hmA hmB : Bool} {s : State} (inReset : s.boot.resetN = false) (rails : s.boot.rails = 5)
    (one : (hmA || hmB) = true) :
    ∃ t : State, exec (.bootRom true true true hmA hmB) s = .next t ∧ t.sec.dbg = if s.sec.lifecycle = 1 then 2 else 0 := by
  have passes : romFailure true true true hmA hmB = 0 := by
    rcases Bool.or_eq_true_iff.mp one with rfl | rfl <;> simp [romFailure]
  dsimp only [exec, execBootRom]
  rw [if_neg (by simp [inReset, rails]), if_neg (by simp [passes])]
  refine ⟨_, rfl, ?_⟩
  rw [State.toStage_sec, State.modBoot_sec, State.modMbox_sec]
  generalize started : State.modTide _ _ = t
  have same : t.sec = s.sec := by rw [← started]; simp
  have kept : ∀ (v : State) (ok : Bool) (p : Proc), (if ok then v else v.procFails p).sec.lifecycle = v.sec.lifecycle := fun v ok p => by
    split
    · rfl
    · exact (v.procFails_debug p).2
  rw [← same, ← kept t hmA .pairA, ← kept _ hmB .pairB]
  rfl

/-- Settles O8: the last part is the invariant of `step_keeps`. -/
theorem debugFollowsResetsAndLifecycle : Obligations.DebugFollowsResetsAndLifecycle := by
  refine ⟨?packageReset, ?powerOff, ?bootRom, ?halfReset, ?receiverReset, ?power, ?step⟩
  case packageReset => exact fun s => rfl
  case powerOff => exact fun s powered => ⟨_, if_neg powered, rfl⟩
  case bootRom => exact fun hmA hmB s => execBootRom_debug
  case halfReset => exact fun h s => ⟨congrArg SecSt.dbg (State.resetStops_sec ..), congrArg SecSt.dbg (State.resetHalf_sec ..)⟩
  case receiverReset => exact fun who s => congrArg SecSt.dbg (State.receiverReset_sec ..)
  case power => exact fun s => ⟨s.powerAt_dbg, s.leaveAnchor_dbg⟩
  case step =>
    intro s t legal next
    obtain ⟨after, -⟩ := step_keeps next (s.modesLegal_iff.mp legal)
    have factory : t.sec.lifecycle = 1 ↔ t.sec.lifecycle.toNat = 1 := byte_eq _ 1 (by decide)
    refine ⟨fun opened => factory.mpr (after.openF ?_), fun opened => factory.not.mpr (after.openA ?_)⟩
    · exact congrArg BitVec.toNat opened
    · exact congrArg BitVec.toNat opened

/-! ## SPDM (14 R373) -/

@[simp] theorem State.rgmii_resp (s : State) (r : BusResp) : (s.rgmii r).mbox.resp = some r := rfl

theorem State.spdmAnswer_of_port {s : State} {p : SpdmPort} (r : BusResp) (port : s.spdmPort p = true) : s.spdmAnswer p r = s.rgmii r :=
  if_pos port

/-- GET_CERTIFICATE of slot 0 answers a part of the chain, or the error of an offset at or past its end. -/
theorem execGetCertificate_slot0 {p : SpdmPort} {s : State} (offset length : U16) (port : s.spdmPort p = true) :
    execGetCertificate p 0 offset length s =
      let part := (Config.certChain.drop offset.toNat).take length.toNat
      .next (s.rgmii (if Config.certChain.length ≤ offset.toNat then .spdmError p spdmInvalid
        else .spdm p spdmCertificate (leBytes 2 part.length ++ leBytes 2 (Config.certChain.length - offset.toNat - part.length) ++ part))) := by
  dsimp only [execGetCertificate]
  by_cases past : Config.certChain.length ≤ offset.toNat
  · rw [if_pos (.inr past), if_pos past, State.spdmAnswer_of_port _ port]
  · rw [if_neg (by simpa using past), if_neg past, State.spdmAnswer_of_port _ port]

/-- CHALLENGE of slot 0 on a part with an identity key answers a signature over the nonce. -/
theorem execChallenge_slot0 {p : SpdmPort} {s : State} (nonce : BitVec 256) (port : s.spdmPort p = true) (key : s.sec.identity = true) :
    execChallenge p 0 nonce s =
      .next (s.freeIx.2.rgmii (.dataObject p [] (some (Config.ecdsaSign keyIdentity (bvBytes 32 nonce) s.freeCtr)))) := by
  rw [execChallenge, if_neg (by simp [port]), if_neg (by simp [key]), if_neg (by simp)]
  rfl

/-- The measurements that an index names. -/
def measured (index : Byte) : List Nat :=
  if index = 0xFF then [1, 2, 3, 4, 5, 6] else if 1 ≤ index ∧ index ≤ 6 then [index.toNat] else []

theorem measured_one {index : Byte} (low : 1 ≤ index) (high : index ≤ 6) : measured index = [index.toNat] := by
  have notAll : index ≠ 0xFF := by rintro rfl; exact absurd high (by decide)
  rw [measured, if_neg notAll, if_pos ⟨low, high⟩]

/-- GET_MEASUREMENTS of indices that exist, unsigned. -/
theorem execGetMeasurements_unsigned {p : SpdmPort} {index : Byte} {s : State} (nonce : BitVec 256) (port : s.spdmPort p = true)
    (exist : measured index ≠ []) :
    execGetMeasurements p index false nonce s =
      .next (s.rgmii (.dataObject p ((measured index).map (fun i => (BitVec.ofNat 8 i, s.measurement i))) none)) := by
  show (if _ then _ else if _ then _ else if (measured index).isEmpty then _ else _) = _
  rw [if_neg (by simp [port]), if_neg (by simp), if_neg (by simpa using exist)]
  rfl

/-- GET_MEASUREMENTS of indices that exist, signed by a part with an identity key. -/
theorem execGetMeasurements_signed {p : SpdmPort} {index : Byte} {s : State} (nonce : BitVec 256) (port : s.spdmPort p = true)
    (key : s.sec.identity = true) (exist : measured index ≠ []) :
    execGetMeasurements p index true nonce s =
      let ms := (measured index).map (fun i => (BitVec.ofNat 8 i, s.measurement i))
      .next (s.freeIx.2.rgmii (.dataObject p ms (some (Config.ecdsaSign keyIdentity (bvBytes 32 nonce ++ ms.flatMap (fun e => e.1 :: e.2))
        s.freeCtr)))) := by
  show (if _ then _ else if _ then _ else if (measured index).isEmpty then _ else _) = _
  rw [if_neg (by simp [port]), if_neg (by simp [key]), if_neg (by simpa using exist)]
  rfl

/-- Settles O50. -/
theorem attestationComplete : Obligations.AttestationComplete := by
  refine ⟨?version, ?capabilities, ?algorithms, ?digests, ?certificate, ?noSlot, ?challenge, ?noIdentity, ?one, ?all, ?signed⟩
  case version | capabilities | digests => exact fun p s port => congrArg _ (State.spdmAnswer_of_port _ port)
  case algorithms => exact fun p asym hash s port => congrArg _ (State.spdmAnswer_of_port _ port)
  case certificate =>
    rintro p offset length part s port rfl
    exact execGetCertificate_slot0 offset length port
  case noSlot => exact fun p slot offset length s port other => (if_pos (.inl other)).trans (congrArg _ (State.spdmAnswer_of_port _ port))
  case challenge => exact fun p nonce s => execChallenge_slot0 nonce
  case noIdentity => exact fun p slot nonce s port none => (if_neg (by simp [port])).trans (if_pos (by simp [none]))
  case one =>
    intro p index nonce s port low high
    refine (execGetMeasurements_unsigned nonce port (by simp [measured_one low high])).trans ?_
    simp [measured_one low high]
  case all => exact fun p nonce s port => execGetMeasurements_unsigned nonce port (List.cons_ne_nil _ _)
  case signed =>
    intro p index nonce s port key low high
    refine (execGetMeasurements_signed nonce port key (by simp [measured_one low high])).trans ?_
    simp [measured_one low high]

/-- Settles O57: the answers of `attestationComplete`, read off the port. -/
theorem attestationRequestsAnswer : Obligations.AttestationRequestsAnswer := by
  obtain ⟨version, capabilities, algorithms, digests, certificate, -, challenge, -, one, -, -⟩ := attestationComplete
  refine ⟨?version, ?capabilities, ?algorithms, ?digests, ?certificate, ?challenge, ?one⟩
  case version => exact fun p s port => ⟨_, version p s port, rfl⟩
  case capabilities => exact fun p s port => ⟨_, capabilities p s port, rfl⟩
  case algorithms => exact fun p asym hash s port => ⟨_, algorithms p asym hash s port, rfl⟩
  case digests => exact fun p s port => ⟨_, digests p s port, rfl⟩
  case certificate => exact fun p offset length s port => ⟨_, _, certificate p offset length _ s port rfl, rfl, rfl⟩
  case challenge => exact fun p nonce s port key => ⟨_, challenge p nonce s port key, rfl⟩
  case one => exact fun p index nonce s port low high => ⟨_, one p index nonce s port low high, rfl⟩

/-! ## Security and supplies (14 R367, R375, 15 R388, R402, 16 R411) -/

/-- Settles O54: each event's premises decide the test of its meaning. -/
theorem securityAndPowerEventsComplete : Obligations.SecurityAndPowerEventsComplete := by
  refine ⟨?nonce, ?zeroizeDone, ?zeroizeServes, ?rail, ?lastRail, ?powerOff, ?hold, ?quay, ?oe, ?warmReset⟩
  case nonce => exact fun s => rfl
  case zeroizeDone =>
    intro z s zero gone closed noChange
    dsimp only [exec, execZeroizeDone]
    rw [zero]
    exact (if_neg (by simp [gone])).trans (if_pos (by simp [closed, noChange]))
  case zeroizeServes =>
    rintro z t s zero gone serves rfl
    dsimp only [exec, execZeroizeDone]
    rw [zero]
    exact (if_neg (by simp [gone])).trans (if_neg (by rcases serves with h | h <;> simp [h, Option.ne_none_iff_isSome.mpr]))
  case rail =>
    intro group s off rails low
    exact (if_neg (by simp [off, rails])).trans (congrArg _ (if_neg (by omega)))
  case lastRail =>
    intro s off rails
    refine (if_neg (by simp [off, rails])).trans (congrArg _ ((if_pos rfl).trans ?_))
    simp
  case powerOff => exact fun s powered => if_neg powered
  case hold | quay | oe => exact fun level s => rfl
  case warmReset => exact fun lowNs s long rails => congrArg _ (if_neg (by simp [rails]; omega))

/-- Settles O59: read off the next states of `securityAndPowerEventsComplete`. -/
theorem securityAndSupplyEventsComplete : Obligations.SecurityAndSupplyEventsComplete := by
  obtain ⟨nonce, zeroizeDone, -, rail, lastRail, powerOff, hold, quay, oe, warmReset⟩ := securityAndPowerEventsComplete
  refine ⟨?nonce, ?zeroizeDone, ?powerOn, ?powerOff, ?hold, ?quay, ?oe, ?warmReset⟩
  case nonce => exact fun s => ⟨_, nonce s, rfl⟩
  case zeroizeDone =>
    intro z s zero gone closed noChange
    exact ⟨_, zeroizeDone z s zero gone closed noChange, by simp⟩
  case powerOn =>
    intro group s off rails
    rcases Nat.lt_or_ge group.val 4 with low | last
    · exact ⟨_, rail group s off rails low, rfl, rfl, off.trans (if_neg (by omega)).symm⟩
    · obtain rfl : group = 4 := Fin.ext (by omega)
      exact ⟨_, lastRail s off rails, rfl, rfl, rfl⟩
  case powerOff => exact fun s powered => ⟨_, powerOff s powered, rfl, rfl, rfl, rfl⟩
  case hold => exact fun level s => ⟨_, hold level s, by split <;> rfl⟩
  case quay => exact fun level s => ⟨_, quay level s, by split <;> rfl⟩
  case oe => exact fun level s => ⟨_, oe level s, by split <;> rfl⟩
  case warmReset => exact fun lowNs s long rails => ⟨_, warmReset lowNs s long rails, rfl, rfl, rfl, rfl⟩

end Sys2Proof.Machine

/-! The events of the mailbox, of faults and fences, of start-up and of Sampler mode (O52, O53, O55, O56; 12 R314 to R331, 13 R344 to R357, 15 R389
to R403, 17 R434 to R441). Each meaning begins with the test that leaves the state as it is (log entry 4); the premises of an event decide that
test. -/

namespace Sys2Proof.Machine

/-! ## The mailbox -/

/-- The sender's DOORBELL on an empty channel, with a length that fits the slot, makes it full (12 R316). -/
theorem State.writeCtrl_doorbell {s : State} {who : BitVec 4} {ch : Nat} {len : BitVec 13} (sender : s.isSender ch who = true)
    (empty : (s.chan ch).full = false) (low : 1 ≤ len.toNat) (high : len.toNat ≤ 4096) :
    s.writeCtrl who ch (BitVec.ofNat 32 (2 ^ 16 + len.toNat)) = (s.modChan ch (fun _ => { s.chan ch with full := true, len := len }), false) := by
  have value : (BitVec.ofNat 32 (2 ^ 16 + len.toNat)).toNat = 2 ^ 16 + len.toNat := by
    rw [BitVec.toNat_ofNat]
    omega
  have bit : ∀ i, (BitVec.ofNat 32 (2 ^ 16 + len.toNat)).getLsbD i = (2 ^ 16 + len.toNat).testBit i := fun i => by
    rw [BitVec.getLsbD, value]
  have high19 : (2 ^ 16 + len.toNat).testBit 19 = false := Nat.testBit_lt_two_pow (by omega)
  have high18 : (2 ^ 16 + len.toNat).testBit 18 = false := Nat.testBit_lt_two_pow (by omega)
  have door : (2 ^ 16 + len.toNat).testBit 16 = true := by
    rw [Nat.testBit_two_pow_add_eq, Nat.testBit_lt_two_pow (by omega)]
    rfl
  have release : (2 ^ 16 + len.toNat).testBit 15 = false := by
    rw [Nat.testBit_two_pow_add_gt (by decide), Nat.testBit_lt_two_pow (by omega)]
  have size : (2 ^ 16 + len.toNat) % 2 ^ 13 = len.toNat := by omega
  dsimp only [State.writeCtrl]
  rw [if_pos sender, bit, bit, bit, bit, value, size, high19, high18, door, release, empty]
  rw [if_neg (by simp; omega)]
  simp

/-- The receiver's RELEASE empties the channel (12 R316). -/
theorem State.writeCtrl_release {s : State} {who : BitVec 4} {ch : Nat} (notSender : s.isSender ch who = false)
    (receiver : s.isReceiver ch who = true) :
    s.writeCtrl who ch (BitVec.ofNat 32 (2 ^ 15)) = (s.modChan ch (fun c => { c with full := false }), false) := by
  dsimp only [State.writeCtrl]
  rw [if_neg (by simp [notSender]), if_pos receiver]
  rfl

/-- Settles O52. -/
theorem mailboxEventsComplete : Obligations.MailboxEventsComplete := by
  refine ⟨?doorbell, ?release, ?slotWrite, ?slotRejected, ?selfReset, ?registerWrite, ?replyPart, ?holdWrite, ?holdRead, ?quayWrite, ?quayRead,
    ?tileWrite⟩
  case doorbell =>
    intro who ch len s port sender empty low high
    dsimp only [exec, execDoorbell]
    rw [if_neg (by simp [port]), State.writeCtrl_doorbell sender empty low high]
  case release =>
    intro who ch s port notSender receiver
    dsimp only [exec, execMbCtrlRelease]
    rw [if_neg (by simp [port]), State.writeCtrl_release notSender receiver]
  case slotWrite =>
    intro who ch offset data s port fits sender empty
    dsimp only [exec, execMailboxSlotWrite]
    rw [if_neg (by simp [port, fits]), State.writeSlot, if_pos sender, if_neg (by simp [empty])]
  case slotRejected =>
    intro who ch offset data s port fits sender full
    dsimp only [exec, execMailboxSlotWrite]
    rw [if_neg (by simp [port, fits]), State.writeSlot, if_pos sender, if_pos full]
  case selfReset => exact fun who s port => if_pos port
  case registerWrite => exact fun who offset value s port aligned => (if_neg (by simp [port])).trans (if_neg (by simp [aligned]))
  case replyPart => exact fun ch s => rfl
  case holdWrite =>
    intro id job addr data s started found notSafe
    dsimp only [exec, execMoverTransferDone]
    rw [if_neg (by simp [started]), found]
    dsimp only
    rw [notSafe]
    rfl
  case holdRead | quayRead | quayWrite | tileWrite =>
    intro id _ _ _ s started found
    dsimp only [exec, execMoverTransferDone]
    rw [if_neg (by simp [started]), found]

/-! ## Faults, forces and fences -/

/-- Settles O53. -/
theorem faultEventsComplete : Obligations.FaultEventsComplete := by
  refine ⟨?interrupt, ?forcePkg, ?forceE, ?forceW, ?ack, ?watchdog, ?lockstep, ?latch, ?clock, ?pll, ?voltage, ?tempHigh, ?thermTrip,
    ?thermtripN, ?fenceEmpty, ?fenceDeadline⟩
  case interrupt => exact fun block s => rfl
  case forcePkg | forceE | forceW => exact fun who s => rfl
  case ack => exact fun who s allowed => if_pos allowed
  case watchdog | lockstep => exact fun p s => rfl
  case latch | clock | pll => exact fun h s => rfl
  case voltage => exact fun rail s => rfl
  case tempHigh => exact fun sensor celsius s watched => if_neg (by simp [watched])
  case thermTrip => exact fun sensor celsius s watched hot => if_neg (by simp [watched]; omega)
  case thermtripN => exact fun s => rfl
  case fenceEmpty => exact fun o s fenced empty => if_pos (by rw [fenced, empty]; rfl)
  case fenceDeadline =>
    rintro o f t s found late rfl
    dsimp only [exec, execFenceDeadline]
    rw [found]
    refine (if_neg (by simpa using late)).trans ?_
    cases o <;> rfl

/-! ## Start-up -/

/-- The image that FIRMWARE_AUTHENTICATION starts from the committed bank, where that bank is good (15 R391). -/
theorem execFirmwareAuthentication_committed {f : FlashView} {i : ImageInfo} {s : State} (stage : s.boot.stage = 5)
    (notReady : s.mbox.uciReady = false) (notHost : s.boot.waitHost = false) (notFailed : s.boot.failed = false)
    (good : (if s.boot.committed then s.bankSeen s.boot.bank1 f.bank1 else s.bankSeen s.boot.bank0 f.bank0).good = some i) :
    execFirmwareAuthentication f s =
      let t := s.modBoot (fun b =>
        { b with bank0 := s.bankSeen s.boot.bank0 f.bank0, bank1 := s.bankSeen s.boot.bank1 f.bank1, block := f.block })
      .next ((if f.block.isSome then t else t.bootFail 0x32).startImage i s.boot.committed false) := by
  dsimp only [execFirmwareAuthentication]
  rw [if_neg (by simp [stage, notReady, notHost, notFailed])]
  cases committed : s.boot.committed <;> simp only [State.modBoot, committed, ↓reduceIte, Bool.false_eq_true] at good ⊢ <;> simp only [good]

/-- Settles O55. -/
theorem startupEventsComplete : Obligations.StartupEventsComplete := by
  refine ⟨?bootRom, ?authentication, ?bist, ?bistFails, ?training, ?lanes, ?discovery, ?chart, ?bindings, ?firstTide, ?rejoin⟩
  case bootRom =>
    rintro t s inReset rails rfl
    exact (if_neg (by simp [inReset, rails])).trans (if_neg (by decide))
  case authentication =>
    rintro f i t s stage notReady notHost notFailed rfl good
    exact execFirmwareAuthentication_committed stage notReady notHost notFailed good
  case bist =>
    intro h s stage power notStarted notDone
    exact (if_neg (by simp [stage, power, notStarted, notDone])).trans (if_neg (by simp))
  case bistFails =>
    intro h s stage power notStarted notDone
    exact (if_neg (by simp [stage, power, notStarted, notDone])).trans (if_pos rfl)
  case training =>
    rintro h stacksOk t s stage started notTrained rfl
    refine (if_neg (by simp [stage, started, notTrained])).trans ((if_neg (by simp)).trans ?_)
    cases h <;> rfl
  case lanes =>
    rintro feeds due t s rfl someDue rfl
    exact if_neg (by simpa using someDue)
  case discovery =>
    rintro due bs t s rfl rfl someDue settled rfl
    exact if_neg (by rw [settled]; simpa using someDue)
  case chart => exact fun s stage ready notFailed noClash => congrArg _ (if_pos ⟨stage, ready, notFailed, noClash⟩)
  case bindings =>
    rintro t s stage notFailed notLocked rfl
    dsimp only [exec, execBindingTableLock]
    rw [if_neg (by simp [stage, notFailed]), notLocked]
    rfl
  case firstTide =>
    intro now n s stage ready notFailed notRunning noClash first
    refine (if_neg (by simp [stage, ready, notFailed, notRunning, noClash])).trans ?_
    rw [first]
  case rejoin =>
    rintro h t s ready rfl
    refine (if_neg (not_not_intro ready)).trans ?_
    cases h <;> rfl

/-! ## Sampler mode -/

/-- Settles O56. -/
theorem samplerEventsComplete : Obligations.SamplerEventsComplete := by
  refine ⟨?generator, ?mark, ?evaluation, ?compare⟩
  case generator =>
    intro part gen slot p x t s found generator start running notOver reached inSlot
    dsimp only [exec, execGeneratorPacket]
    rw [found]
    dsimp only
    rw [generator, start]
    refine if_neg ?_
    by_cases now : s.now = (x.due t).1
    · simpa [running, notOver, reached] using fun _ => inSlot now
    · simp [running, notOver, reached, now]
  case mark =>
    rintro b genId seq departure cyc frac n p t s up notSafe rfl mine
    refine (if_neg (by simp [up, notSafe])).trans ?_
    rw [mine]
  case evaluation =>
    rintro part g ps t s found notReady begun rfl rfl
    dsimp only [exec, execGoldenEvaluation]
    rw [found]
    exact if_neg (by simp [notReady, begun])
  case compare =>
    rintro part b payload p g e same s found golden expected ready waits rfl noAck
    dsimp only [exec, execGoldenCompare]
    rw [found]
    dsimp only
    rw [golden]
    dsimp only
    rw [expected]
    refine (if_neg (by simp [ready, waits])).trans (if_neg ?_)
    rcases noAck with off | persona | differ
    · simp [off]
    · simp [persona]
    · simp [differ]

end Sys2Proof.Machine

/-! The UCI commands of queries, streams, collectives, owners, the tide, berths and rings complete (O18 to O22; 12 R332, R333, R335, R336).
A served command that none of its row's causes refuses is answered with what its run leaves (`State.uci_answers`); the premises of each clause
say that no cause holds. -/

namespace Sys2Proof.Machine

/-- A served command that no cause of its own refuses answers with the state, EFFECT, body and wait of its run. -/
theorem State.uci_answers {s : State} {u : Uci} {c : CmdInfo} {cs : List (Nat × Bool)} {f : State → Done} (served : s.served u c = true)
    (noCause : cs.all (fun e => !e.2) = true) :
    (Host.Outcome.next (s.uci u c cs f) : Host.Outcome State Fault Refusal) =
      .next (s.answered (f (s.taken u)).st u c.code (f (s.taken u)).effect (f (s.taken u)).body (f (s.taken u)).wait (f (s.taken u)).status) :=
  congrArg _ (State.uci_served s u c cs f served noCause)

/-- Where a stream's identifier is in range and the stream is the job's, no cause that all stream commands have holds. -/
theorem State.streamCauses_none {s : State} {u : Uci} {sid : U32} (inRange : sid.toNat < 2 ^ 20)
    (mine : (s.stream sid.toNat).man.any (fun m => m.job != u.job.toNat) = false) :
    (s.streamCauses u sid).all (fun e => !e.2) = true := by
  simp only [State.streamCauses, List.all_cons, mine, decide_eq_false (Nat.not_le.mpr inRange)]
  rfl

/-- Settles O18. -/
theorem systemQueriesComplete : Obligations.SystemQueriesComplete := by
  refine ⟨?version, ?faultRead, ?repairLog, ?discovery⟩
  case version | discovery => exact fun u s served => State.uci_answers served rfl
  case faultRead | repairLog => exact fun u first s served => State.uci_answers served rfl

/-- Settles O19. -/
theorem streamCommandsComplete : Obligations.StreamCommandsComplete := by
  refine ⟨?create, ?arm, ?abort, ?commit, ?teardown, ?status, ?pin⟩
  case create =>
    intro u sid m s served inRange wellFormed free mine notBusy mapped alive inUse
    exact State.uci_answers served (by grind)
  case arm =>
    intro u sid cOut s served inRange mine arms scale
    exact State.uci_answers served (by grind [State.streamCauses_none inRange mine])
  case abort =>
    intro u sid s served inRange mine live notBusy
    exact State.uci_answers served (by grind [State.streamCauses_none inRange mine])
  case commit =>
    intro u sid s served inRange mine notFree notFencing notLive notBusy
    exact State.uci_answers served (by grind [State.streamCauses_none inRange mine])
  case teardown =>
    intro u sid s served inRange mine notFree notFencing notBusy
    exact State.uci_answers served (by grind [State.streamCauses_none inRange mine])
  case status => exact fun u sid s served inRange mine => State.uci_answers served (State.streamCauses_none inRange mine)
  case pin =>
    intro u sid pin s served inRange mine low created notBound room
    exact State.uci_answers served (by grind [State.streamCauses_none inRange mine])

/-- Settles O20. -/
theorem collectiveCommandsComplete : Obligations.CollectiveCommandsComplete := by
  refine ⟨?define, ?arm, ?status, ?teardown, ?reshard⟩
  case define =>
    rintro u cid ctl sids r s rfl served inRange empty fits low high single paired crossed room binds
    refine State.uci_answers served (List.all_append.trans ((Bool.and_eq_true _ _).mpr ⟨?_, binds⟩))
    clear served binds
    simp only [List.all_cons, List.all_nil, empty, room, bne_self_eq_false]
    generalize CollSt.kind _ = kind at *
    generalize CollSt.pair _ = pair at *
    generalize CollSt.sidA _ = sidA at *
    cases pair with
    | false => grind
    | true =>
      obtain ⟨reduces, distinct⟩ := paired rfl
      split
      · next up down streams =>
        obtain ⟨upMeets, downMeets⟩ := crossed _ _ rfl streams
        clear streams crossed
        grind
      · grind
  case arm =>
    intro u cid t s served inRange fits mine ready notReshard notTorn notFenced far near safe arms
    refine (State.uci_answers served ?_).trans rfl
    grind
  case status =>
    intro u cid s served inRange mine
    exact State.uci_answers served (by grind)
  case teardown =>
    intro u cid s served inRange used mine notBusy
    exact State.uci_answers served (by grind)
  case reshard =>
    intro u cid round table entries s served inRange fits here good mine kind ready notTorn notFenced notLive settled notBusy roomE roomW inUse
    dsimp only [exec, execReshard]
    rw [here, if_pos rfl]
    exact State.uci_answers served (by grind)

/-- Settles O21. -/
theorem identityAndOwnersComplete : Obligations.IdentityAndOwnersComplete := by
  refine ⟨?owner, ?config, ?asym, ?relock⟩
  case owner =>
    intro u job owner s served inRange known notLive settled noGranules
    exact State.uci_answers served (by grind)
  case config =>
    intro u mode trim parent backup start s served fits quiet
    exact State.uci_answers served (by grind)
  case asym =>
    intro u berth asym s served inRange
    exact State.uci_answers served (by grind)
  case relock =>
    intro u s served notLive follow running
    exact State.uci_answers served (by grind)

/-- Settles O22. -/
theorem berthAndRingCommandsComplete : Obligations.BerthAndRingCommandsComplete := by
  refine ⟨?berthMode, ?poolSetup, ?laneState, ?laneLoop, ?sameLoop, ?hostRing⟩
  case berthMode =>
    intro u lsx mode etherType ownMac peerMac s served inRange known window
    exact State.uci_answers served (by grind)
  case poolSetup =>
    intro u half mode salt pages s served inRange known count good begun free window
    exact State.uci_answers served (by grind)
  case laneState =>
    intro u target state dozeDelay s served fits notParent offRing stage inUse
    exact State.uci_answers served (by grind)
  case laneLoop =>
    intro u berth loop pattern s served inRange known patternKnown near stage inUse other
    have differs : ((s.berth berth.toNat).loopKind == loop.setWidth 2 && (s.berth berth.toNat).loopPattern == pattern) = false := by grind
    dsimp only [exec, execLaneLoop]
    rw [differs, Bool.false_or]
    refine (State.uci_answers served (by grind)).trans ?_
    simp only [beq_iff_eq]
    rfl
  case sameLoop =>
    intro u berth loop pattern s served inRange known patternKnown near stage inUse loopSame patternSame
    have same : ((s.berth berth.toNat).loopKind == loop.setWidth 2 && (s.berth berth.toNat).loopPattern == pattern) = true := by grind
    dsimp only [exec, execLaneLoop]
    rw [same, Bool.true_or]
    exact State.uci_answers served (by grind)
  case hostRing =>
    intro u log2 enable txBase txProd txCons rxBase rxProd rxCons s served low high known txAligned rxAligned txp txc rxp rxc master inUse
    exact State.uci_answers served (by grind)

end Sys2Proof.Machine

/-! The UCI commands of resets and firmware, Charts, memory, jobs and recipes complete (O23 to O28; 12 R331, R333, R334, R337, R338). -/

namespace Sys2Proof.Machine

/-- A served command with a trace of its refusal, that no cause of its own refuses, answers with what its run leaves. -/
theorem State.uciWith_answers {s : State} {u : Uci} {c : CmdInfo} {cs : List (Nat × Bool)} {r : Nat → State → State} {f : State → Done}
    (served : s.served u c = true) (noCause : cs.all (fun e => !e.2) = true) :
    (Host.Outcome.next (s.uciWith u c cs r f) : Host.Outcome State Fault Refusal) =
      .next (s.answered (f (s.taken u)).st u c.code (f (s.taken u)).effect (f (s.taken u)).body (f (s.taken u)).wait (f (s.taken u)).status) :=
  congrArg _ (State.uciWith_served s u c cs r f served noCause)

/-- Settles O23. -/
theorem resetAndFirmwareCommandsComplete : Obligations.ResetAndFirmwareCommandsComplete := by
  refine ⟨?half, ?package, ?begin, ?data, ?commit, ?raise⟩
  case half =>
    rintro u scope h s served (rfl | rfl) rfl otherUsed otherStays stays used
    · exact State.uci_answers served (by grind)
    · exact State.uci_answers served (by grind)
  case package =>
    intro u s served
    exact State.uci_answers served (by grind)
  case begin =>
    intro u size s served low high waits free
    exact State.uci_answers served (by grind)
  case data =>
    intro u offset len data s served low high whole loading waits fits next
    exact State.uci_answers served (by grind)
  case commit =>
    intro u img s served loading whole ok waits
    refine (State.uciWith_answers served (by grind)).trans ?_
    cases load : s.hostLoad <;> simp only [State.taken_hostLoad, load] <;> rfl
  case raise =>
    intro u svn s served low high
    exact State.uci_answers served (by grind)

/-- Settles O24. -/
theorem chartCommandsComplete : Obligations.ChartCommandsComplete := by
  refine ⟨?write, ?arm, ?read, ?liftQ, ?liftB, ?tmWrite, ?tmArm⟩
  case write =>
    intro u section_ index count entries s served ok free
    exact State.uci_answers served (by grind)
  case arm =>
    intro u t s served inRange noClash noMove free inTime notSafe
    refine State.uci_answers served ?_
    simp only [List.all_cons, List.all_nil, decide_eq_false (Nat.not_le.mpr inRange), noClash, noMove, free, inTime, notSafe]
    rfl
  case read =>
    intro u slot section_ index count e s served known entry inside
    exact State.uci_answers served (by grind)
  case liftQ =>
    intro u index s served inRange good
    exact State.uci_answers served (by grind)
  case liftB =>
    intro u index b s served inRange bundle used filled good
    exact State.uci_answers served (by grind)
  case tmWrite =>
    intro u section_ half index count entries s served ok policers free
    exact State.uci_answers served (by grind)
  case tmArm =>
    intro u half s served inRange rates free room quiet
    exact State.uci_answers served (by grind)

/-- Settles O25. -/
theorem allocationCommandsComplete : Obligations.AllocationCommandsComplete := by
  refine ⟨?alloc, ?free, ?quay⟩
  case alloc =>
    intro u stack first count s served ok noneMeets good alive
    refine State.uci_answers served ?_
    simp only [List.all_cons, List.all_nil, granuleRun, ok, noneMeets, decide_eq_false good, beq_false_of_ne alive]
    rfl
  case free =>
    intro u stack first count s served ok owned unused
    refine State.uci_answers served ?_
    simp only [List.all_cons, List.all_nil, granuleRun, ok, owned, unused]
    rfl
  case quay =>
    intro u half base size s served known baseAligned sizeAligned inRange above kept noPage noneMeets
    have noneOut : (s.quayUsed u.job.toNat (Half.ofNum half.toNat)).any (fun r => !insideRange base.toNat size.toNat r) = false := by
      simpa [List.all_eq_not_any_not] using kept
    refine State.uci_answers served ?_
    simp only [List.all_cons, List.all_nil, noneOut, noPage, noneMeets]
    grind

/-- Settles O26. -/
theorem jobCommandsComplete : Obligations.JobCommandsComplete := by
  refine ⟨?seed, ?step, ?define, ?close, ?prefetch, ?versionSeed⟩
  case seed =>
    intro u seed s served notHeld
    exact State.uci_answers served (by grind)
  case step =>
    intro u step s served inRange notHeld
    exact State.uci_answers served (by grind)
  case define =>
    rintro u index half r h x s served known rfl rfl inRange ok mine notOthers inside notUpdating notBusy inUse
    exact State.uci_answers served (by grind)
  case close =>
    intro u version s served inRange begun notOld notClosed notClosing
    exact State.uci_answers served (by grind)
  case prefetch =>
    rintro u version group ranges rs r s rfl rfl served inRange fits notFenced roomE roomW eastUsed westUsed
    exact State.uci_answers served (by grind)
  case versionSeed =>
    intro u index half version cCopy amax s served inRange known versionFits scale mine exists_ notUpdating settled first inUse
    exact State.uci_answers served (by grind)

/-- Settles O27. -/
theorem hostTransfersComplete : Obligations.HostTransfersComplete := by
  refine ⟨?holdWrite, ?holdRead, ?quayWrite, ?quayRead⟩
  case holdWrite | quayWrite =>
    intro u addr len data s served low high inRange whole inside inUse
    exact State.uci_answers served (by grind)
  case holdRead | quayRead =>
    intro u addr len s served low high inRange inside inUse
    exact State.uci_answers served (by grind)

/-- Settles O28. -/
theorem recipeCommandsComplete : Obligations.RecipeCommandsComplete := by
  refine ⟨?load, ?last, ?param, ?unload, ?status⟩
  case load =>
    intro u image offset len data s served inRange low high whole fits notFenced notUpdating notArmed notSafe
    refine State.uci_answers served ?_
    simp only [List.all_cons, List.all_nil, notFenced, notUpdating, notArmed, notSafe]
    grind
  case last =>
    intro u image offset len data r s served inRange low high whole fits notFenced notUpdating notArmed notSafe good ok room
    have inside : (decide (1 ≤ len.toNat ∧ len.toNat ≤ 4048) && data.length == len.toNat
        && decide (offset.toNat + len.toNat ≤ recipeMemory)) = true := by
      simp [low, high, whole, fits]
    dsimp only [exec, execRecipeLoad]
    rw [if_pos ⟨rfl, inside⟩, good]
    refine State.uci_answers served ?_
    simp only [List.all_cons, List.all_nil, Option.any_some, notFenced, notUpdating, notArmed, notSafe, ok]
    grind
  case param =>
    intro u block scalars s served count notFenced room
    exact State.uci_answers served (by grind)
  case unload =>
    intro u image s served inRange notFenced unused
    exact State.uci_answers served (by grind)
  case status =>
    intro u shard s served inRange mine
    refine (State.uci_answers served (by grind)).trans ?_
    rfl

end Sys2Proof.Machine

/-! The UCI commands of faults, repair, power, security, telemetry and Sampler mode complete (O29 to O34; 12 R339 to R341, 14 R366 to R384,
17 R430 to R442). -/

namespace Sys2Proof.Machine

/-- Settles O29. -/
theorem faultCommandsComplete : Obligations.FaultCommandsComplete := by
  refine ⟨?config, ?safeExit, ?fence, ?lift⟩
  case config =>
    intro u source n wLog2 s served known some_ low high
    exact State.uci_answers served (by grind)
  case safeExit =>
    intro u scope maskIndex s served inRange index safe cool packageUp leaving settled
    exact State.uci_answers served (by grind)
  case fence =>
    intro u kind index o s served known free inUse
    dsimp only [exec, execFence]
    rw [known]
    dsimp only [Option.bind_some]
    rw [free]
    exact State.uci_answers served (by grind)
  case lift =>
    intro u kind index o f s served known fenced own standing inUse
    dsimp only [exec, execFence]
    rw [known]
    dsimp only [Option.bind_some]
    rw [fenced]
    refine State.uci_answers served ?_
    simp only [List.all_cons, List.all_nil, Option.any_some, own, standing, inUse]
    rfl

/-- Settles O30. -/
theorem repairCommandsComplete : Obligations.RepairCommandsComplete := by
  refine ⟨?lane, ?tile, ?engineMap, ?tileRead, ?tileWrite, ?diag, ?audit⟩
  case lane =>
    intro u berth lane spareIdx engine tile s served inRange laneKnown index free notAsked up inUse
    exact State.uci_answers served (by grind)
  case tile =>
    intro u berth lane spareIdx engine tile s served inRange tileKnown mapped spare notAsked inUse
    exact State.uci_answers served (by grind)
  case engineMap =>
    intro u half logical physical s served known logicalKnown physicalKnown unserved enough good inUse
    have apart : (List.range 20).any (fun e => e != logical.toNat && (Tab.get (s.physEng (Half.ofNum half.toNat) e)
        (s.half (Half.ofNum half.toNat)).pEngMap e == physical.toNat || s.physEng (Half.ofNum half.toNat) e == physical.toNat)) = false := by
      refine List.any_eq_false.mpr fun e mem => ?_
      have := List.all_eq_true.mp unserved e mem
      grind
    refine State.uci_answers served ?_
    simp only [List.all_cons, List.all_nil, apart, decide_eq_false (Nat.not_lt.mpr enough), decide_eq_false good, inUse]
    grind
  case tileRead =>
    intro u engine tile first count s served inRange tileKnown low high fits notLive mapped inUse
    exact State.uci_answers served (by grind [State.tileCauses])
  case tileWrite =>
    intro u engine tile first count images s served inRange tileKnown low high fits whole ok notLive mapped inUse
    exact State.uci_answers served (by grind [State.tileCauses])
  case diag =>
    intro u half first count s served known low high inRange inUse
    exact State.uci_answers served (by grind)
  case audit =>
    intro u half s served known inUse
    exact State.uci_answers served (by grind)

/-- Settles O31. -/
theorem powerAndSecurityCommandsComplete : Obligations.PowerAndSecurityCommandsComplete := by
  refine ⟨?powerSet, ?challenge, ?close, ?zeroize, ?mastership⟩
  case powerSet =>
    intro u state s served inRange step noWindow doze anchor notSafe notBusy
    refine (State.uci_answers served (by simp only [List.all_cons, List.all_nil, noWindow, notBusy]; grind)).trans ?_
    by_cases asleep : s.sec.power.toNat = 2
    · simp only [asleep, ↓reduceIte, true_or]
    · simp only [asleep, ↓reduceIte, false_or]
      rfl
  case challenge =>
    intro u s served few
    exact State.uci_answers served (by grind)
  case close =>
    intro u s served opened free
    refine (State.uci_answers served (by grind)).trans ?_
    cases run : s.tide.running <;> simp only [State.taken_tide, State.nextBoundary, run] <;> rfl
  case zeroize =>
    rintro u scope z s served known rfl notLive notBusy free
    refine (State.uci_answers served (by grind)).trans ?_
    cases run : s.tide.running <;> simp only [State.taken_tide, State.nextBoundary, run] <;> rfl
  case mastership =>
    intro u s served ready
    refine (State.uci_answers served (by grind)).trans ?_
    cases run : s.tide.running <;> simp only [State.taken_tide, State.nextBoundary, run] <;> rfl

/-- Settles O33. -/
theorem telemetryCommandsComplete : Obligations.TelemetryCommandsComplete := by
  refine ⟨?counters, ?tasting, ?noise, ?streamReport, ?shardReport, ?mirror⟩
  case counters =>
    intro u set first count s served known inside
    exact State.uci_answers served (by grind)
  case tasting =>
    intro u k threshold s served known
    exact State.uci_answers served (by grind)
  case noise =>
    intro u sid j key s served inRange mine known keyFits adds inUse
    exact State.uci_answers served (by grind [State.streamCauses_none inRange mine])
  case streamReport =>
    intro u index s served inRange mine
    exact State.uci_answers served (by grind)
  case shardReport =>
    intro u index s served inRange mine
    exact State.uci_answers served (by grind)
  case mirror =>
    intro u half session source dir vc analysis key flow job s served known sessionKnown sourceKnown ok berth inUse
    exact State.uci_answers served (by grind)

/-- An ACTIVE partition of the header's job, that is not going, has none of the causes that all partition commands have. -/
theorem State.partCauses_none {s : State} {u : Uci} {part : Byte} {p : PartSt} (found : Tab.get? s.parts part.toNat = some p)
    (mine : p.job = u.job.toNat) (active : p.active = true) (stays : p.pDestroy = false)
    (allowed : p.whole = true → privileged (s.senderOf u) = true) : (s.partCauses u part).all (fun e => !e.2) = true := by
  rw [State.partCauses, found]
  grind

/-- Settles O34. -/
theorem samplerCommandsComplete : Obligations.SamplerCommandsComplete := by
  refine ⟨?create, ?gen, ?check, ?golden, ?start, ?stop, ?status, ?destroy⟩
  case create =>
    rintro u part persona whole addr berths engines p s served rfl inRange known wholeKnown berthsFit enginesFit quiet unfenced free someBerth
      someEngine optical apart berthsUsed enginesUsed
    refine State.uci_answers served ?_
    simp only [List.all_cons, List.all_nil, unfenced, free, optical, apart, berthsUsed, enginesUsed]
    grind
  case gen =>
    intro u g p s served found mine active stays allowed ok inside longest late berth idle fits apart
    refine State.uci_answers served ?_
    rw [List.all_append, State.partCauses_none found mine active stays allowed, found]
    simp only [List.all_cons, List.all_nil, Option.any_some, ok, inside, late, idle, fits, apart]
    grind
  case check =>
    intro u part berth trigger pre post mode ring entries p s served found mine active stays allowed inRange t1 t2 t3 t4 inside berthIn
    refine State.uci_answers served ?_
    rw [List.all_append, State.partCauses_none found mine active stays allowed, found]
    grind
  case golden =>
    intro u part ack sid gen table out m p s served found mine active stays allowed inRange known ok own tableIn outIn
    refine State.uci_answers served ?_
    rw [List.all_append, State.partCauses_none found mine active stays allowed]
    grind
  case start =>
    intro u part t p s served found mine active stays allowed inRange far near late apart safe
    refine State.uci_answers served ?_
    rw [List.all_append, State.partCauses_none found mine active stays allowed, found]
    simp only [List.all_cons, List.all_nil, Option.any_some, late, apart, safe]
    grind
  case stop =>
    intro u part p s served found mine active stays allowed running
    refine State.uci_answers served ?_
    rw [List.all_append, State.partCauses_none found mine active stays allowed, found]
    grind
  case status | destroy =>
    exact fun u part p s served found mine active stays allowed =>
      State.uci_answers served (State.partCauses_none found mine active stays allowed)

end Sys2Proof.Machine

/-! The signed commands complete (O32; 14 R366 to R369), and a well-formed message spells its header (O60; 12 R323, 00 R5). -/

namespace Sys2Proof.Machine

/-- A served command whose signature is its only cause spends the nonce, counts the refusal and answers 0xA (14 R367). -/
theorem State.uciWith_authRefused {s : State} {u : Uci} {c : CmdInfo} {cs : List (Nat × Bool)} {f : State → Done}
    (served : s.served u c = true) (unsigned : (stAuth, true) ∈ cs) (only : cs.all (fun e => !e.2 || e.1 == stAuth) = true) :
    (Host.Outcome.next (s.uciWith u c cs State.authRefused f) : Host.Outcome State Fault Refusal) =
      .next (s.answered ((s.taken u).modSec (fun x => { x with nonce := none, authFails := x.authFails + 1 })) u c.code none [] none 0xA) :=
  congrArg _ (State.uciWith_only s u c cs State.authRefused f stAuth served unsigned only)

/-- Settles O32. -/
theorem signedCommandsComplete : Obligations.SignedCommandsComplete := by
  refine ⟨?debugOpen, ?lifecycleSet⟩
  case debugOpen =>
    rintro u target signature s served rfl closed low high power notLive noUpdate free owned
    have mayOpen : (s.sec.dbg == 0 && decide (2 ≤ s.sec.lifecycle.toNat ∧ s.sec.lifecycle.toNat ≤ 4)
        && (s.sec.power == 0 || s.sec.power == 2)) = true := by
      grind
    have keyed : (s.sec.lifecycle.toNat != 3 || s.sec.ownerKey) = true := by grind
    dsimp only [exec, execDebugOpen]
    rw [mayOpen, keyed, Bool.true_and, notLive, noUpdate, free]
    by_cases ok : s.authOk (if s.sec.lifecycle.toNat = 3 then keyOwner else keyDebug) 0x81 signature = true
    · rw [if_pos ok, ok]
      refine (State.uciWith_answers served rfl).trans ?_
      cases run : s.tide.running <;> simp only [State.modSec, State.taken_tide, run] <;> rfl
    · rw [if_neg ok, Bool.eq_false_of_not_eq_true ok]
      exact State.uciWith_authRefused served (by simp) rfl
  case lifecycleSet =>
    intro u target signature s served low high mayMove free
    dsimp only [exec, execLifecycleSet]
    rw [mayMove, free, decide_eq_false (by omega)]
    by_cases ok : s.authOk (if target.toNat = 3 then keyOwner else keyRoot) target signature = true
    · rw [if_pos ok, ok]
      refine (State.uciWith_answers served rfl).trans ?_
      cases run : s.tide.running <;> simp only [State.modSec, State.taken_tide, run] <;> rfl
    · rw [if_neg ok, Bool.eq_false_of_not_eq_true ok]
      exact State.uciWith_authRefused served (by simp) rfl

/-! ## The header's bytes -/

@[simp] theorem leBytes_length (n x : Nat) : (leBytes n x).length = n := by
  induction n generalizing x with
  | zero => rfl
  | succ n ih => simp [leBytes, ih]

/-- The n low bytes of a number read back as the number below 256 to the n (00 R5). -/
theorem leNat_leBytes (n x : Nat) : leNat (leBytes n x) = x % 256 ^ n := by
  induction n generalizing x with
  | zero => simp [leBytes, leNat, Nat.mod_one]
  | succ n ih =>
    rw [leBytes, leNat, ih, BitVec.toNat_ofNat, Nat.pow_succ' (m := 256)]
    exact Nat.mod_mul.symm

/-- A message that spells its command has as many bytes as LEN says. -/
theorem spells_length {u : Uci} {code : Nat} {body : List (Nat × List Byte)} (h : spells u code body = true) :
    u.bytes.length = u.len.toNat := by
  rw [spells, Bool.and_eq_true, Bool.and_eq_true] at h
  obtain ⟨⟨length, -⟩, -⟩ := h
  exact beq_iff_eq.mp length

/-- A header field that lies inside a message that spells its command reads as the field's bytes. -/
theorem field_of_spells {u : Uci} {code o : Nat} {body : List (Nat × List Byte)} {bs : List Byte} (h : spells u code body = true)
    (mem : (o, bs) ∈ headerFields u code) (inside : o + bs.length ≤ u.bytes.length) : field u.bytes o bs.length = leNat bs := by
  rw [spells, Bool.and_eq_true, Bool.and_eq_true] at h
  obtain ⟨⟨-, agree⟩, -⟩ := h
  have same := List.all_eq_true.mp agree _ (List.mem_append_left _ mem)
  have whole : ((u.bytes.drop o).take bs.length).length = bs.length := by
    rw [List.length_take, List.length_drop]
    omega
  rw [beq_iff_eq, whole, List.take_length] at same
  rw [field, same]

/-- Settles O60: each field of the header ends within its first 32 bytes, and the message has them. -/
theorem wellFormedMessagesSpellTheirHeader : Obligations.WellFormedMessagesSpellTheirHeader := by
  intro i u c law wf long
  have spelled : spells u c.code (fieldsOf i) = true := by
    rw [Instr.wf, Bool.and_eq_true, Instr.spelled, law] at wf
    exact wf.right
  have length := spells_length spelled
  have read : ∀ (o n x : Nat), (o, leBytes n x) ∈ headerFields u c.code → o + n ≤ 32 → field u.bytes o n = x % 256 ^ n := by
    intro o n x mem ends
    have := field_of_spells spelled mem (by rw [leBytes_length]; omega)
    rwa [leBytes_length, leNat_leBytes] at this
  have read1 : ∀ (o : Nat) (x : Byte), f1 o x ∈ headerFields u c.code → o + 1 ≤ 32 → field u.bytes o 1 = x.toNat := by
    intro o x mem ends
    exact field_of_spells spelled mem (ends.trans (length ▸ long))
  refine ⟨length, ?code, read1 2 _ (by simp [headerFields]) (by decide), read1 3 _ (by simp [headerFields]) (by decide), ?tag, ?bodyLen,
    read1 0xC _ (by simp [headerFields]) (by decide)⟩
  case code =>
    rw [read 0 2 (BitVec.ofNat 16 c.code).toNat (by simp [headerFields, f2]) (by decide), BitVec.toNat_ofNat]
    omega
  case tag =>
    rw [read 4 4 u.tag.toNat (by simp [headerFields, f4]) (by decide)]
    omega
  case bodyLen =>
    rw [read 8 2 u.bodyLen.toNat (by simp [headerFields, f2]) (by decide)]
    omega

end Sys2Proof.Machine
